-- ==== Sys2Proof/Word.lean ====
section
/-! DEFINITION. The word types of the Chroette A3 (R9, R23): bytes, 64-bit words, register fields. -/
namespace Sys2Proof

/-- A byte of memory or of a register image (R9). -/
abbrev Byte := BitVec 8

/-- A scalar register, control register, address or SCC count: 64 bits (R23). -/
abbrev Word := BitVec 64

/-- A scalar register field of a scalar word, x0 to x31 (R69). -/
abbrev Reg := BitVec 5

/-- A sparse image: (index, byte) pairs, indexes strictly rising, no zero byte listed. An unlisted index reads 0. -/
abbrev Image := List (Nat × Byte)

/-- All bits one: the "no element" value of fault records (R137, R361). -/
def allOnes : Word := BitVec.allOnes 64

end Sys2Proof
end

