-- ==== Sys2Proof/Machine/Format.lean ====
section
/-! DEFINITION. Number formats to the bit (spec/03): format codes, decoding a pattern to its exact value, rounding an
exact value into a format (R13, R51 to R54), the stochastic generator (R55), scales, steps and permutations of the
sorted-difference format (R58 to R62), and split-precision FP64 (R64 to R66). -/
namespace Sys2Proof.Machine

/-! ## Bit fields -/

/-- The n bits of v that begin at bit lo. -/
def bits (v lo n : Nat) : Nat := v / 2 ^ lo % 2 ^ n

/-- TRUNC (R12). -/
def trunc (v : Int) (n : Nat) : Nat := (v % (2 ^ n : Int)).toNat

/-- SX (R12): the n-bit pattern v as a two's-complement integer. -/
def sx (v n : Nat) : Int :=
  let u := v % 2 ^ n
  if n = 0 then 0 else if u < 2 ^ (n - 1) then u else (u : Int) - 2 ^ n

/-- SAT (R12). -/
def sat (v lo hi : Int) : Int := if v < lo then lo else if hi < v then hi else v

/-- Population count of the low n bits. -/
def popc : Nat → Nat → Nat
  | 0, _ => 0
  | n + 1, v => v % 2 + popc n (v / 2)

/-- Little-endian value of a byte list (R9). -/
def leNat : List Byte → Nat
  | [] => 0
  | b :: bs => b.toNat + 256 * leNat bs

/-- The n little-endian bytes of v (R9). -/
def leBytes : Nat → Nat → List Byte
  | 0, _ => []
  | n + 1, v => BitVec.ofNat 8 v :: leBytes n (v / 256)

/-! ## Format codes (R45) -/

/-- EW(fmt) (R45); 0 for the codes 20 to 31, which are no formats. -/
def ew (fmt : Nat) : Nat :=
  match fmt with
  | 0 | 1 | 12 | 13 | 15 => 8
  | 2 | 3 | 8 | 9 | 18 => 16
  | 4 | 5 | 10 => 32
  | 6 | 7 | 11 => 64
  | 14 | 16 | 17 | 19 => 4
  | _ => 0

/-- The integer codes 0 to 7. -/
def isInt (fmt : Nat) : Bool := fmt < 8

/-- The signed integer codes 0, 2, 4, 6. -/
def isSigned (fmt : Nat) : Bool := fmt < 8 && fmt % 2 == 0

/-- The binary floating-point codes 8 to 13 and 19. -/
def isFloat (fmt : Nat) : Bool := (8 ≤ fmt && fmt ≤ 13) || fmt == 19

/-- Reads an integer element (R46). -/
def readInt (fmt v : Nat) : Int := if isSigned fmt then sx v (ew fmt) else v % 2 ^ ew fmt

/-- The least value of an integer format (R46). -/
def intLo (fmt : Nat) : Int := if isSigned fmt then -(2 ^ (ew fmt - 1)) else 0

/-- The greatest value of an integer format (R46). -/
def intHi (fmt : Nat) : Int := if isSigned fmt then 2 ^ (ew fmt - 1) - 1 else 2 ^ ew fmt - 1

/-! ## Floating-point layouts (R47, R48) -/

/-- Parameters of a binary floating-point format (R47). `sat` marks the formats without infinity (R53). -/
structure FpLayout where
  ebits : Nat
  mbits : Nat
  bias : Nat
  sat : Bool
  deriving DecidableEq, Repr

/-- The layout of a floating-point code (R47); F32 for other codes, which no caller passes. -/
def layout (fmt : Nat) : FpLayout :=
  match fmt with
  | 8 => ⟨5, 10, 15, false⟩
  | 9 => ⟨8, 7, 127, false⟩
  | 11 => ⟨11, 52, 1023, false⟩
  | 12 => ⟨4, 3, 7, true⟩
  | 13 => ⟨5, 2, 15, false⟩
  | 19 => ⟨2, 1, 1, true⟩
  | _ => ⟨8, 23, 127, false⟩

/-- The value a floating-point pattern stands for: NaN, an infinity, or (-1)^neg * m * 2^e. -/
inductive FVal where
  | nan
  | inf (neg : Bool)
  | fin (neg : Bool) (m : Nat) (e : Int)
  deriving DecidableEq, Repr

/-- An exact dyadic number m * 2^e. -/
structure Dyadic where
  m : Int
  e : Int
  deriving DecidableEq, Repr

/-- Reads a pattern (R47, R48). -/
def fpDecode (fmt v : Nat) : FVal :=
  let l := layout fmt
  let f := bits v 0 l.mbits
  let x := bits v l.mbits l.ebits
  let neg := bits v (l.mbits + l.ebits) 1 == 1
  let top := x == 2 ^ l.ebits - 1
  if !l.sat && top then (if f = 0 then .inf neg else .nan)
  else if fmt == 12 && top && f == 7 then .nan
  else if x = 0 then .fin neg f (1 - (l.bias : Int) - l.mbits)
  else .fin neg (2 ^ l.mbits + f) ((x : Int) - l.bias - l.mbits)

/-- The canonical NaN (R48); E2M1 has none and a NaN gives +0 (R53). -/
def fpNaN (fmt : Nat) : Nat :=
  match fmt with
  | 8 => 0x7E00
  | 9 => 0x7FC0
  | 10 => 0x7FC00000
  | 11 => 0x7FF8000000000000
  | 12 => 0x7F
  | 13 => 0x7E
  | _ => 0

/-- The sign bit in place. -/
def fpSign (fmt : Nat) (neg : Bool) : Nat :=
  if neg then 2 ^ ((layout fmt).mbits + (layout fmt).ebits) else 0

/-- Magnitude pattern of the largest finite value (R47). -/
def fpMaxMag (fmt : Nat) : Nat :=
  let l := layout fmt
  if fmt == 12 then 0x7E
  else if l.sat then 2 ^ (l.ebits + l.mbits) - 1
  else (2 ^ l.ebits - 2) * 2 ^ l.mbits + (2 ^ l.mbits - 1)

/-- The infinity of a sign; a saturating format takes its largest finite value (R53). -/
def fpInf (fmt : Nat) (neg : Bool) : Nat :=
  let l := layout fmt
  fpSign fmt neg + if l.sat then fpMaxMag fmt else (2 ^ l.ebits - 1) * 2 ^ l.mbits

/-! ## Rounding (R13, R51, R52, R53) -/

/-- Whether the magnitude rounds away from zero: `kept` is the truncated magnitude, `rem`/`den` the discarded fraction. -/
def roundsUp (rm sr : Nat) (neg : Bool) (kept rem den : Nat) : Bool :=
  match rm with
  | 0 => 2 * rem > den || (2 * rem == den && kept % 2 == 1)
  | 1 => false
  | 2 => neg && rem != 0
  | 3 => !neg && rem != 0
  | 4 => rem != 0 && 2 * rem ≥ den
  | _ => sr < rem * 65536 / den

/-- Splits a * 2^e at the bit of weight 2^q: (kept, rem, den) with a * 2^e = (kept + rem / den) * 2^q. -/
def splitAt (a : Nat) (e q : Int) : Nat × Nat × Nat :=
  if q ≤ e then (a * 2 ^ (e - q).toNat, 0, 1)
  else
    let k := (q - e).toNat
    (a / 2 ^ k, a % 2 ^ k, 2 ^ k)

/-- The pattern of k * 2^q, where k < 2^(mbits+1) and q is the format's spacing at that magnitude. -/
def fpPack (fmt : Nat) (neg : Bool) (k : Nat) (q : Int) : Nat :=
  let l := layout fmt
  if k < 2 ^ l.mbits then fpSign fmt neg + k
  else fpSign fmt neg + ((q + l.mbits + l.bias).toNat) * 2 ^ l.mbits + (k - 2 ^ l.mbits)

/-- ROUND of a non-zero exact magnitude a * 2^e (R51 to R53), rounded once at the format's spacing (R50). -/
def roundMag (fmt rm sr : Nat) (neg : Bool) (a : Nat) (e : Int) : Nat :=
  let l := layout fmt
  let qmin : Int := 1 - l.bias - l.mbits
  let q0 : Int := (Nat.log2 a : Int) + e - l.mbits
  let q := if q0 < qmin then qmin else q0
  let (kept, rem, den) := splitAt a e q
  let k0 := kept + (if roundsUp rm sr neg kept rem den then 1 else 0)
  let (k, q) := if k0 = 2 ^ (l.mbits + 1) then (2 ^ l.mbits, q + 1) else (k0, q)
  let mag := fpPack fmt false k q
  if k ≥ 2 ^ l.mbits && (q + l.mbits + l.bias).toNat ≥ 2 ^ l.ebits || mag > fpMaxMag fmt then
    if l.sat || rm == 1 || (rm == 2 && !neg) || (rm == 3 && neg) then fpSign fmt neg + fpMaxMag fmt
    else fpInf fmt neg
  else fpSign fmt neg + mag

/-- ROUND of an exact dyadic; `zneg` is the sign that an exact zero takes. -/
def roundDyadic (fmt rm sr : Nat) (zneg : Bool) (x : Dyadic) : Nat :=
  if x.m = 0 then fpSign fmt zneg else roundMag fmt rm sr (x.m < 0) x.m.natAbs x.e

/-- ROUND of a value (R49 canonical NaN, R53 infinities of saturating formats). -/
def roundVal (fmt rm sr : Nat) : FVal → Nat
  | .nan => fpNaN fmt
  | .inf n => fpInf fmt n
  | .fin n 0 _ => fpSign fmt n
  | .fin n m e => roundMag fmt rm sr n m e

/-- The integer nearest to a dyadic under a rounding code (R51, R54). -/
def roundInt (rm sr : Nat) (x : Dyadic) : Int :=
  let neg := decide (x.m < 0)
  let (kept, rem, den) := splitAt x.m.natAbs x.e 0
  let k := kept + (if roundsUp rm sr neg kept rem den then 1 else 0)
  if neg then -(k : Int) else k

/-! ## Exact arithmetic on values -/

/-- The exact dyadic of a finite value; 0 for the others. -/
def FVal.dyadic : FVal → Dyadic
  | .fin n m e => ⟨if n then -(m : Int) else m, e⟩
  | _ => ⟨0, 0⟩

/-- Exact sum of two dyadics. -/
def Dyadic.add (a b : Dyadic) : Dyadic :=
  let e := if a.e ≤ b.e then a.e else b.e
  ⟨a.m * 2 ^ (a.e - e).toNat + b.m * 2 ^ (b.e - e).toNat, e⟩

/-- Exact product of two dyadics. -/
def Dyadic.mul (a b : Dyadic) : Dyadic := ⟨a.m * b.m, a.e + b.e⟩

/-- a < b, exactly. -/
def Dyadic.lt (a b : Dyadic) : Bool :=
  let e := if a.e ≤ b.e then a.e else b.e
  a.m * 2 ^ (a.e - e).toNat < b.m * 2 ^ (b.e - e).toNat

/-- Sign of a value; NaN counts as positive. -/
def FVal.neg : FVal → Bool
  | .nan => false
  | .inf n => n
  | .fin n _ _ => n

/-- Negation. -/
def FVal.negate : FVal → FVal
  | .nan => .nan
  | .inf n => .inf !n
  | .fin n m e => .fin (!n) m e

def FVal.isNaN : FVal → Bool
  | .nan => true
  | _ => false

def FVal.isInf : FVal → Bool
  | .inf _ => true
  | _ => false

def FVal.isZero : FVal → Bool
  | .fin _ 0 _ => true
  | _ => false

/-- The value of an exact dyadic; `zneg` is the sign of a zero. -/
def FVal.ofDyadic (zneg : Bool) (x : Dyadic) : FVal :=
  if x.m = 0 then .fin zneg 0 0 else .fin (x.m < 0) x.m.natAbs x.e

/-- The exact product (R118): NaN for a NaN operand and for zero times infinity. -/
def fmulExact (a b : FVal) : FVal :=
  if a.isNaN || b.isNaN then .nan
  else if a.isInf || b.isInf then
    if a.isZero || b.isZero then .nan else .inf (a.neg != b.neg)
  else FVal.ofDyadic (a.neg != b.neg) (a.dyadic.mul b.dyadic)

/-- The sign of an exact zero sum (R51): the terms' common sign if they are all zeros of one sign, else minus only
under code 2. -/
def zeroSign (rm : Nat) (ts : List FVal) : Bool :=
  if ts.all (fun t => t.isZero && t.neg) then !ts.isEmpty
  else if ts.all (fun t => t.isZero && !t.neg) then false
  else rm == 2

/-- The exact sum of values (R118, R164): NaN for a NaN term or opposite infinities; a zero sum's sign by R51. -/
def fsumExact (rm : Nat) (ts : List FVal) : FVal :=
  if ts.any FVal.isNaN then .nan
  else if ts.any FVal.isInf then
    if ts.any (fun t => t.isInf && t.neg) then
      if ts.any (fun t => t.isInf && !t.neg) then .nan else .inf true
    else .inf false
  else FVal.ofDyadic (zeroSign rm ts) (ts.foldl (fun a t => a.add t.dyadic) ⟨0, 0⟩)

/-- A dyadic that rounds as the positive quotient a/b does under every code and format: 192 quotient bits and a
sticky bit below them stand for the rest, which no rounding point and no 16-bit fraction of R13 reaches (log 23). -/
def quotDyadic (a b : Nat) : Dyadic :=
  let s := 192 + Nat.log2 b
  let q := a * 2 ^ s / b
  let st := if a * 2 ^ s % b = 0 then 0 else 1
  ⟨(2 * q + st : Nat), -(s : Int) - 1⟩

/-- The quotient (R118). -/
def fdivExact (a b : FVal) : FVal :=
  if a.isNaN || b.isNaN then .nan
  else
    let n := a.neg != b.neg
    if a.isInf then (if b.isInf then .nan else .inf n)
    else if b.isInf then .fin n 0 0
    else if b.isZero then (if a.isZero then .nan else .inf n)
    else match a, b with
      | .fin _ ma ea, .fin _ mb eb =>
        let d := quotDyadic ma mb
        FVal.ofDyadic n ⟨if n then -d.m else d.m, d.e + ea - eb⟩
      | _, _ => .nan

/-- Integer square root by bits: the greatest r with r*r ≤ n, for n < 4^k. -/
def isqrtGo (n : Nat) : Nat → Nat → Nat
  | 0, r => r
  | k + 1, r => let t := r + 2 ^ k; if t * t ≤ n then isqrtGo n k t else isqrtGo n k r

def isqrt (n : Nat) : Nat := isqrtGo n (Nat.log2 n / 2 + 1) 0

/-- A dyadic that rounds as √(m·2^e) does (sticky bit below 190 root bits, log 23). -/
def sqrtDyadic (m : Nat) (e : Int) : Dyadic :=
  let (m, e) := if e % 2 = 0 then (m, e) else (2 * m, e - 1)
  let n := m * 2 ^ 400
  let r := isqrt n
  let st := if r * r = n then 0 else 1
  ⟨(2 * r + st : Nat), e / 2 - 200 - 1⟩

/-- The square root (R118). -/
def fsqrtExact : FVal → FVal
  | .nan => .nan
  | .inf true => .nan
  | .inf false => .inf false
  | .fin n 0 e => .fin n 0 e
  | .fin true _ _ => .nan
  | .fin false m e => FVal.ofDyadic false (sqrtDyadic m e)

/-- The reciprocal square root 1/√a (R120), as a dyadic that rounds as it does. -/
def frsqExact : FVal → FVal
  | .nan => .nan
  | .inf n => if n then .nan else .fin false 0 0
  | .fin n 0 _ => .inf n
  | .fin true _ _ => .nan
  | .fin false m e =>
    -- 1/√(m 2^e) = √(2^-e / m): the quotient 2^k/m to 800 bits, then its root, each with a sticky bit.
    let e2 := if e % 2 = 0 then e else e - 1
    let m2 := if e % 2 = 0 then m else 2 * m
    let n := 2 ^ 1000 / m2
    let st := if 2 ^ 1000 % m2 = 0 then 0 else 1
    let r := isqrt n
    let st2 := if r * r = n then st else 1
    FVal.ofDyadic false ⟨(2 * r + st2 : Nat), -500 - 1 - e2 / 2⟩

/-- Rounds once to nearest even at the coarser of 12 significant bits and the format's spacing (R120). -/
def roundEstimate (fmt : Nat) : FVal → Nat
  | .nan => fpNaN fmt
  | .inf n => fpInf fmt n
  | .fin n 0 _ => fpSign fmt n
  | .fin n m e =>
    let l := layout fmt
    let q12 : Int := (Nat.log2 m : Int) + e - 11
    let qf0 : Int := (Nat.log2 m : Int) + e - l.mbits
    let qmin : Int := 1 - l.bias - l.mbits
    let qf := if qf0 < qmin then qmin else qf0
    let q := if q12 < qf then qf else q12
    let (kept, rem, den) := splitAt m e q
    let k := kept + (if roundsUp 0 0 n kept rem den then 1 else 0)
    -- k * 2^q is representable, or beyond the largest finite value
    if k = 0 then fpSign fmt n else roundMag fmt 0 0 n k q

/-- Compares two values that are not NaN: -0 equals +0 (R123). -/
def fltB (a b : FVal) : Bool :=
  match a, b with
  | .nan, _ => false
  | _, .nan => false
  | .inf n, .inf k => n && !k
  | .inf n, _ => n
  | _, .inf k => !k
  | x, y => x.dyadic.lt y.dyadic

def feqB (a b : FVal) : Bool := !a.isNaN && !b.isNaN && !fltB a b && !fltB b a

/-- Order of VFMIN and VFMAX: as fltB, with -0 below +0 (R119). -/
def ftotB (a b : FVal) : Bool := fltB a b || (feqB a b && a.neg && !b.neg)

/-- VFMIN (R119): pattern a if not above b; one NaN gives the other; two give the canonical NaN. -/
def fminPat (fmt a b : Nat) : Nat :=
  let x := fpDecode fmt a
  let y := fpDecode fmt b
  if x.isNaN then (if y.isNaN then fpNaN fmt else b)
  else if y.isNaN then a
  else if ftotB y x then b else a

/-- VFMAX (R119). -/
def fmaxPat (fmt a b : Nat) : Nat :=
  let x := fpDecode fmt a
  let y := fpDecode fmt b
  if x.isNaN then (if y.isNaN then fpNaN fmt else b)
  else if y.isNaN then a
  else if ftotB x y then b else a

/-- The class bit of a pattern (R119): 0 -inf, 1 -normal, 2 -subnormal, 3 -0, 4 +0, 5 +subnormal, 6 +normal, 7 +inf,
8 NaN. -/
def fclass (fmt v : Nat) : Nat :=
  let l := layout fmt
  match fpDecode fmt v with
  | .nan => 8
  | .inf n => if n then 0 else 7
  | .fin n 0 _ => if n then 3 else 4
  | .fin n _ _ =>
    if bits v l.mbits l.ebits = 0 then (if n then 2 else 5) else (if n then 1 else 6)

/-! ## Conversions (R54, R125) -/

/-- Float to integer (R54). -/
def fpToInt (dfmt rm sr : Nat) : FVal → Int
  | .nan => 0
  | .inf n => if n then intLo dfmt else intHi dfmt
  | .fin n m e => sat (roundInt rm sr ⟨if n then -(m : Int) else m, e⟩) (intLo dfmt) (intHi dfmt)

/-- The value of an S9 scale (R58): e = 0 is +0, e = 255 NaN. -/
def s9Val (v : Nat) : FVal :=
  let e := bits v 1 8
  let h := bits v 0 1
  if e = 0 then .fin false 0 0
  else if e = 255 then .nan
  else .fin false (2 + h) ((e : Int) - 128)

/-- The value a pattern of a source format of VCVT stands for (floats and S9). -/
def srcVal (sfmt v : Nat) : FVal := if sfmt == 18 then s9Val v else fpDecode sfmt v

/-- VCVT of one pattern (R125). -/
def convert (dfmt sfmt rm sr : Nat) (wrap : Bool) (v : Nat) : Nat :=
  if isInt sfmt then
    let x := readInt sfmt v
    if isInt dfmt then
      if wrap then trunc x (ew dfmt) else trunc (sat x (intLo dfmt) (intHi dfmt)) (ew dfmt)
    else roundDyadic dfmt rm sr false ⟨x, 0⟩
  else if isInt dfmt then trunc (fpToInt dfmt rm sr (srcVal sfmt v)) (ew dfmt)
  else roundVal dfmt rm sr (srcVal sfmt v)

/-! ## The stochastic generator (R55) -/

def mix64 (z : Word) : Word :=
  let z := (z ^^^ (z >>> 30)) * 0xBF58476D1CE4E5B9#64
  let z := (z ^^^ (z >>> 27)) * 0x94D049BB133111EB#64
  z ^^^ (z >>> 31)

/-- SRBITS(i) for SEED and SBASE (R55). -/
def srbits (seed sbase : Word) (i : Nat) : Nat :=
  let c := sbase + BitVec.ofNat 64 i
  let z := mix64 (c ^^^ seed)
  let z := mix64 (z + seed)
  (z >>> 48).toNat

/-! ## Asymmetric groups (R56, R57) -/

/-- Group size selected by VTYPE.GRP (R37). -/
def grpSize (grp : Nat) : Nat := if grp = 0 then 32 else if grp = 1 then 64 else 128

/-! ## Sorted-difference groups (R59 to R62) -/

/-- The step of a D4 code (B = 1) or a D4S code (B > 1) (R59). -/
def sdStep (many : Bool) (c : Nat) : Int :=
  if many then
    match c with
    | 0 => 0 | 1 => 1 | 2 => 2 | 3 => 3 | 4 => 4 | 5 => 6 | 6 => 8 | 7 => 12
    | 8 => 0 | 9 => -1 | 10 => -2 | 11 => -3 | 12 => -4 | 13 => -6 | 14 => -8 | _ => -12
  else
    match c with
    | 13 => 16 | 14 => 24 | 15 => 32
    | n => n

/-- NEAREST (R175): the allowed code whose step is nearest to d; ties take the smaller magnitude. -/
def sdNearest (many : Bool) (d : Int) : Nat :=
  let codes := (List.range 16).filter (fun c => !(many && c == 8))
  codes.foldl (fun best c =>
    let db := (sdStep many best - d).natAbs
    let dc := (sdStep many c - d).natAbs
    if dc < db || (dc == db && (sdStep many c).natAbs < (sdStep many best).natAbs) then c else best) 0

/-- Entry k of a 20-byte permutation table (R34, R61), the table given as its little-endian value. -/
def permEntry (t k : Nat) : Nat := bits t (5 * k) 5

/-- Whether a table is a permutation of 0 to 31 (R34, R62). -/
def isPerm (t : Nat) : Bool :=
  (List.range 32).all fun v => (List.range 32).any fun k => permEntry t k == v

/-- SCALE9 (R63): the value of a row's S9 scale. -/
def rowScale (row : Nat) : FVal := s9Val (bits row 0 9)

/-- acc32 of R63 from the suffix sums T(1..32), given as a function of k. -/
def sdAcc (many : Bool) (row : Nat) (t : Nat → Int) : Int :=
  (List.range 31).foldl (fun a j => a + sdStep many (bits row (4 * (j + 2) + 12) 4) * t (j + 2))
    (sx (bits row 12 8) 8 * t 1)

/-- One scaled group value (R63, R178): three roundings to nearest even in F32. -/
def sdScaled (acc : Int) (scale ascale : FVal) : Nat :=
  let g := roundDyadic 10 0 0 false ⟨acc, 0⟩
  let g := roundVal 10 0 0 (fmulExact (fpDecode 10 g) scale)
  roundVal 10 0 0 (fmulExact (fpDecode 10 g) ascale)

/-- F32 addition to nearest even, as the SD accumulations use it (R63, R179). -/
def f32Add (a b : Nat) : Nat := roundVal 10 0 0 (fsumExact 0 [fpDecode 10 a, fpDecode 10 b])

/-! ## Split-precision FP64 (R64 to R66) -/

/-- The n balanced slices of Q, s_0 first (R64). -/
def balanced : Nat → Int → List Int
  | 0, _ => []
  | n + 1, q =>
    let s := sx (trunc q 8) 8
    balanced n ((q - s) / 256) ++ [s]

/-- Slices of a finite F64 pattern at slice count n, and its exponent max(E, 1) (R64). -/
def slice64 (n v : Nat) : List Int × Nat :=
  let m := bits v 0 52
  let x := bits v 52 11
  let mag : Nat := if x = 0 then m else 2 ^ 52 + m
  let q : Int := if bits v 63 1 = 1 then -(mag : Int) else mag
  (balanced n (roundInt 0 0 ⟨q, 8 * (n : Int) - 55⟩), if x = 0 then 1 else x)

/-- D_d of R65. -/
def diag (s u : List Int) (d : Nat) : Int :=
  (List.range (d + 1)).foldl (fun a j => a + s.getD j 0 * u.getD (d - j) 0) 0

/-- The split-precision product P(a, b) (R65, R66), as an exact value. The model's choice (log 103): a product that is 0 has no
sign in R66; it takes the exclusive or of the operands' signs. -/
def split64 (n a b : Nat) : FVal :=
  let va := fpDecode 11 a
  let vb := fpDecode 11 b
  if va.isNaN || vb.isNaN || va.isInf || vb.isInf then fmulExact va vb
  else
    let (s, ea) := slice64 n a
    let (u, eb) := slice64 n b
    let sum := (List.range n).foldl (fun acc d => acc + 256 ^ (2 * n - 2 - d) * diag s u d) (0 : Int)
    FVal.ofDyadic (va.neg != vb.neg) ⟨sum, (ea : Int) + eb - 2150 - 16 * n + 110⟩

end Sys2Proof.Machine
end

