-- ==== Sys2Proof/Syntax.lean ====
section
/-! DEFINITION. The instructions and steps of the Chroette A3: one constructor for each row of spec/opcode_table.json.
Three kinds: the 32-bit scalar words (R68), the 64-bit vector words (R18), and the events that other agents of the
module, firmware, the host and the links bring about (spec/95); an event has no word, its operands are what the outside
or a free order decides. -/
namespace Sys2Proof

/-- The fields of a vector word (R18, R69), VOP apart: the constructor fixes VOP. -/
structure VWord where
  /-- END[63]: the word closes its convoy (R77). -/
  last : Bool
  /-- M[62]. -/
  m : Bool
  vd : BitVec 6
  va : BitVec 6
  vb : BitVec 6
  vc : BitVec 6
  fmt : BitVec 5
  xl : BitVec 5
  clr : BitVec 3
  rm : BitVec 3
  fn : BitVec 14
  deriving DecidableEq, Repr

/-- A launch by the die and table index of its log and the index of its slot (R283, R285). -/
structure LaunchKey where
  die : Nat
  log : Nat
  slot : Nat
  deriving DecidableEq, Repr

/-- What a participant on another module brings to a collective (R195 to R197). -/
structure RemotePart where
  rank : Nat
  op : Nat
  red : Nat
  fmt : Nat
  count : Nat
  tag : Nat
  table : List Nat
  data : List Byte
  /-- Its source met poison or a tether fault (status 3). -/
  bad : Bool
  /-- It was lost on the links (status 2). -/
  lost : Bool
  deriving DecidableEq, Repr

/-- A participant of a collective: one started on this module, by its ticket, or one of another module. -/
inductive ColPart where
  | ticket (t : Nat)
  | remote (r : RemotePart)
  deriving DecidableEq, Repr

/-- What a scrub read finds (R373). -/
inductive ScrubResult where
  | clean
  | corrected
  | uncorrectable
  deriving DecidableEq, Repr

/-- Firmware's acts on the core map (R292, R376). -/
inductive Rebind where
  | bind (logical phys : Nat)
  | retire (phys : Nat)
  deriving DecidableEq, Repr

/-- What another module asks of this module's HBM (R338, R339). -/
inductive RemoteKind where
  | read (n : Nat)
  | write (data : List Byte)
  | atomic (aop n operand expected : Nat)
  /-- A TMOVE there of the line to another, by its physical address in the domain. -/
  | move (dest : Nat)
  deriving DecidableEq, Repr

/-- An access that arrives from another module (R338): its module number and the local physical address. -/
structure RemoteReq where
  source : Nat
  addr : Nat
  kind : RemoteKind
  deriving DecidableEq, Repr

/-- The trace rings of R331 and the capture rings of R366. -/
inductive RingId where
  | core (logical : Nat)
  | dispatcher (die : Nat)
  | hub
  | capture (die : Nat)
  | captureHub
  deriving DecidableEq, Repr

/-- Link bring-up (R383): the module's number, the routing table (module, port), the ports in time-source mode, and
the peer of each other port. -/
structure LinkConfig where
  number : Nat
  routes : List (Nat × Nat)
  timeSource : List Nat
  peers : List (Nat × Nat)
  deriving DecidableEq, Repr

/-- One constructor for each row of the opcode table: first the words, in the table's order, then the events, in the table's
order. (Lean compiles no constructor with arguments past the 245th.) -/
inductive Instr where
  /-- ADD (R92). Writes the 64-bit sum of two scalar registers. -/
  | add (d : Reg) (a : Reg) (b : Reg)
  /-- SUB (R92). Writes the 64-bit difference of two scalar registers. -/
  | sub (d : Reg) (a : Reg) (b : Reg)
  /-- AND (R92). Writes the bitwise AND of two scalar registers. -/
  | and (d : Reg) (a : Reg) (b : Reg)
  /-- OR (R92). Writes the bitwise OR of two scalar registers. -/
  | or (d : Reg) (a : Reg) (b : Reg)
  /-- XOR (R92). Writes the bitwise exclusive OR of two scalar registers. -/
  | xor (d : Reg) (a : Reg) (b : Reg)
  /-- ANDN (R92). Writes a AND NOT b. -/
  | andn (d : Reg) (a : Reg) (b : Reg)
  /-- SLL (R92). Shifts a left by b mod 64. -/
  | sll (d : Reg) (a : Reg) (b : Reg)
  /-- SRL (R92). Shifts a right logically by b mod 64. -/
  | srl (d : Reg) (a : Reg) (b : Reg)
  /-- SRA (R92). Shifts a right arithmetically by b mod 64. -/
  | sra (d : Reg) (a : Reg) (b : Reg)
  /-- SLT (R92). Writes 1 when a is less than b as signed values. -/
  | slt (d : Reg) (a : Reg) (b : Reg)
  /-- SLT_N (R92). Writes 1 when a is less than b as natural values. -/
  | sltN (d : Reg) (a : Reg) (b : Reg)
  /-- MIN (R92). Writes the signed minimum. -/
  | min (d : Reg) (a : Reg) (b : Reg)
  /-- MAX (R92). Writes the signed maximum. -/
  | max (d : Reg) (a : Reg) (b : Reg)
  /-- MIN_N (R92). Writes the natural minimum. -/
  | minN (d : Reg) (a : Reg) (b : Reg)
  /-- MAX_N (R92). Writes the natural maximum. -/
  | maxN (d : Reg) (a : Reg) (b : Reg)
  /-- MUL (R92). Writes the low 64 bits of the product. -/
  | mul (d : Reg) (a : Reg) (b : Reg)
  /-- MULH (R92). Writes the high 64 bits of the signed product. -/
  | mulh (d : Reg) (a : Reg) (b : Reg)
  /-- MULH_N (R92). Writes the high 64 bits of the natural product. -/
  | mulhN (d : Reg) (a : Reg) (b : Reg)
  /-- DIV (R92). Writes the signed quotient, saturating on zero divisor and overflow. -/
  | div (d : Reg) (a : Reg) (b : Reg)
  /-- DIV_N (R92). Writes the natural quotient, saturating on zero divisor. -/
  | divN (d : Reg) (a : Reg) (b : Reg)
  /-- REM (R92). Writes the signed remainder, 0 on zero divisor. -/
  | rem (d : Reg) (a : Reg) (b : Reg)
  /-- REM_N (R92). Writes the natural remainder, 0 on zero divisor. -/
  | remN (d : Reg) (a : Reg) (b : Reg)
  /-- CLZ (R92). Counts leading zero bits. -/
  | clz (d : Reg) (a : Reg)
  /-- CTZ (R92). Counts trailing zero bits. -/
  | ctz (d : Reg) (a : Reg)
  /-- POPC (R92). Counts one bits. -/
  | popc (d : Reg) (a : Reg)
  /-- ADDI (R93). Adds a sign-extended immediate. -/
  | addi (d : Reg) (a : Reg) (i : BitVec 16)
  /-- ANDI (R93). ANDs a zero-extended immediate. -/
  | andi (d : Reg) (a : Reg) (i : BitVec 16)
  /-- ORI (R93). ORs a zero-extended immediate. -/
  | ori (d : Reg) (a : Reg) (i : BitVec 16)
  /-- XORI (R93). Exclusive-ORs a zero-extended immediate. -/
  | xori (d : Reg) (a : Reg) (i : BitVec 16)
  /-- SLLI (R93). Shifts left by an immediate amount. -/
  | slli (d : Reg) (a : Reg) (s : BitVec 6)
  /-- SRLI (R93). Shifts right logically by an immediate amount. -/
  | srli (d : Reg) (a : Reg) (s : BitVec 6)
  /-- SRAI (R93). Shifts right arithmetically by an immediate amount. -/
  | srai (d : Reg) (a : Reg) (s : BitVec 6)
  /-- SLTI (R93). Signed compare against an immediate. -/
  | slti (d : Reg) (a : Reg) (i : BitVec 16)
  /-- SLTI_N (R93). Natural compare against an immediate. -/
  | sltiN (d : Reg) (a : Reg) (i : BitVec 16)
  /-- LUI (R93). Writes the sign-extended immediate times 65,536. -/
  | lui (d : Reg) (i : BitVec 16)
  /-- ADDPC (R93). Writes the word address plus a signed immediate. -/
  | addpc (d : Reg) (i : BitVec 16)
  /-- LD_I64 (R95). Loads 8 bytes into a scalar register. -/
  | ldI64 (d : Reg) (a : Reg) (i : BitVec 16)
  /-- LD_I8 (R95). Loads a sign-extended byte. -/
  | ldI8 (d : Reg) (a : Reg) (i : BitVec 16)
  /-- LD_N8 (R95). Loads a zero-extended byte. -/
  | ldN8 (d : Reg) (a : Reg) (i : BitVec 16)
  /-- LD_I16 (R95). Loads a sign-extended halfword. -/
  | ldI16 (d : Reg) (a : Reg) (i : BitVec 16)
  /-- LD_N16 (R95). Loads a zero-extended halfword. -/
  | ldN16 (d : Reg) (a : Reg) (i : BitVec 16)
  /-- LD_I32 (R95). Loads a sign-extended word. -/
  | ldI32 (d : Reg) (a : Reg) (i : BitVec 16)
  /-- LD_N32 (R95). Loads a zero-extended word. -/
  | ldN32 (d : Reg) (a : Reg) (i : BitVec 16)
  /-- ST_I8 (R96). Stores the low byte of a register through the store buffer. -/
  | stI8 (s : Reg) (a : Reg) (i : BitVec 16)
  /-- ST_I16 (R96). Stores the low halfword of a register. -/
  | stI16 (s : Reg) (a : Reg) (i : BitVec 16)
  /-- ST_I32 (R96). Stores the low word of a register. -/
  | stI32 (s : Reg) (a : Reg) (i : BitVec 16)
  /-- ST_I64 (R96). Stores a whole register. -/
  | stI64 (s : Reg) (a : Reg) (i : BitVec 16)
  /-- AMOSWAP (R101). Atomically swaps a memory location with a register. -/
  | amoswap (d : Reg) (a : Reg) (b : Reg) (w : BitVec 2) (q : Bool) (l : Bool) (c : BitVec 3)
  /-- AMOADD (R101). Atomically adds a register to memory. -/
  | amoadd (d : Reg) (a : Reg) (b : Reg) (w : BitVec 2) (q : Bool) (l : Bool) (c : BitVec 3)
  /-- AMOAND (R101). Atomically ANDs a register into memory. -/
  | amoand (d : Reg) (a : Reg) (b : Reg) (w : BitVec 2) (q : Bool) (l : Bool) (c : BitVec 3)
  /-- AMOOR (R101). Atomically ORs a register into memory. -/
  | amoor (d : Reg) (a : Reg) (b : Reg) (w : BitVec 2) (q : Bool) (l : Bool) (c : BitVec 3)
  /-- AMOXOR (R101). Atomically exclusive-ORs a register into memory. -/
  | amoxor (d : Reg) (a : Reg) (b : Reg) (w : BitVec 2) (q : Bool) (l : Bool) (c : BitVec 3)
  /-- AMOMIN (R101). Atomic signed minimum. -/
  | amomin (d : Reg) (a : Reg) (b : Reg) (w : BitVec 2) (q : Bool) (l : Bool) (c : BitVec 3)
  /-- AMOMAX (R101). Atomic signed maximum. -/
  | amomax (d : Reg) (a : Reg) (b : Reg) (w : BitVec 2) (q : Bool) (l : Bool) (c : BitVec 3)
  /-- AMOMIN_N (R101). Atomic natural minimum. -/
  | amominN (d : Reg) (a : Reg) (b : Reg) (w : BitVec 2) (q : Bool) (l : Bool) (c : BitVec 3)
  /-- AMOMAX_N (R101). Atomic natural maximum. -/
  | amomaxN (d : Reg) (a : Reg) (b : Reg) (w : BitVec 2) (q : Bool) (l : Bool) (c : BitVec 3)
  /-- AMOCAS (R101). Atomic compare-and-swap against the old value in xd. -/
  | amocas (d : Reg) (a : Reg) (b : Reg) (w : BitVec 2) (q : Bool) (l : Bool) (c : BitVec 3)
  /-- ADDR_EQ (R99). Resolves two addresses through translation and tethers and writes whether they are equal. -/
  | addrEq (d : Reg) (a : Reg) (b : Reg)
  /-- CLAIM (R112). Atomically claims a chunk of an iteration record and sets VL. -/
  | claim (d : Reg) (a : Reg) (b : Reg)
  /-- FSV (R109). Orders earlier scalar stores before vector accesses of later blocks. -/
  | fsv
  /-- FVS (R109). Holds later scalar accesses until earlier blocks retire and their stores are performed. -/
  | fvs
  /-- FVV (R109). Orders vector accesses of earlier blocks before those of later blocks in every slice. -/
  | fvv
  /-- FENCE_C (R110). Performs earlier stores of the named colours within the scope before later accesses. -/
  | fenceC (s : BitVec 3) (m : BitVec 8)
  /-- FENCE_X (R111). Orders accesses of one engine class before later accesses of another and takes posted engine faults. -/
  | fenceX (s : BitVec 3) (a : BitVec 3) (b : BitVec 3)
  /-- BEQ (R97). Branches when two registers are equal. -/
  | beq (a : Reg) (b : Reg) (o : BitVec 16)
  /-- BNE (R97). Branches when two registers differ. -/
  | bne (a : Reg) (b : Reg) (o : BitVec 16)
  /-- BLT (R97). Branches on signed less-than. -/
  | blt (a : Reg) (b : Reg) (o : BitVec 16)
  /-- BLT_N (R97). Branches on natural less-than. -/
  | bltN (a : Reg) (b : Reg) (o : BitVec 16)
  /-- BGE (R97). Branches on signed greater-or-equal. -/
  | bge (a : Reg) (b : Reg) (o : BitVec 16)
  /-- BGE_N (R97). Branches on natural greater-or-equal. -/
  | bgeN (a : Reg) (b : Reg) (o : BitVec 16)
  /-- JAL (R98). Writes the link and jumps by a word offset. -/
  | jal (d : Reg) (o : BitVec 21)
  /-- JALR (R98). Writes the link and jumps to a register plus offset. -/
  | jalr (d : Reg) (a : Reg) (i : BitVec 16)
  /-- SETVL (R103). Sets the element width, applies any recorded grant or NREG after earlier blocks retire, and grants VL. -/
  | setvl (d : Reg) (a : Reg) (e : BitVec 2)
  /-- VCONF (R104). Records a pending declared register count. -/
  | vconf (n : BitVec 2)
  /-- STRIP (R105). Consumes a strip, advances pointers, applies any recorded shape and branches while VL is non-zero. -/
  | strip (a : Reg) (b : Reg) (o : BitVec 16)
  /-- VWHILE (R106). Finds the first zero element, partitions the mask and performs the STRIP loop step. -/
  | vwhile (a : Reg) (b : Reg) (o : BitVec 16)
  /-- VFETCH (R73). Queues a vector block with its captured scalar and control values. -/
  | vfetch (o : BitVec 21)
  /-- TMOVE (R155). Moves one 128-byte line to a plain destination and tethers the old line to it. -/
  | tmove (a : Reg) (b : Reg)
  /-- TREL (R157). Releases a tethered line once no access is in flight through it. -/
  | trel (a : Reg)
  /-- TREL_Z (R157). Zeroes a released line, clears its poison and returns it to plain. -/
  | trelZ (a : Reg)
  /-- EXIT (R184). Ends the strand after its blocks retire and its accesses are performed, releasing units and slices. -/
  | exit
  /-- BARRIER (R185). Arrives at a barrier of the launch within a scope. -/
  | barrier (d : Reg) (s : BitVec 5)
  /-- LAUNCH (R186). Appends a launch header to a launch log and advances its tail. -/
  | launch (d : Reg) (a : Reg) (b : Reg)
  /-- COLSTART (R195). Checks a collective record and hands it to the collective engine, returning a ticket. -/
  | colstart (d : Reg) (a : Reg)
  /-- COLWAIT (R197). Waits for a collective ticket and writes its status. -/
  | colwait (d : Reg) (a : Reg)
  /-- TIMERD (R198). Reads the PTP count, latched fraction, SCC or clock status. -/
  | timerd (d : Reg) (c : BitVec 5)
  /-- TICKWAIT (R199). Parks the strand until the PTP count reaches a time. -/
  | tickwait (d : Reg) (a : Reg)
  /-- TRACE (R200). Appends a stamped record to the core's trace ring. -/
  | trace (a : Reg) (b : Reg)
  /-- STOPAT (R201). Arms a halt of a scope instance at an SCC count. -/
  | stopat (d : Reg) (a : Reg) (s : BitVec 5)
  /-- BRFORM (R187). Stands a braid formation on this core and grants the braid tile. -/
  | brform (d : Reg) (a : Reg)
  /-- BRWAIT (R187). Marks the member ready and returns an untaken or the next completion record. -/
  | brwait (d : Reg)
  /-- BRLEAVE (R171). Withdraws the member and dissolves the braid. -/
  | brleave
  /-- XUNFOLD (R189). Checks and queues a patch-matrix command for the copy engine. -/
  | xunfold (a : Reg)
  /-- XTRANS (R190). Checks and queues a tensor-transpose command for the copy engine. -/
  | xtrans (a : Reg)
  /-- IXCLR (R193). Invalidates every index-scratchpad entry after earlier blocks retire. -/
  | ixclr
  /-- TRAP (R113). Raises a software trap with a code and register value. -/
  | trap (a : Reg) (c : BitVec 16)
  /-- CTXSAVE (R202). Writes a target strand's context image and frees its slot. -/
  | ctxsave (d : Reg) (a : Reg) (b : Reg)
  /-- CTXLOAD (R308). Checks and restores a context image into a free slot. -/
  | ctxload (a : Reg) (b : Reg)
  /-- TLBINV (R202). Invalidates one page translation of an ASID across the package. -/
  | tlbinv (a : Reg) (b : Reg)
  /-- TLBINVA (R202). Invalidates every translation of an ASID or of all ASIDs. -/
  | tlbinva (b : Reg)
  /-- TRET (R363). Serves a strand: resumes it or ends it as a failed request, or withdraws a save mark. -/
  | tret (a : Reg) (b : Reg)
  /-- CRRD (R42). Reads a control register into a scalar register. -/
  | crrd (d : Reg) (s : BitVec 16)
  /-- CRWR (R43). Writes a scalar register into a control register without a row of its own, after its checks. -/
  | crwr (a : Reg) (s : BitVec 16)
  /-- VSTOP (R74). Ends the block and takes the next queue entry. -/
  | vstop
  /-- VFADD (R118). Floating-point add with one rounding. -/
  | vfadd (w : VWord)
  /-- VFSUB (R118). Floating-point subtract. -/
  | vfsub (w : VWord)
  /-- VFMUL (R118). Floating-point multiply. -/
  | vfmul (w : VWord)
  /-- VFDIV (R118). Floating-point divide. -/
  | vfdiv (w : VWord)
  /-- VFSQRT (R118). Floating-point square root. -/
  | vfsqrt (w : VWord)
  /-- VFMA (R118). Fused a*b+c. -/
  | vfma (w : VWord)
  /-- VFMS (R118). Fused a*b-c. -/
  | vfms (w : VWord)
  /-- VFNMA (R118). Fused -(a*b)+c. -/
  | vfnma (w : VWord)
  /-- VFNMS (R118). Fused -(a*b)-c. -/
  | vfnms (w : VWord)
  /-- VFMIN (R119). Floating-point minimum. -/
  | vfmin (w : VWord)
  /-- VFMAX (R119). Floating-point maximum. -/
  | vfmax (w : VWord)
  /-- VFSGNJ (R119). Replaces the sign of a with that of b. -/
  | vfsgnj (w : VWord)
  /-- VFSGNJN (R119). Replaces the sign of a with the inverted sign of b. -/
  | vfsgnjn (w : VWord)
  /-- VFSGNJX (R119). Replaces the sign of a with the exclusive OR of both signs. -/
  | vfsgnjx (w : VWord)
  /-- VFCLASS (R119). Writes a mask bit when an element's class lies in the set. -/
  | vfclass (w : VWord)
  /-- VFRECE (R120). Fixed reciprocal estimate. -/
  | vfrece (w : VWord)
  /-- VFRSQE (R120). Fixed reciprocal square-root estimate. -/
  | vfrsqe (w : VWord)
  /-- VADD (R121). Integer add. -/
  | vadd (w : VWord)
  /-- VSUB (R121). Integer subtract. -/
  | vsub (w : VWord)
  /-- VRSUB (R121). Integer reverse subtract. -/
  | vrsub (w : VWord)
  /-- VMUL (R121). Integer multiply, low part. -/
  | vmul (w : VWord)
  /-- VMULH (R121). Integer multiply, high part. -/
  | vmulh (w : VWord)
  /-- VDIV (R121). Integer divide with saturation. -/
  | vdiv (w : VWord)
  /-- VREM (R121). Integer remainder. -/
  | vrem (w : VWord)
  /-- VMIN (R121). Integer minimum. -/
  | vmin (w : VWord)
  /-- VMAX (R121). Integer maximum. -/
  | vmax (w : VWord)
  /-- VAND (R121). Bitwise AND. -/
  | vand (w : VWord)
  /-- VOR (R121). Bitwise OR. -/
  | vor (w : VWord)
  /-- VXOR (R121). Bitwise exclusive OR. -/
  | vxor (w : VWord)
  /-- VSLL (R121). Shift left. -/
  | vsll (w : VWord)
  /-- VSRL (R121). Logical shift right. -/
  | vsrl (w : VWord)
  /-- VSRA (R121). Arithmetic shift right. -/
  | vsra (w : VWord)
  /-- VMADD (R121). Integer multiply-add. -/
  | vmadd (w : VWord)
  /-- VADDS (R122). Saturating add. -/
  | vadds (w : VWord)
  /-- VSUBS (R122). Saturating subtract. -/
  | vsubs (w : VWord)
  /-- VMULS (R122). Saturating multiply. -/
  | vmuls (w : VWord)
  /-- VABS (R122). Saturating absolute value. -/
  | vabs (w : VWord)
  /-- VCLZ (R122). Counts leading zeros per element. -/
  | vclz (w : VWord)
  /-- VPOPC (R122). Counts one bits per element. -/
  | vpopc (w : VWord)
  /-- VADDM (R122). Modular add with a scalar modulus. -/
  | vaddm (w : VWord)
  /-- VSUBM (R122). Modular subtract. -/
  | vsubm (w : VWord)
  /-- VMULM (R122). Modular multiply. -/
  | vmulm (w : VWord)
  /-- VAVG (R122). Rounded-up average without overflow. -/
  | vavg (w : VWord)
  /-- VCMP (R123). Writes mask bits from an element comparison. -/
  | vcmp (w : VWord)
  /-- VMERGE (R124). Selects between two sources by v0. -/
  | vmerge (w : VWord)
  /-- VMV (R124). Copies elements. -/
  | vmv (w : VWord)
  /-- VSPLAT (R124). Writes a scalar register value to every element. -/
  | vsplat (w : VWord)
  /-- VSPLAT_IMM (R124). Writes an immediate value to every element. -/
  | vsplatImm (w : VWord)
  /-- VCVT (R125). Converts each element between formats. -/
  | vcvt (w : VWord)
  /-- VUNPACK (R126). Extracts packed bit fields into elements. -/
  | vunpack (w : VWord)
  /-- VID (R124). Writes scalar plus element index. -/
  | vid (w : VWord)
  /-- VMAND (R127). Mask AND. -/
  | vmand (w : VWord)
  /-- VMOR (R127). Mask OR. -/
  | vmor (w : VWord)
  /-- VMXOR (R127). Mask exclusive OR. -/
  | vmxor (w : VWord)
  /-- VMANDN (R127). Mask AND NOT. -/
  | vmandn (w : VWord)
  /-- VEXT (R124). Extracts one element into a scalar register. -/
  | vext (w : VWord)
  /-- VREDSUM (R128). Integer sum reduction into a scalar. -/
  | vredsum (w : VWord)
  /-- VREDMIN (R128). Integer minimum reduction. -/
  | vredmin (w : VWord)
  /-- VREDMAX (R128). Integer maximum reduction. -/
  | vredmax (w : VWord)
  /-- VREDAND (R128). Bitwise AND reduction. -/
  | vredand (w : VWord)
  /-- VREDOR (R128). Bitwise OR reduction. -/
  | vredor (w : VWord)
  /-- VREDXOR (R128). Bitwise exclusive OR reduction. -/
  | vredxor (w : VWord)
  /-- VFREDSUM (R129). Floating-point sum in a fixed tree. -/
  | vfredsum (w : VWord)
  /-- VFREDMIN (R129). Floating-point minimum reduction. -/
  | vfredmin (w : VWord)
  /-- VFREDMAX (R129). Floating-point maximum reduction. -/
  | vfredmax (w : VWord)
  /-- VMPOP (R130). Counts active mask bits. -/
  | vmpop (w : VWord)
  /-- VMFIRST (R130). Finds the first active mask bit. -/
  | vmfirst (w : VWord)
  /-- VIOTA (R130). Writes the prefix count of active bits. -/
  | viota (w : VWord)
  /-- VCOMPRESS (R131). Packs selected elements to the front. -/
  | vcompress (w : VWord)
  /-- VEXPAND (R131). Spreads dense elements to selected positions. -/
  | vexpand (w : VWord)
  /-- VLUT (R132). Looks each index up in a register table. -/
  | vlut (w : VWord)
  /-- VPERM (R132). Gathers elements by index. -/
  | vperm (w : VWord)
  /-- VSLUP (R133). Slides the vector up by an offset. -/
  | vslup (w : VWord)
  /-- VSLDN (R133). Slides the vector down by an offset. -/
  | vsldn (w : VWord)
  /-- VROUTE (R194). Assigns tokens to experts under a capacity limit. -/
  | vroute (w : VWord)
  /-- IXINS (R192). Inserts or overwrites keys in the index scratchpad. -/
  | ixins (w : VWord)
  /-- IXLOOK (R192). Looks keys up in the index scratchpad. -/
  | ixlook (w : VWord)
  /-- IXACC (R192). Accumulates into or inserts index-scratchpad values. -/
  | ixacc (w : VWord)
  /-- IXDRAIN (R192). Drains valid entries from a cursor, optionally clearing them. -/
  | ixdrain (w : VWord)
  /-- VLD (R142). Unit-stride vector load. -/
  | vld (w : VWord)
  /-- VST (R142). Unit-stride vector store. -/
  | vst (w : VWord)
  /-- VLDS (R142). Strided vector load. -/
  | vlds (w : VWord)
  /-- VSTS (R142). Strided vector store. -/
  | vsts (w : VWord)
  /-- VLDSEG (R144). Segment load with conversion into NF registers. -/
  | vldseg (w : VWord)
  /-- VSTSEG (R144). Segment store with conversion from NF registers. -/
  | vstseg (w : VWord)
  /-- VLDX (R145). Indexed gather. -/
  | vldx (w : VWord)
  /-- VLDXB (R145). Bounds-checked gather that writes zero out of bounds. -/
  | vldxb (w : VWord)
  /-- VSTX (R146). Indexed scatter. -/
  | vstx (w : VWord)
  /-- VSKEIN (R148). Binds a skein record to a register. -/
  | vskein (w : VWord)
  /-- VSKEIN_UNBIND (R148). Unbinds a register's skein. -/
  | vskeinUnbind (w : VWord)
  /-- VLDK (R149). Loads the next strip of a bound skein and advances its cursor. -/
  | vldk (w : VWord)
  /-- VAMOSWAP (R150). Vector atomic swap. -/
  | vamoswap (w : VWord)
  /-- VAMOADD (R150). Vector atomic add. -/
  | vamoadd (w : VWord)
  /-- VAMOAND (R150). Vector atomic AND. -/
  | vamoand (w : VWord)
  /-- VAMOOR (R150). Vector atomic OR. -/
  | vamoor (w : VWord)
  /-- VAMOXOR (R150). Vector atomic exclusive OR. -/
  | vamoxor (w : VWord)
  /-- VAMOMIN (R150). Vector atomic minimum. -/
  | vamomin (w : VWord)
  /-- VAMOMAX (R150). Vector atomic maximum. -/
  | vamomax (w : VWord)
  /-- VAMOCAS (R150). Vector atomic compare-and-swap. -/
  | vamocas (w : VWord)
  /-- VWAIT (R152). Parks the convoy until memory satisfies a comparison at every active element. -/
  | vwait (w : VWord)
  /-- VPGALLOC (R153). Pops pages from a free list into elements indivisibly. -/
  | vpgalloc (w : VWord)
  /-- VSTK (R154). Probes and sends a gather to the stack engines. -/
  | vstk (w : VWord)
  /-- VTMOVE (R156). Moves many lines, one per element, in ascending order. -/
  | vtmove (w : VWord)
  /-- VADDR_EQ (R158). Writes mask bits for equal resolved address pairs. -/
  | vaddrEq (w : VWord)
  /-- TOPADD (R164). Adds an outer product into a tile. -/
  | topadd (w : VWord)
  /-- TOPSUB (R164). Subtracts an outer product from a tile. -/
  | topsub (w : VWord)
  /-- TOPSLD (R165). Sliding outer product for one-dimensional convolution. -/
  | topsld (w : VWord)
  /-- BRTOPADD (R173). Issues one braided outer product to every member. -/
  | brtopadd (w : VWord)
  /-- TLD (R168). Loads tile rows from memory. -/
  | tld (w : VWord)
  /-- TST (R168). Stores tile rows to memory with conversion. -/
  | tst (w : VWord)
  /-- TFILL (R169). Fills every tile cell with a pattern. -/
  | tfill (w : VWord)
  /-- TRDROW (R170). Reads a tile row into a vector. -/
  | trdrow (w : VWord)
  /-- TRDCOL (R170). Reads a tile column into a vector. -/
  | trdcol (w : VWord)
  /-- TWRROW (R170). Writes a vector into a tile row. -/
  | twrrow (w : VWord)
  /-- SDSORT (R175). Compresses I8 weights into sorted-difference bundles in memory. -/
  | sdsort (w : VWord)
  /-- PTLD (R176). Loads and checks permutations into a p-register. -/
  | ptld (w : VWord)
  /-- PTST (R176). Stores permutations from a p-register. -/
  | ptst (w : VWord)
  /-- SDSCAN (R177). Permutes activations by a p-register and forms suffix sums. -/
  | sdscan (w : VWord)
  /-- SDSCAN_MEM (R177). Permutes activations by tables in memory, checking them, and forms suffix sums. -/
  | sdscanMem (w : VWord)
  /-- SDDOT (R178). Forms one scaled value per group and row. -/
  | sddot (w : VWord)
  /-- SDFIN (R179). Accumulates group values in ascending order. -/
  | sdfin (w : VWord)
  /-- SLD (R180). Loads an s-register from memory. -/
  | sld (w : VWord)
  /-- SST (R180). Stores an s-register to memory. -/
  | sst (w : VWord)
  /-- SEMV (R181). Checks and hands a sorted-difference product to a stack engine. -/
  | semv (w : VWord)
  /-- STORE_BUFFER_DRAIN (R96). The oldest store-buffer entry leaves in program order and reaches the data cache and memory. -/
  | storeBufferDrain (core : Nat)
  /-- MOVE_COMMIT (R254). At the end of the transit the copy and tether word are written, the line becomes tethered and held writes follow to the successor. -/
  | moveCommit (line : Nat)
  /-- TETHER_RELEASE_DONE (R261). A waiting TREL completes once in-flight accesses through the line drain, and the line becomes released. -/
  | tetherReleaseDone (line : Nat)
  /-- BARRIER_COMPLETE (R185). The last participant arrives and every waiting BARRIER returns its generation number. -/
  | barrierComplete (key : LaunchKey) (scope : Nat) (unit : Nat)
  /-- TICKWAIT_WAKE (R199). The PTP count reaches the waited time and the strand resumes with the observed count. -/
  | tickwaitWake (core : Nat) (slot : Nat)
  /-- STOPAT_HALT (R201). The SCC reaches the armed count and the scope instance stops issuing and accepting. -/
  | stopatHalt (scope : Nat) (unit : Nat)
  /-- HALT_RELEASE (R310). Firmware releases a halted scope instance and unsaved strands resume. -/
  | haltRelease (scope : Nat) (unit : Nat)
  /-- UNITS_WRITE (R300). A write to UNITS waits for earlier blocks and releases every unit whose bit is cleared. -/
  | unitsWrite (v : Word)
  /-- CAPTURE_WRITE (R203). A write to CAPTURE switches capture or replay mode module-wide on a later SCC edge. -/
  | captureWrite (firmware : Option Word)
  /-- CONVOY_ISSUE (R210). The sequencer issues the next convoy once its decode checks pass, the previous convoy is fault-clear and its pipes are free. -/
  | convoyIssue
  /-- CONVOY_RETIRE (R80). Every word of an issued convoy completes and the convoy retires. -/
  | convoyRetire
  /-- EARLY_WORK_START (R214). The sequencer begins the probe and reads of the next strip's loads under an assumed loop outcome. -/
  | earlyWorkStart
  /-- READ_AHEAD (R228). The stream-load unit reads ahead of a bound skein into its buffer. -/
  | readAhead (v : Nat) (lines : Nat)
  /-- VWAIT_SATISFIED (R152). A reread after a write satisfies the last element and the parked convoy issues. -/
  | vwaitSatisfied
  /-- STACK_GATHER_RUN (R154). The stack engines read and write the gather elements, posting STK-ELEMENT faults. -/
  | stackGatherRun (k : Nat)
  /-- BRAID_EPOCH_OPEN (R171). Once every member is ready the leader's BRTOPADD opens the epoch and tiles are copied to restore buffers. -/
  | braidEpochOpen (cluster : Nat)
  /-- BRAID_EPOCH_COMPLETE (R171). The FIN word retires, faulted tiles are restored and the completion record is multicast. -/
  | braidEpochComplete (cluster : Nat)
  /-- STACK_SEMV_RUN (R181). The stack engine computes and writes the product rows, posting faults. -/
  | stackSemvRun (k : Nat)
  /-- COPY_ENGINE_RUN (R188). The cluster copy engine executes a queued command, posting CPY-ELEMENT faults. -/
  | copyEngineRun (cluster : Nat)
  /-- COLLECTIVE_RUN (R196). The collective engine performs a collective and records its status. -/
  | collectiveRun (parts : List ColPart)
  /-- LOG_SLOT_ACCEPT (R285). The dispatcher sees a tail advance, reads and checks the next header. -/
  | logSlotAccept (die : Nat) (log : Nat)
  /-- DEPENDENCE_SATISFIED (R290). A watched dependence counter reaches its value and the launch moves on. -/
  | dependenceSatisfied (key : LaunchKey) (j : Nat)
  /-- TICK_FIRING_DUE (R327). A tick launch's firing becomes due and the windows are evaluated under the late policy. -/
  | tickFiringDue (key : LaunchKey)
  /-- TICK_WAIT_DEADLINE (R327). Under WAIT, completion or the grace deadline ends the wait and the firing is sealed and placed. -/
  | tickWaitDeadline (key : LaunchKey)
  /-- TOKEN_RECORD_TAKE (R324). The sink controller takes a completely written token record and places, copies or drops it. -/
  | tokenRecordTake (window : Nat) (addr : Nat)
  /-- STRAND_PLACE (R294). The dispatcher places a strand on a core with a lane grant. -/
  | strandPlace (die : Nat)
  /-- QUEUE_AGING (R295). A launch's effective queue rises after AGE cycles. -/
  | queueAging (key : LaunchKey)
  /-- RECLAIM_RECORD (R296). The dispatcher records a reclaim of slices or marks a strand for saving. -/
  | reclaimRecord (key : LaunchKey)
  /-- FORCED_SAVE (R303). LEFT reaches zero and the strand is saved whole and freed. -/
  | forcedSave (core : Nat) (slot : Nat)
  /-- FIRING_RETIRE (R295). The last strand of a firing ends; PERIOD is read again and the next firing scheduled or the launch retires. -/
  | firingRetire (key : LaunchKey)
  /-- LAUNCH_RETIRE (R291). A launch retires, advancing DONE or FAILS and HEAD. -/
  | launchRetire (key : LaunchKey)
  /-- ROW_SWAP (R370). A row reaching SWAPTH activations is swapped with a random row of its bank. -/
  | rowSwap (stack : Nat) (bank : Nat) (row : Nat)
  /-- ACTIVATION_WINDOW (R370). A refresh window ends and the row activation counts restart. -/
  | activationWindow (stack : Nat)
  /-- SUBARRAY_REFRESH (R372). A subarray refreshes and its neighbours' accesses wait. -/
  | subarrayRefresh (stack : Nat) (bank : Nat) (sub : Nat)
  /-- PATROL_SCRUB (R373). The engine reads a line, writes back corrections or poisons it. -/
  | patrolScrub (stack : Nat) (line : Nat) (found : ScrubResult)
  /-- THERMAL_HOT (R374). A die crossing 85 C sets or clears HOT and the refresh window. -/
  | thermalHot (stack : Nat) (hot : Bool)
  /-- UPKCTL_WRITE (R374). Firmware writes the scrub period and swap threshold with clamping. -/
  | upkctlWrite (stack : Nat) (v : Word)
  /-- REMAP (R375). Replaces a logical row with the next spare row and reports in REMAPST. -/
  | remap (stack : Nat) (v : Word)
  /-- CORE_REBIND (R376). Firmware rebinds a logical core to a spare or retires a physical core. -/
  | coreRebind (r : Rebind)
  /-- HOST_MEM_READ (R378). A host CXL.mem read of device HBM resolves through tethers and returns data or poison. -/
  | hostMemRead (addr : Nat) (n : Nat)
  /-- HOST_MEM_WRITE (R378). A host CXL.mem write of device HBM is performed or discarded and completed. -/
  | hostMemWrite (addr : Nat) (data : List Byte)
  /-- BACK_INVALIDATE_DONE (R378). A back-invalidate snoop completes and the waiting device write is performed. -/
  | backInvalidateDone (line : Nat)
  /-- SLOW_TIER_RESPONSE (R380). The host's response to a slow-tier request completes the read, write or atomic. -/
  | slowTierResponse (poison : Bool) (data : List Byte)
  /-- REMOTE_ACCESS_ARRIVAL (R338). An access from another module arrives and is admitted or refused by the export table. -/
  | remoteAccessArrival (r : RemoteReq)
  /-- FLIT_RECEIVE (R382). A hawser flit is received, checked, delivered or discarded with a negative acknowledgement. -/
  | flitReceive (port : Nat) (flit : List Byte)
  /-- FLIT_REPLAY (R382). A negative acknowledgement makes the sender resend from the failed flit. -/
  | flitReplay (port : Nat) (seq : Nat)
  /-- LANE_REPAIR (R384). A failing lane is swapped for a spare, or the port narrows to 8 lanes. -/
  | laneRepair (port : Nat) (lane : Nat)
  /-- REMOTE_READ_TIMEOUT (R383). A read to an unreachable module times out after 100 us and raises POISON. -/
  | remoteReadTimeout (core : Nat) (slot : Nat)
  /-- MODULE_LOST (R383). Firmware declares a module lost and held writes to it are discarded. -/
  | moduleLost (m : Nat)
  /-- PORT_STATUS_READ (R385). Firmware reads a port status and CRCN clears. -/
  | portStatusRead (port : Nat)
  /-- PTP_ADDEND_WRITE (R319). Firmware sets the clock rate. -/
  | ptpAddendWrite (v : Word)
  /-- PTP_STEP_WRITE (R319). Firmware steps the clock by an offset and sets STEPPED for every strand. -/
  | ptpStepWrite (v : Word)
  /-- PTP_STAT_WRITE (R319). Firmware sets or clears LOCK. -/
  | ptpStatWrite (v : Word)
  /-- RESET (R386). Clears all state, zeroes HBM and waits for a firmware image. -/
  | reset
  /-- IMG_CHUNK (R387). Stores image bytes in the staging buffer. -/
  | imgChunk (off : Nat) (data : List Byte)
  /-- IMG_COMMIT (R387). Starts the check of the staged image. -/
  | imgCommit (len : Nat)
  /-- IMAGE_CHECK_DONE (R388). The signature, header and rollback check ends and the image runs or is refused. -/
  | imageCheckDone
  /-- ATTEST (R390). Returns a doubly signed attestation report. -/
  | attest (nonce : List Byte)
  /-- ROLLBACK_ADVANCE (R388). A running image advances the fused rollback counter. -/
  | rollbackAdvance (v : Nat)
  /-- LOG_REGISTER (R283). Firmware registers a launch log and the dispatcher latches its fields. -/
  | logRegister (die : Nat) (log : Nat) (addr : Nat)
  /-- WINDOW_REGISTER (R321). Firmware registers a window with the sink controller. -/
  | windowRegister (w : Nat) (addr : Nat)
  /-- RING_REGISTER (R331). Firmware registers a trace or capture ring. -/
  | ringRegister (ring : RingId) (addr : Nat)
  /-- TRAP_QUEUE_REGISTER (R359). Firmware registers a trap queue. -/
  | trapQueueRegister (q : Nat) (addr : Nat)
  /-- ISLAND_LEVEL_APPLY (R392). Firmware applies a voltage and frequency level to a slice once it holds no lanes. -/
  | islandLevelApply (core : Nat) (slice : Nat) (level : Nat)
  /-- SLICE_STORE_QUEUE_DRAIN (R143). A vector store leaves its lane slice's store queue and is performed at its line's owning queue, merging nibbles and invalidating the scalar data cache. -/
  | sliceStoreQueueDrain (core : Nat) (path : Nat)
  /-- SOFT_ERROR (R347). An uncorrectable error strikes a line of HBM or on-chip memory, so that its next read or scrub finds it poisoned. -/
  | softError (line : Nat) (metadata : Bool)
  /-- SUBARRAY_REFRESH_END (R372). A subarray refresh ends after 350 ns and the waiting accesses and swap or remap writes to its neighbours proceed. -/
  | subarrayRefreshEnd (stack : Nat) (bank : Nat) (sub : Nat)
  /-- ROW_SWAP_DONE (R370). A row swap finishes writing both rows, exchanges the indirection entries and stops serving the rows from the copy buffer. -/
  | rowSwapDone (stack : Nat) (bank : Nat)
  /-- REMAP_DONE (R375). A spare-row remap command ends, pointing the indirection entry at the spare and setting BUSY to 0, RES and LEFT in REMAPST. -/
  | remapDone (stack : Nat)
  /-- LANE_REPAIR_DONE (R384). The lane swap ends after 2 us, RPR clears and the port resumes at 16 lanes, resending any flit that failed meanwhile. -/
  | laneRepairDone (port : Nat)
  /-- HAWSER_LINK_TRAINED (R385). A hawser link trains or returns, UP becomes 1 and writes held at the port for its module proceed. -/
  | hawserLinkTrained (port : Nat)
  /-- HAWSER_LINK_LOST (R383). A hawser link goes down or a module becomes unreachable, so writes to it are held and reads begin to time out. -/
  | hawserLinkLost (port : Nat)
  /-- LINK_BRING_UP (R383). At link bring-up firmware numbers the modules, writes each hub's routing table and sets ports to time-source mode. -/
  | linkBringUp (cfg : LinkConfig)
  /-- PRIORITY_MAP_WRITE (R295). Firmware writes a die dispatcher's priority map MAP, AGE and CAP. -/
  | priorityMapWrite (die : Nat) (map : List Nat) (age : Nat) (cap : Nat)
  /-- SAVE_AREA_REGISTER (R303). Firmware registers a core's save area of four context images that forced saves write into. -/
  | saveAreaRegister (logical : Nat) (addr : Nat)
  /-- EXPORT_TABLE_REGISTER (R338). Firmware registers the base of the module's export table that admits accesses from other modules. -/
  | exportTableRegister (addr : Nat)
  deriving DecidableEq, Repr

/-- Who moves next (the model's own order of turns, log 1): an event takes place, a strand's scalar stream or its vector
sequencer goes on, or the system controller serves a strand through its control port (R310, R363). -/
inductive Turn where
  | event (e : Instr)
  | scalar (core slot : Nat)
  | vector (core slot : Nat)
  /-- TRET of the strand in a slot. -/
  | controlTret (core slot : Nat) (action : Word)
  /-- CTXSAVE of the strand in a slot, at a physical address. -/
  | controlSave (core slot addr : Nat)
  deriving DecidableEq, Repr

end Sys2Proof
end

