-- ==== Sys2Proof/Machine/Shape.lean ====
section
/-! DEFINITION. What each vector word's fields name and which field values it accepts (R69 to R72, R114 to R133, R134 to
R158, R159, R192, R194): one `Shape` for each VOP of R86. The decoder, the decode checks of a convoy (R88) and the
scans of R207 all read this one table. -/
namespace Sys2Proof

/-- The format field as a number. -/
def VWord.f (w : VWord) : Nat := w.fmt.toNat

/-- The n bits of FN that begin at bit lo. -/
def VWord.fnBits (w : VWord) (lo n : Nat) : Nat := Machine.bits w.fn.toNat lo n

/-- BSEL of the second source (R114). -/
def VWord.bsel (w : VWord) : Nat := w.fnBits 0 2

end Sys2Proof

namespace Sys2Proof.Machine

/-- What a register field of a vector word names (R71). -/
inductive FieldKind where
  /-- The word does not use the field: it must be 0 (R10). -/
  | unused
  /-- `count` vector registers or register groups, read or written at `width` bits (R28). -/
  | vec (width count : Nat)
  /-- One vector register, whatever the format: a mask image, an offset vector, a packed stream, a binding. -/
  | one
  /-- A scalar register, 0 to 31. -/
  | scal
  | tile
  | preg
  | sreg
  /-- A selector, checked by `selOk`. -/
  | sel
  deriving DecidableEq, Repr

/-- The classes of R70. -/
inductive VClass where
  | arith
  | cross
  | load
  | store
  | matrix
  | control
  deriving DecidableEq, Repr

/-- The class that a whole VOP range has (R70). -/
def vclass (vop : Nat) : VClass :=
  if vop < 0x40 then .arith else if vop < 0x60 then .cross else if vop < 0x80 then .arith
  else if vop < 0xA0 then .load else if vop < 0xC0 then .store else if vop < 0xE0 then .matrix else .control

/-- How one vector word uses its fields. -/
structure Shape where
  vd : FieldKind := .unused
  va : FieldKind := .unused
  vb : FieldKind := .unused
  vc : FieldKind := .unused
  /-- VD (VC, VB) is written. -/
  vdDst : Bool := false
  vcDst : Bool := false
  vbDst : Bool := false
  /-- The word writes v0 beside its named destination (R153, R192, R194). -/
  v0Dst : Bool := false
  /-- A mask-writing word (R117), for which VD = v0 with M = 1 is legal. -/
  maskDst : Bool := false
  /-- VD (and VC, if written) must not be v0. -/
  notV0 : Bool := false
  fmtOk : Bool := false
  mOk : Bool := false
  xlOk : Bool := false
  clrOk : Bool := false
  /-- The word accepts RM 0 to 6 (R72); otherwise RM must be 0. -/
  rounds : Bool := false
  fnOk : Bool := false
  selOk : Bool := true
  /-- The word names the index scratchpad (R299). -/
  ix : Bool := false
  deriving DecidableEq, Repr

/-- The second source as BSEL selects it, codes 0 and 1 (floats, VCMP, VMERGE) or 0 to 2 (integers) (R114). -/
def bKind (w : VWord) (wd : Nat) : FieldKind :=
  match w.bsel with
  | 0 => .vec wd 1
  | 1 => .scal
  | _ => .unused

def bFnOk (w : VWord) (maxSel : Nat) : Bool :=
  w.bsel ≤ maxSel && (w.bsel == 2 || w.fnBits 2 12 == 0)

/-- The codes 8 to 11. -/
def isWideFloat (f : Nat) : Bool := 8 ≤ f && f ≤ 11

/-- The formats of strided and indexed words (R142, R145, R154). -/
def isByteFmt (f : Nat) : Bool := f ≤ 13 || f == 15 || f == 18

/-- The formats whose tile readout rounds (R168). -/
def isTileRound (f : Nat) : Bool := f == 8 || f == 9 || f == 12 || f == 13

/-- The formats of TST, TRDROW and TRDCOL (R168, R170). -/
def isTileOut (f : Nat) : Bool := f == 0 || f == 4 || (8 ≤ f && f ≤ 13)

/-- The formats of TOPADD and TOPSUB (R163). -/
def isTopFmt (f : Nat) : Bool := f ≤ 1 || (8 ≤ f && f ≤ 15) || f == 19

/-- The formats of TOPSLD (R159). -/
def isSlideFmt (f : Nat) : Bool := f ≤ 1 || f == 8 || f == 9 || f == 10 || f == 12 || f == 13

/-- The width at which the row operand of an outer product is read (R163): I8 under the asymmetric formats. -/
def rowWidth (f : Nat) : Nat := if f == 14 || f == 15 then 8 else ew f

/-- The shape of a word with this VOP and these fields; none for an unassigned VOP (R86, R87). -/
def shape (vop : Nat) (w : VWord) : Option Shape :=
  let f := w.f
  let W := ew f
  let v := FieldKind.vec W 1
  let fn0 := w.fn.toNat == 0
  -- integer two-source words (R121, R122)
  let int2 : Shape := { vd := v, va := v, vb := bKind w W, vdDst := true, fmtOk := isInt f, mOk := true, xlOk := true,
                        fnOk := bFnOk w 2 }
  let un : Shape := { vd := v, va := v, vdDst := true, mOk := true, xlOk := true, fnOk := fn0 }
  -- floating-point two-source words (R118)
  let flt2 : Shape := { vd := v, va := v, vb := bKind w W, vdDst := true, fmtOk := isWideFloat f, mOk := true,
                        xlOk := true, rounds := true, fnOk := bFnOk w 1 }
  let redI : Shape := { vd := .scal, va := v, vb := .scal, vdDst := true, fmtOk := isInt f, mOk := true, fnOk := fn0 }
  let memI : Shape := { vd := v, va := .scal, mOk := true, fnOk := true }
  match vop with
  | 0x01 | 0x02 | 0x03 | 0x04 => some flt2
  | 0x05 => some { un with fmtOk := isWideFloat f, rounds := true }
  | 0x06 | 0x07 => some { flt2 with rounds := false }
  | 0x08 => some { flt2 with rounds := false, fnOk := w.bsel ≤ 1 && w.fnBits 2 2 ≠ 3 && w.fnBits 4 10 == 0 }
  | 0x09 => some { vd := .one, va := v, vdDst := true, maskDst := true, fmtOk := isFloat f, mOk := true, xlOk := true,
                   fnOk := w.fnBits 0 9 ≠ 0 && w.fnBits 9 5 == 0 }
  | 0x0A | 0x0B => some { un with fmtOk := isWideFloat f }
  | 0x0C | 0x0D | 0x0E | 0x0F => some { flt2 with vc := v }
  | 0x10 | 0x11 | 0x12 | 0x13 | 0x14 | 0x15 | 0x16 | 0x17 | 0x18 | 0x19 | 0x1A | 0x1B | 0x1C | 0x1D | 0x1E => some int2
  | 0x1F => some { int2 with vc := v }
  | 0x20 | 0x21 | 0x22 | 0x29 => some int2
  | 0x23 => some { un with fmtOk := isSigned f }
  | 0x24 | 0x25 => some { un with fmtOk := isInt f }
  | 0x26 | 0x27 | 0x28 => some { int2 with vc := .scal, fmtOk := isInt f && !isSigned f }
  | 0x30 => some { vd := .one, va := v, vb := bKind w W, vdDst := true, maskDst := true, fmtOk := f ≤ 11, mOk := true,
                   xlOk := true,
                   fnOk := w.bsel ≤ 1 && w.fnBits 6 8 == 0 && w.fnBits 2 4 ≤ 7 && (w.fnBits 2 4 < 6 || !isInt f) }
  | 0x31 => some { un with vb := bKind w W, fmtOk := f ≤ 19, mOk := false, fnOk := bFnOk w 1 }
  | 0x32 => some { un with fmtOk := f ≤ 19 }
  | 0x33 => some { vd := v, va := if w.fnBits 0 1 = 0 then .scal else .unused, vdDst := true, fmtOk := f ≤ 19, mOk := true,
                   fnOk := w.fnBits 0 1 == 1 || fn0 }
  | 0x34 => some { un with va := .vec (ew (w.fnBits 0 5)) 1, fmtOk := f ≤ 13 || f == 19, rounds := true,
                           fnOk := w.fnBits 6 8 == 0 && (w.fnBits 0 5 ≤ 13 || w.fnBits 0 5 == 18 || w.fnBits 0 5 == 19) &&
                           (w.fnBits 5 1 == 0 || (isInt f && isInt (w.fnBits 0 5))) }
  | 0x35 => some { vd := v, va := .one, vb := .scal, vdDst := true, fmtOk := isInt f, mOk := true,
                   fnOk := w.fnBits 7 7 == 0 && w.fnBits 0 6 + 1 ≤ W }
  | 0x36 => some { vd := v, va := .scal, vdDst := true, fmtOk := isInt f, mOk := true, fnOk := fn0 }
  | 0x37 | 0x38 | 0x39 | 0x3A => some { vd := .one, va := .one, vb := .one, vdDst := true, maskDst := true, fmtOk := f == 0,
                                        mOk := true, fnOk := fn0 }
  | 0x3B => some { redI with fmtOk := f ≤ 19, mOk := false }
  | 0x40 | 0x41 | 0x42 | 0x43 | 0x44 | 0x45 => some redI
  | 0x46 => some { redI with fmtOk := isWideFloat f, rounds := true }
  | 0x47 | 0x48 => some { redI with fmtOk := isWideFloat f }
  | 0x49 | 0x4A => some { vd := .scal, va := .one, vdDst := true, fmtOk := f == 0, mOk := true, fnOk := fn0 }
  | 0x4B => some { vd := v, va := .one, vdDst := true, fmtOk := isInt f, mOk := true, fnOk := fn0 }
  | 0x4C | 0x4D => some { vd := v, va := v, vdDst := true, notV0 := true, fmtOk := f ≤ 19, fnOk := fn0 }
  | 0x4E => some { vd := v, va := v, vb := .vec (ew (w.fnBits 0 5)) 1, vdDst := true, fmtOk := f ≤ 19, mOk := true,
                   fnOk := w.fnBits 9 5 == 0 && w.fnBits 0 5 < 8 && w.fnBits 0 1 == 1 }
  | 0x4F => some { vd := v, va := v, vb := v, vdDst := true, fmtOk := f ≤ 19, mOk := true, fnOk := fn0 }
  | 0x50 | 0x51 => some { vd := v, va := v, vb := .scal, vdDst := true, fmtOk := f ≤ 19, mOk := true, fnOk := fn0 }
  | 0x52 => some { vd := v, va := v, vb := .scal, vc := v, vdDst := true, vcDst := true, v0Dst := true, notV0 := true,
                   fmtOk := f == 3 || f == 5, mOk := true, fnOk := fn0, selOk := w.vd ≠ w.vc }
  | 0x53 => some { vd := .one, va := .vec 64 1, vb := .vec 64 1, vdDst := true, maskDst := true,
                   fmtOk := f == 6 || f == 7 || f == 11, mOk := true, fnOk := fn0, ix := true }
  | 0x54 => some { vd := .vec 64 1, va := .vec 64 1, vdDst := true, v0Dst := true, notV0 := true,
                   fmtOk := f == 6 || f == 7 || f == 11, mOk := true, fnOk := fn0, ix := true }
  | 0x55 => some { vd := .one, va := .vec 64 1, vb := .vec 64 1, vdDst := true, maskDst := true, rounds := f == 11,
                   fmtOk := f == 6 || f == 7 || f == 11, mOk := true, fnOk := fn0, ix := true }
  | 0x56 => some { vd := .vec 64 1, vb := .scal, vc := .vec 64 1, vdDst := true, vcDst := true, vbDst := true, v0Dst := true,
                   notV0 := true, fmtOk := f == 6 || f == 7 || f == 11, fnOk := w.fnBits 1 13 == 0, ix := true,
                   selOk := w.vd ≠ w.vc }
  | 0x80 => some { memI with vdDst := true, fmtOk := f ≤ 19 }
  | 0x81 => some { memI with vb := .scal, vdDst := true, fmtOk := isByteFmt f }
  | 0x82 => some { memI with vd := .vec W w.vb.toNat, vb := .sel, vc := .sel, vdDst := true, rounds := true, fmtOk := f ≤ 13,
                             selOk := 2 ≤ w.vb.toNat && w.vb.toNat ≤ 8 && w.vc.toNat ≤ 13 && isInt w.vc.toNat == isInt f }
  | 0x83 => some { memI with vb := .one, vdDst := true, fmtOk := isByteFmt f }
  | 0x84 => some { memI with vb := .one, vc := .scal, vdDst := true, fmtOk := isByteFmt f }
  | 0x85 => some { vd := .one, va := if w.vb = 0 then .scal else .unused, vb := .sel, fmtOk := f == 0,
                   selOk := w.vb.toNat ≤ 1, fnOk := w.vb = 0 || fn0 }
  | 0x86 => some { memI with va := .unused, vdDst := true, fmtOk := f ≤ 19, fnOk := fn0 }
  | 0x87 => some { memI with vd := .unused, vb := .one, vc := v, fmtOk := isInt f,
                             fnOk := w.fnBits 7 7 == 0 && w.fnBits 0 2 == 0 && w.fnBits 2 4 ≤ 5 }
  | 0x88 => some { memI with vd := .one, vb := .one, vc := .one, vdDst := true, maskDst := true, fmtOk := f == 0 }
  | 0xA0 => some { memI with fmtOk := f ≤ 19, clrOk := true }
  | 0xA1 => some { memI with vb := .scal, fmtOk := isByteFmt f, clrOk := true }
  | 0xA2 => some { memI with vd := .vec W w.vb.toNat, vb := .sel, vc := .sel, rounds := true, fmtOk := f ≤ 13, clrOk := true,
                             selOk := 2 ≤ w.vb.toNat && w.vb.toNat ≤ 8 && w.vc.toNat ≤ 13 && isInt w.vc.toNat == isInt f }
  | 0xA3 => some { memI with vb := .one, fmtOk := isByteFmt f, clrOk := true }
  | 0xA4 => some { memI with vb := .one, vc := v, vdDst := true, fmtOk := 4 ≤ f && f ≤ 7, clrOk := true,
                             fnOk := w.fnBits 0 5 == 0 && w.fnBits 5 3 ≤ 5 && (w.fnBits 10 4 ≤ 6 || w.fnBits 10 4 == 9) }
  | 0xA5 => some { vd := .vec 64 1, va := .scal, vc := .scal, vdDst := true, vcDst := true, v0Dst := true, notV0 := true,
                   fmtOk := f == 6 || f == 7, mOk := true, clrOk := true, fnOk := fn0 }
  | 0xA6 => some { memI with vd := .unused, vb := .one, vc := .one, fmtOk := f == 0, clrOk := true }
  | 0xA7 => some { memI with vd := .unused, vb := .one, vc := .scal, fmtOk := isByteFmt f, clrOk := true }
  | 0xC0 | 0xC1 => some { vd := .tile, va := .vec (rowWidth f) 1, vb := v, vdDst := true, fmtOk := isTopFmt f, mOk := true,
                          rounds := !isInt f, fnOk := w.fnBits 7 7 == 0 }
  | 0xC2 => some { vd := .tile, va := v, vb := v, vdDst := true, fmtOk := isSlideFmt f, mOk := true, rounds := !isInt f,
                   fnOk := w.fnBits 9 5 == 0 }
  | 0xC3 => some { vd := .tile, va := .scal, vb := v, vdDst := true, fmtOk := isSlideFmt f || f == 19, mOk := true,
                   rounds := !isInt f, fnOk := w.fnBits 8 6 == 0 }
  | 0xC4 => some { memI with vd := .tile, vb := .scal, vdDst := true, fmtOk := f == 4 || f == 10 || f == 11 }
  | 0xC5 => some { memI with vd := .tile, vb := .scal, fmtOk := isTileOut f, rounds := isTileRound f, clrOk := true }
  | 0xC6 => some { vd := .tile, va := .scal, vdDst := true, fmtOk := f == 0, fnOk := fn0 }
  | 0xC7 | 0xC9 => some { vd := v, va := .tile, vb := .scal, vdDst := true, fmtOk := isTileOut f, rounds := isTileRound f,
                          mOk := true, fnOk := fn0 }
  | 0xC8 => some { vd := .tile, va := v, vb := .scal, vdDst := true, fmtOk := f == 4 || f == 10 || f == 11, mOk := true,
                   fnOk := fn0 }
  | 0xCA => some { va := .scal, vb := .vec 8 1, fmtOk := f == 0, clrOk := true, fnOk := true }
  | 0xCB => some { vd := .preg, va := .scal, vb := .sel, vdDst := true, fmtOk := f == 0, fnOk := true,
                   selOk := w.vb.toNat ≤ 1 }
  | 0xCC => some { vd := .preg, va := .scal, vb := .sel, fmtOk := f == 0, clrOk := true, fnOk := true,
                   selOk := w.vb.toNat ≤ 1 }
  | 0xCD => if w.fnBits 13 1 = 0 then
      some { vd := .sreg, va := .vec 8 1, vb := .preg, vdDst := true, fmtOk := f == 0, fnOk := fn0 }
    else
      some { vd := .sreg, va := .vec 8 1, vc := .scal, vdDst := true, fmtOk := f == 0, fnOk := w.fnBits 0 12 == 0 }
  | 0xCE => some { vd := .vec 32 1, va := .scal, vb := .sreg, vdDst := true, fmtOk := f == 10, fnOk := true }
  | 0xCF => some { vd := .vec 32 1, va := .vec 32 1, vdDst := true, fmtOk := f == 10, fnOk := fn0 }
  | 0xD0 => some { vd := .sreg, va := .scal, vdDst := true, fmtOk := f == 4, fnOk := true }
  | 0xD1 => some { vd := .sreg, va := .scal, fmtOk := f == 4, clrOk := true, fnOk := true }
  | 0xD2 => some { va := .scal, fmtOk := f == 0, clrOk := true, fnOk := true }
  | _ => none

/-! ## The static field checks (R10, R19, R30, R45, R71, R72) -/

/-- A register field holds a value its kind allows (R10, R71). -/
def fieldOk (k : FieldKind) (v : BitVec 6) : Bool :=
  match k with
  | .unused => v == 0
  | .scal => v.toNat < 32
  | .tile | .preg => v.toNat < 8
  | .sreg => v.toNat < 4
  | .vec _ _ | .one | .sel => true

/-- XL: kind 0 has no distance; another kind only where the word accepts it (R19, R72). -/
def xlFieldOk (ok : Bool) (xl : BitVec 5) : Bool := xl == 0 || (ok && 8 ≤ xl.toNat)

/-- A vector destination that is v0 under M = 1 (R30); groups that contain v0 begin at v0. -/
def v0Clash (sh : Shape) (w : VWord) : Bool :=
  let isVec := match sh.vd with | .vec _ _ | .one => true | _ => false
  (sh.vdDst && isVec && w.vd == 0 && ((w.m && !sh.maskDst && !sh.v0Dst) || sh.notV0)) ||
  (sh.vcDst && sh.notV0 && (match sh.vc with | .vec _ _ => w.vc == 0 | _ => false))

/-- Every static check of a vector word with its shape: what R87 calls ILLEGAL-ENCODING whatever the state holds. -/
def shapeOk (sh : Shape) (w : VWord) : Bool :=
  fieldOk sh.vd w.vd && fieldOk sh.va w.va && fieldOk sh.vb w.vb && fieldOk sh.vc w.vc &&
  sh.fmtOk && (sh.mOk || !w.m) && xlFieldOk sh.xlOk w.xl && (sh.clrOk || w.clr == 0) &&
  (if sh.rounds then w.rm ≠ 7 else w.rm == 0) && sh.fnOk && sh.selOk && !v0Clash sh w

/-- The word with this VOP and these fields is an instruction (R86, R87). -/
def vwordOk (vop : Nat) (w : VWord) : Bool :=
  match shape vop w with
  | none => false
  | some sh => shapeOk sh w

/-- The fields of a vector word's constructor; VSTOP has none (R74). -/
def vfields : Instr → Option VWord
  | .vfadd w => some w
  | .vfsub w => some w
  | .vfmul w => some w
  | .vfdiv w => some w
  | .vfsqrt w => some w
  | .vfma w => some w
  | .vfms w => some w
  | .vfnma w => some w
  | .vfnms w => some w
  | .vfmin w => some w
  | .vfmax w => some w
  | .vfsgnj w => some w
  | .vfsgnjn w => some w
  | .vfsgnjx w => some w
  | .vfclass w => some w
  | .vfrece w => some w
  | .vfrsqe w => some w
  | .vadd w => some w
  | .vsub w => some w
  | .vrsub w => some w
  | .vmul w => some w
  | .vmulh w => some w
  | .vdiv w => some w
  | .vrem w => some w
  | .vmin w => some w
  | .vmax w => some w
  | .vand w => some w
  | .vor w => some w
  | .vxor w => some w
  | .vsll w => some w
  | .vsrl w => some w
  | .vsra w => some w
  | .vmadd w => some w
  | .vadds w => some w
  | .vsubs w => some w
  | .vmuls w => some w
  | .vabs w => some w
  | .vclz w => some w
  | .vpopc w => some w
  | .vaddm w => some w
  | .vsubm w => some w
  | .vmulm w => some w
  | .vavg w => some w
  | .vcmp w => some w
  | .vmerge w => some w
  | .vmv w => some w
  | .vsplat w => some w
  | .vsplatImm w => some w
  | .vcvt w => some w
  | .vunpack w => some w
  | .vid w => some w
  | .vmand w => some w
  | .vmor w => some w
  | .vmxor w => some w
  | .vmandn w => some w
  | .vext w => some w
  | .vredsum w => some w
  | .vredmin w => some w
  | .vredmax w => some w
  | .vredand w => some w
  | .vredor w => some w
  | .vredxor w => some w
  | .vfredsum w => some w
  | .vfredmin w => some w
  | .vfredmax w => some w
  | .vmpop w => some w
  | .vmfirst w => some w
  | .viota w => some w
  | .vcompress w => some w
  | .vexpand w => some w
  | .vlut w => some w
  | .vperm w => some w
  | .vslup w => some w
  | .vsldn w => some w
  | .vroute w => some w
  | .ixins w => some w
  | .ixlook w => some w
  | .ixacc w => some w
  | .ixdrain w => some w
  | .vld w => some w
  | .vst w => some w
  | .vlds w => some w
  | .vsts w => some w
  | .vldseg w => some w
  | .vstseg w => some w
  | .vldx w => some w
  | .vldxb w => some w
  | .vstx w => some w
  | .vskein w => some w
  | .vskeinUnbind w => some w
  | .vldk w => some w
  | .vamoswap w => some w
  | .vamoadd w => some w
  | .vamoand w => some w
  | .vamoor w => some w
  | .vamoxor w => some w
  | .vamomin w => some w
  | .vamomax w => some w
  | .vamocas w => some w
  | .vwait w => some w
  | .vpgalloc w => some w
  | .vstk w => some w
  | .vtmove w => some w
  | .vaddrEq w => some w
  | .topadd w => some w
  | .topsub w => some w
  | .topsld w => some w
  | .brtopadd w => some w
  | .tld w => some w
  | .tst w => some w
  | .tfill w => some w
  | .trdrow w => some w
  | .trdcol w => some w
  | .twrrow w => some w
  | .sdsort w => some w
  | .ptld w => some w
  | .ptst w => some w
  | .sdscan w => some w
  | .sdscanMem w => some w
  | .sddot w => some w
  | .sdfin w => some w
  | .sld w => some w
  | .sst w => some w
  | .semv w => some w
  | _ => none

/-- VOP of a vector word (R86); 0 for what is no vector word. -/
def vopOf : Instr → Nat
  | .vstop => 0xFE
  | .vfadd _ => 0x01
  | .vfsub _ => 0x02
  | .vfmul _ => 0x03
  | .vfdiv _ => 0x04
  | .vfsqrt _ => 0x05
  | .vfma _ => 0x0C
  | .vfms _ => 0x0D
  | .vfnma _ => 0x0E
  | .vfnms _ => 0x0F
  | .vfmin _ => 0x06
  | .vfmax _ => 0x07
  | .vfsgnj _ => 0x08
  | .vfsgnjn _ => 0x08
  | .vfsgnjx _ => 0x08
  | .vfclass _ => 0x09
  | .vfrece _ => 0x0A
  | .vfrsqe _ => 0x0B
  | .vadd _ => 0x10
  | .vsub _ => 0x11
  | .vrsub _ => 0x12
  | .vmul _ => 0x13
  | .vmulh _ => 0x14
  | .vdiv _ => 0x15
  | .vrem _ => 0x16
  | .vmin _ => 0x17
  | .vmax _ => 0x18
  | .vand _ => 0x19
  | .vor _ => 0x1A
  | .vxor _ => 0x1B
  | .vsll _ => 0x1C
  | .vsrl _ => 0x1D
  | .vsra _ => 0x1E
  | .vmadd _ => 0x1F
  | .vadds _ => 0x20
  | .vsubs _ => 0x21
  | .vmuls _ => 0x22
  | .vabs _ => 0x23
  | .vclz _ => 0x24
  | .vpopc _ => 0x25
  | .vaddm _ => 0x26
  | .vsubm _ => 0x27
  | .vmulm _ => 0x28
  | .vavg _ => 0x29
  | .vcmp _ => 0x30
  | .vmerge _ => 0x31
  | .vmv _ => 0x32
  | .vsplat _ => 0x33
  | .vsplatImm _ => 0x33
  | .vcvt _ => 0x34
  | .vunpack _ => 0x35
  | .vid _ => 0x36
  | .vmand _ => 0x37
  | .vmor _ => 0x38
  | .vmxor _ => 0x39
  | .vmandn _ => 0x3A
  | .vext _ => 0x3B
  | .vredsum _ => 0x40
  | .vredmin _ => 0x41
  | .vredmax _ => 0x42
  | .vredand _ => 0x43
  | .vredor _ => 0x44
  | .vredxor _ => 0x45
  | .vfredsum _ => 0x46
  | .vfredmin _ => 0x47
  | .vfredmax _ => 0x48
  | .vmpop _ => 0x49
  | .vmfirst _ => 0x4A
  | .viota _ => 0x4B
  | .vcompress _ => 0x4C
  | .vexpand _ => 0x4D
  | .vlut _ => 0x4E
  | .vperm _ => 0x4F
  | .vslup _ => 0x50
  | .vsldn _ => 0x51
  | .vroute _ => 0x52
  | .ixins _ => 0x53
  | .ixlook _ => 0x54
  | .ixacc _ => 0x55
  | .ixdrain _ => 0x56
  | .vld _ => 0x80
  | .vst _ => 0xA0
  | .vlds _ => 0x81
  | .vsts _ => 0xA1
  | .vldseg _ => 0x82
  | .vstseg _ => 0xA2
  | .vldx _ => 0x83
  | .vldxb _ => 0x84
  | .vstx _ => 0xA3
  | .vskein _ => 0x85
  | .vskeinUnbind _ => 0x85
  | .vldk _ => 0x86
  | .vamoswap _ => 0xA4
  | .vamoadd _ => 0xA4
  | .vamoand _ => 0xA4
  | .vamoor _ => 0xA4
  | .vamoxor _ => 0xA4
  | .vamomin _ => 0xA4
  | .vamomax _ => 0xA4
  | .vamocas _ => 0xA4
  | .vwait _ => 0x87
  | .vpgalloc _ => 0xA5
  | .vstk _ => 0xA7
  | .vtmove _ => 0xA6
  | .vaddrEq _ => 0x88
  | .topadd _ => 0xC0
  | .topsub _ => 0xC1
  | .topsld _ => 0xC2
  | .brtopadd _ => 0xC3
  | .tld _ => 0xC4
  | .tst _ => 0xC5
  | .tfill _ => 0xC6
  | .trdrow _ => 0xC7
  | .trdcol _ => 0xC9
  | .twrrow _ => 0xC8
  | .sdsort _ => 0xCA
  | .ptld _ => 0xCB
  | .ptst _ => 0xCC
  | .sdscan _ => 0xCD
  | .sdscanMem _ => 0xCD
  | .sddot _ => 0xCE
  | .sdfin _ => 0xCF
  | .sld _ => 0xD0
  | .sst _ => 0xD1
  | .semv _ => 0xD2
  | _ => 0

/-- Where a row of the table is one of several forms of a VOP, the selector value that makes it this row (R119, R124,
R148, R150, R177). -/
def rowSelOk : Instr → Bool
  | .vfsgnj w => w.fnBits 2 2 == 0
  | .vfsgnjn w => w.fnBits 2 2 == 1
  | .vfsgnjx w => w.fnBits 2 2 == 2
  | .vsplat w => w.fnBits 0 1 == 0
  | .vsplatImm w => w.fnBits 0 1 == 1
  | .vskein w => w.vb == 0
  | .vskeinUnbind w => w.vb == 1
  | .vamoswap w => w.fnBits 10 4 == 0
  | .vamoadd w => w.fnBits 10 4 == 1
  | .vamoand w => w.fnBits 10 4 == 2
  | .vamoor w => w.fnBits 10 4 == 3
  | .vamoxor w => w.fnBits 10 4 == 4
  | .vamomin w => w.fnBits 10 4 == 5
  | .vamomax w => w.fnBits 10 4 == 6
  | .vamocas w => w.fnBits 10 4 == 9
  | .sdscan w => w.fnBits 13 1 == 0
  | .sdscanMem w => w.fnBits 13 1 == 1
  | _ => true

end Sys2Proof.Machine
end

