-- ==== Sys2Proof/WellFormed.lean ====
section
/-! DEFINITION. When an instruction is well formed: what R10, R71, R72 and the sub-maps of R81 to R86 ask of its fields
whatever the state holds. An event has no word and nothing to check here. -/
namespace Sys2Proof

/-- WID 2 or 3 and an assigned scope (R83, R84). -/
def amoOk (w : BitVec 2) (c : BitVec 3) : Bool := 2 ≤ w.toNat && c.toNat ≤ 5

/-- The field values of a scalar word (R83, R84, R182, R198, R201). -/
def scalarOk : Instr → Bool
  | .amoswap _ _ _ w _ _ c => amoOk w c
  | .amoadd _ _ _ w _ _ c => amoOk w c
  | .amoand _ _ _ w _ _ c => amoOk w c
  | .amoor _ _ _ w _ _ c => amoOk w c
  | .amoxor _ _ _ w _ _ c => amoOk w c
  | .amomin _ _ _ w _ _ c => amoOk w c
  | .amomax _ _ _ w _ _ c => amoOk w c
  | .amominN _ _ _ w _ _ c => amoOk w c
  | .amomaxN _ _ _ w _ _ c => amoOk w c
  | .amocas _ _ _ w _ _ c => amoOk w c
  | .fenceC s m => s.toNat ≤ 5 && m ≠ 0
  | .fenceX s a b => s.toNat ≤ 5 && a.toNat ≤ 4 && b.toNat ≤ 4 && a ≠ b
  | .barrier _ s => 1 ≤ s.toNat && s.toNat ≤ 4
  | .stopat _ _ s => 1 ≤ s.toNat && s.toNat ≤ 4
  | .timerd _ c => c.toNat ≤ 3
  | _ => true

/-- Well-formedness. -/
def Instr.wf (i : Instr) : Bool :=
  scalarOk i &&
  match Machine.vfields i with
  | some w => Machine.vwordOk (Machine.vopOf i) w && Machine.rowSelOk i
  | none => true

end Sys2Proof
end

