-- ==== Sys2Proof/Decode.lean ====
section
/-! DEFINITION. Decoding (R68, R74, R77, R81 to R87) and, after it, the encoder. A scalar word is 4 bytes and a vector word 8,
little-endian (R9). Every pattern that is not an instruction is rejected by name. -/
namespace Sys2Proof

/-- Why a pattern is no instruction (R87). -/
inductive Reject where
  /-- The guard word, or a vector word with a half that is all ones: CODE-END. -/
  | codeEnd
  /-- An unassigned OP, FN, AOP, KIND or VOP. -/
  | unassigned
  /-- A field that the instruction does not use is not zero (R10). -/
  | unusedField
  /-- A field, selector, format, code or register value that the instruction does not accept. -/
  | fieldValue
  /-- Fewer bytes than a word. -/
  | short
  deriving DecidableEq, Repr

/-! ## Fields of a scalar word (R68) -/

def fOp (w : BitVec 32) : Nat := (w.extractLsb' 26 6).toNat
def fXd (w : BitVec 32) : Reg := w.extractLsb' 21 5
def fXa (w : BitVec 32) : Reg := w.extractLsb' 16 5
def fXb (w : BitVec 32) : Reg := w.extractLsb' 11 5
def fFn (w : BitVec 32) : BitVec 11 := w.extractLsb' 0 11
def fImm (w : BitVec 32) : BitVec 16 := w.extractLsb' 0 16
def fOff (w : BitVec 32) : BitVec 21 := w.extractLsb' 0 21

/-- The instruction, if the fields it does not use are zero (R10). -/
def ifZero (c : Bool) (i : Instr) : Except Reject Instr := if c then .ok i else .error .unusedField

/-- The ALU family (R82). -/
def decodeAlu (w : BitVec 32) : Except Reject Instr :=
  let d := fXd w
  let a := fXa w
  let b := fXb w
  match (fFn w).toNat with
  | 0x000 => .ok (.add d a b)
  | 0x001 => .ok (.sub d a b)
  | 0x002 => .ok (.and d a b)
  | 0x003 => .ok (.or d a b)
  | 0x004 => .ok (.xor d a b)
  | 0x005 => .ok (.andn d a b)
  | 0x006 => .ok (.sll d a b)
  | 0x007 => .ok (.srl d a b)
  | 0x008 => .ok (.sra d a b)
  | 0x009 => .ok (.slt d a b)
  | 0x00A => .ok (.sltN d a b)
  | 0x00B => .ok (.min d a b)
  | 0x00C => .ok (.max d a b)
  | 0x00D => .ok (.minN d a b)
  | 0x00E => .ok (.maxN d a b)
  | 0x010 => .ok (.mul d a b)
  | 0x011 => .ok (.mulh d a b)
  | 0x012 => .ok (.mulhN d a b)
  | 0x013 => .ok (.div d a b)
  | 0x014 => .ok (.divN d a b)
  | 0x015 => .ok (.rem d a b)
  | 0x016 => .ok (.remN d a b)
  | 0x018 => ifZero (b == 0) (.clz d a)
  | 0x019 => ifZero (b == 0) (.ctz d a)
  | 0x01A => ifZero (b == 0) (.popc d a)
  | _ => .error .unassigned

/-- The AMO family (R83). -/
def decodeAmo (w : BitVec 32) : Except Reject Instr :=
  let d := fXd w
  let a := fXa w
  let b := fXb w
  let wid := w.extractLsb' 5 2
  let q := w.getLsbD 4
  let l := w.getLsbD 3
  let c := w.extractLsb' 0 3
  match (w.extractLsb' 7 4).toNat with
  | 0 => .ok (.amoswap d a b wid q l c)
  | 1 => .ok (.amoadd d a b wid q l c)
  | 2 => .ok (.amoand d a b wid q l c)
  | 3 => .ok (.amoor d a b wid q l c)
  | 4 => .ok (.amoxor d a b wid q l c)
  | 5 => .ok (.amomin d a b wid q l c)
  | 6 => .ok (.amomax d a b wid q l c)
  | 7 => .ok (.amominN d a b wid q l c)
  | 8 => .ok (.amomaxN d a b wid q l c)
  | 9 => .ok (.amocas d a b wid q l c)
  | _ => .error .unassigned

/-- The fence family (R84). -/
def decodeFence (w : BitVec 32) : Except Reject Instr :=
  let z := fXd w == 0 && fXa w == 0 && w.extractLsb' 8 2 == 0
  let s := w.extractLsb' 10 3
  let p := w.extractLsb' 0 8
  match (w.extractLsb' 13 3).toNat with
  | 0 => ifZero (z && s == 0 && p == 0) .fsv
  | 1 => ifZero (z && s == 0 && p == 0) .fvs
  | 2 => ifZero (z && s == 0 && p == 0) .fvv
  | 3 => ifZero z (.fenceC s p)
  | 4 => ifZero (z && p.extractLsb' 0 2 == 0) (.fenceX s (p.extractLsb' 5 3) (p.extractLsb' 2 3))
  | _ => .error .unassigned

/-- The system family (R85, R182). -/
def decodeSystem (w : BitVec 32) : Except Reject Instr :=
  let d := fXd w
  let a := fXa w
  let b := fXb w
  match (fFn w).toNat with
  | 0x001 => ifZero (d == 0 && a == 0 && b == 0) .exit
  | 0x002 => ifZero (a == 0) (.barrier d b)
  | 0x003 => .ok (.launch d a b)
  | 0x004 => ifZero (b == 0) (.colstart d a)
  | 0x005 => ifZero (b == 0) (.colwait d a)
  | 0x006 => ifZero (a == 0) (.timerd d b)
  | 0x007 => ifZero (b == 0) (.tickwait d a)
  | 0x008 => ifZero (d == 0) (.trace a b)
  | 0x009 => .ok (.stopat d a b)
  | 0x00A => ifZero (b == 0) (.brform d a)
  | 0x00B => ifZero (a == 0 && b == 0) (.brwait d)
  | 0x00C => ifZero (d == 0 && a == 0 && b == 0) .brleave
  | 0x00D => ifZero (d == 0 && b == 0) (.xunfold a)
  | 0x00E => ifZero (d == 0 && b == 0) (.xtrans a)
  | 0x00F => ifZero (d == 0 && a == 0 && b == 0) .ixclr
  | _ => .error .unassigned

/-- The privileged family (R85, R202). -/
def decodePrivileged (w : BitVec 32) : Except Reject Instr :=
  let d := fXd w
  let a := fXa w
  let b := fXb w
  match (fFn w).toNat with
  | 0x001 => .ok (.ctxsave d a b)
  | 0x002 => ifZero (d == 0) (.ctxload a b)
  | 0x003 => ifZero (d == 0) (.tlbinv a b)
  | 0x004 => ifZero (d == 0 && a == 0) (.tlbinva b)
  | 0x005 => ifZero (d == 0) (.tret a b)
  | _ => .error .unassigned

/-- The major opcodes (R81), before the checks on field values. -/
def decodeOp (w : BitVec 32) : Except Reject Instr :=
  let d := fXd w
  let a := fXa w
  let b := fXb w
  let i := fImm w
  let f0 := fFn w == 0
  match fOp w with
  | 0x01 => decodeAlu w
  | 0x02 => .ok (.addi d a i)
  | 0x03 => .ok (.andi d a i)
  | 0x04 => .ok (.ori d a i)
  | 0x05 => .ok (.xori d a i)
  | 0x09 => .ok (.slti d a i)
  | 0x0A => .ok (.sltiN d a i)
  | 0x06 => ifZero (w.extractLsb' 6 10 == 0) (.slli d a (w.extractLsb' 0 6))
  | 0x07 => ifZero (w.extractLsb' 6 10 == 0) (.srli d a (w.extractLsb' 0 6))
  | 0x08 => ifZero (w.extractLsb' 6 10 == 0) (.srai d a (w.extractLsb' 0 6))
  | 0x0B => ifZero (a == 0) (.lui d i)
  | 0x0C => ifZero (a == 0) (.addpc d i)
  | 0x10 => .ok (.ldI64 d a i)
  | 0x11 => .ok (.ldI8 d a i)
  | 0x12 => .ok (.ldN8 d a i)
  | 0x13 => .ok (.ldI16 d a i)
  | 0x14 => .ok (.ldN16 d a i)
  | 0x15 => .ok (.ldI32 d a i)
  | 0x16 => .ok (.ldN32 d a i)
  | 0x18 => .ok (.stI8 d a i)
  | 0x19 => .ok (.stI16 d a i)
  | 0x1A => .ok (.stI32 d a i)
  | 0x1B => .ok (.stI64 d a i)
  | 0x1C => decodeAmo w
  | 0x1D => ifZero f0 (.addrEq d a b)
  | 0x1E => ifZero f0 (.claim d a b)
  | 0x1F => decodeFence w
  | 0x20 => .ok (.beq d a i)
  | 0x21 => .ok (.bne d a i)
  | 0x22 => .ok (.blt d a i)
  | 0x23 => .ok (.bltN d a i)
  | 0x24 => .ok (.bge d a i)
  | 0x25 => .ok (.bgeN d a i)
  | 0x26 => .ok (.jal d (fOff w))
  | 0x27 => .ok (.jalr d a i)
  | 0x28 => ifZero (w.extractLsb' 2 14 == 0) (.setvl d a (w.extractLsb' 0 2))
  | 0x29 => ifZero (d == 0 && a == 0 && w.extractLsb' 2 14 == 0) (.vconf (w.extractLsb' 0 2))
  | 0x2A => .ok (.strip d a i)
  | 0x2B => .ok (.vwhile d a i)
  | 0x2C => ifZero (d == 0) (.vfetch (fOff w))
  | 0x2D => ifZero (d == 0 && f0) (.tmove a b)
  | 0x2E =>
    if fFn w == 0 then ifZero (d == 0 && b == 0) (.trel a)
    else if fFn w == 1 then ifZero (d == 0 && b == 0) (.trelZ a)
    else .error .unassigned
  | 0x30 => decodeSystem w
  | 0x31 => ifZero (d == 0) (.trap a i)
  | 0x32 => decodePrivileged w
  | 0x3A => ifZero (a == 0) (.crrd d i)
  | 0x3B => ifZero (d == 0) (.crwr a i)
  | _ => .error .unassigned

/-- A scalar word (R81 to R87). -/
def decodeScalar (w : BitVec 32) : Except Reject Instr :=
  if w = BitVec.allOnes 32 then .error .codeEnd
  else match decodeOp w with
    | .error r => .error r
    | .ok i => if scalarOk i then .ok i else .error .fieldValue

/-! ## Vector words (R18, R86) -/

/-- The fields of a vector word other than VOP. -/
def vwordOf (w : BitVec 64) : VWord where
  last := w.getLsbD 63
  m := w.getLsbD 62
  vd := w.extractLsb' 48 6
  va := w.extractLsb' 42 6
  vb := w.extractLsb' 36 6
  vc := w.extractLsb' 30 6
  fmt := w.extractLsb' 25 5
  xl := w.extractLsb' 20 5
  clr := w.extractLsb' 17 3
  rm := w.extractLsb' 14 3
  fn := w.extractLsb' 0 14

/-- The row of the table that a VOP with these fields is (R86, and the selectors of R119, R124, R148, R150, R177). -/
def vrow (vop : Nat) (f : VWord) : Option Instr :=
  match vop with
  | 0x01 => some (.vfadd f)
  | 0x02 => some (.vfsub f)
  | 0x03 => some (.vfmul f)
  | 0x04 => some (.vfdiv f)
  | 0x05 => some (.vfsqrt f)
  | 0x06 => some (.vfmin f)
  | 0x07 => some (.vfmax f)
  | 0x08 => match f.fnBits 2 2 with
    | 0 => some (.vfsgnj f)
    | 1 => some (.vfsgnjn f)
    | 2 => some (.vfsgnjx f)
    | _ => none
  | 0x09 => some (.vfclass f)
  | 0x0A => some (.vfrece f)
  | 0x0B => some (.vfrsqe f)
  | 0x0C => some (.vfma f)
  | 0x0D => some (.vfms f)
  | 0x0E => some (.vfnma f)
  | 0x0F => some (.vfnms f)
  | 0x10 => some (.vadd f)
  | 0x11 => some (.vsub f)
  | 0x12 => some (.vrsub f)
  | 0x13 => some (.vmul f)
  | 0x14 => some (.vmulh f)
  | 0x15 => some (.vdiv f)
  | 0x16 => some (.vrem f)
  | 0x17 => some (.vmin f)
  | 0x18 => some (.vmax f)
  | 0x19 => some (.vand f)
  | 0x1A => some (.vor f)
  | 0x1B => some (.vxor f)
  | 0x1C => some (.vsll f)
  | 0x1D => some (.vsrl f)
  | 0x1E => some (.vsra f)
  | 0x1F => some (.vmadd f)
  | 0x20 => some (.vadds f)
  | 0x21 => some (.vsubs f)
  | 0x22 => some (.vmuls f)
  | 0x23 => some (.vabs f)
  | 0x24 => some (.vclz f)
  | 0x25 => some (.vpopc f)
  | 0x26 => some (.vaddm f)
  | 0x27 => some (.vsubm f)
  | 0x28 => some (.vmulm f)
  | 0x29 => some (.vavg f)
  | 0x30 => some (.vcmp f)
  | 0x31 => some (.vmerge f)
  | 0x32 => some (.vmv f)
  | 0x33 => if f.fnBits 0 1 = 0 then some (.vsplat f) else some (.vsplatImm f)
  | 0x34 => some (.vcvt f)
  | 0x35 => some (.vunpack f)
  | 0x36 => some (.vid f)
  | 0x37 => some (.vmand f)
  | 0x38 => some (.vmor f)
  | 0x39 => some (.vmxor f)
  | 0x3A => some (.vmandn f)
  | 0x3B => some (.vext f)
  | 0x40 => some (.vredsum f)
  | 0x41 => some (.vredmin f)
  | 0x42 => some (.vredmax f)
  | 0x43 => some (.vredand f)
  | 0x44 => some (.vredor f)
  | 0x45 => some (.vredxor f)
  | 0x46 => some (.vfredsum f)
  | 0x47 => some (.vfredmin f)
  | 0x48 => some (.vfredmax f)
  | 0x49 => some (.vmpop f)
  | 0x4A => some (.vmfirst f)
  | 0x4B => some (.viota f)
  | 0x4C => some (.vcompress f)
  | 0x4D => some (.vexpand f)
  | 0x4E => some (.vlut f)
  | 0x4F => some (.vperm f)
  | 0x50 => some (.vslup f)
  | 0x51 => some (.vsldn f)
  | 0x52 => some (.vroute f)
  | 0x53 => some (.ixins f)
  | 0x54 => some (.ixlook f)
  | 0x55 => some (.ixacc f)
  | 0x56 => some (.ixdrain f)
  | 0x80 => some (.vld f)
  | 0x81 => some (.vlds f)
  | 0x82 => some (.vldseg f)
  | 0x83 => some (.vldx f)
  | 0x84 => some (.vldxb f)
  | 0x85 => if f.vb = 0 then some (.vskein f) else if f.vb = 1 then some (.vskeinUnbind f) else none
  | 0x86 => some (.vldk f)
  | 0x87 => some (.vwait f)
  | 0x88 => some (.vaddrEq f)
  | 0xA0 => some (.vst f)
  | 0xA1 => some (.vsts f)
  | 0xA2 => some (.vstseg f)
  | 0xA3 => some (.vstx f)
  | 0xA4 => match f.fnBits 10 4 with
    | 0 => some (.vamoswap f)
    | 1 => some (.vamoadd f)
    | 2 => some (.vamoand f)
    | 3 => some (.vamoor f)
    | 4 => some (.vamoxor f)
    | 5 => some (.vamomin f)
    | 6 => some (.vamomax f)
    | 9 => some (.vamocas f)
    | _ => none
  | 0xA5 => some (.vpgalloc f)
  | 0xA6 => some (.vtmove f)
  | 0xA7 => some (.vstk f)
  | 0xC0 => some (.topadd f)
  | 0xC1 => some (.topsub f)
  | 0xC2 => some (.topsld f)
  | 0xC3 => some (.brtopadd f)
  | 0xC4 => some (.tld f)
  | 0xC5 => some (.tst f)
  | 0xC6 => some (.tfill f)
  | 0xC7 => some (.trdrow f)
  | 0xC8 => some (.twrrow f)
  | 0xC9 => some (.trdcol f)
  | 0xCA => some (.sdsort f)
  | 0xCB => some (.ptld f)
  | 0xCC => some (.ptst f)
  | 0xCD => if f.fnBits 13 1 = 0 then some (.sdscan f) else some (.sdscanMem f)
  | 0xCE => some (.sddot f)
  | 0xCF => some (.sdfin f)
  | 0xD0 => some (.sld f)
  | 0xD1 => some (.sst f)
  | 0xD2 => some (.semv f)
  | _ => none

/-- A vector word (R74, R86, R87). -/
def decodeVector (w : BitVec 64) : Except Reject Instr :=
  if w.extractLsb' 0 32 = BitVec.allOnes 32 ∨ w.extractLsb' 32 32 = BitVec.allOnes 32 then .error .codeEnd
  else if w = 0xBF80000000000000 then .ok .vstop
  else
    let vop := (w.extractLsb' 54 8).toNat
    match vrow vop (vwordOf w) with
    | none => .error .unassigned
    | some i => if Machine.vwordOk vop (vwordOf w) then .ok i else .error .fieldValue

/-! ## From bytes -/

/-- Which stream reads the bytes (R68, R75): the same bytes decode differently in each. -/
inductive Stream where
  | scalar | vector
  deriving DecidableEq, Repr

/-- The first instruction of the bytes and the bytes after it. -/
def decode : Stream → List Byte → Except Reject (Instr × List Byte)
  | .scalar, bs =>
    if bs.length < 4 then .error .short
    else match decodeScalar (BitVec.ofNat 32 (Machine.leNat (bs.take 4))) with
      | .error r => .error r
      | .ok i => .ok (i, bs.drop 4)
  | .vector, bs =>
    if bs.length < 8 then .error .short
    else match decodeVector (BitVec.ofNat 64 (Machine.leNat (bs.take 8))) with
      | .error r => .error r
      | .ok i => .ok (i, bs.drop 8)

/-- The instruction that the decoder reads from a word numbered as the opcode table numbers it: a scalar word has 32
bits, a vector word 64. -/
def decodeTableWord (nbits w : Nat) : Option Instr :=
  let r := if nbits ≤ 32 then decode .scalar (Machine.leBytes 4 w) else decode .vector (Machine.leBytes 8 w)
  match r with
  | .ok (i, _) => some i
  | .error _ => none

/-! ## The encoder -/

def encR (op : BitVec 6) (d a b : Reg) (fn : BitVec 11) : BitVec 32 := op ++ d ++ a ++ b ++ fn
def encI (op : BitVec 6) (d a : Reg) (i : BitVec 16) : BitVec 32 := op ++ d ++ a ++ i
def encJ (op : BitVec 6) (d : Reg) (o : BitVec 21) : BitVec 32 := op ++ d ++ o

/-- FN of an atomic (R83). -/
def encAmo (aop : BitVec 4) (w : BitVec 2) (q l : Bool) (c : BitVec 3) : BitVec 11 :=
  aop ++ w ++ BitVec.ofBool q ++ BitVec.ofBool l ++ c

/-- IMM16 of a fence (R84). -/
def encFence (kind : BitVec 3) (s : BitVec 3) (p : BitVec 8) : BitVec 16 := kind ++ s ++ 0#2 ++ p

/-- A vector word (R18). -/
def encV (vop : Nat) (f : VWord) : BitVec 64 :=
  BitVec.ofBool f.last ++ BitVec.ofBool f.m ++ BitVec.ofNat 8 vop ++ f.vd ++ f.va ++ f.vb ++ f.vc ++ f.fmt ++ f.xl ++
    f.clr ++ f.rm ++ f.fn

/-- The word of an instruction. -/
inductive Code where
  | scalar (w : BitVec 32)
  | vector (w : BitVec 64)
  /-- A step that has no word (spec/95). -/
  | event
  deriving DecidableEq, Repr

/-- The encoder, from R68 and R81 to R86. -/
def encode (i : Instr) : Code :=
  match i with
  | .add d a b => .scalar (encR 0x01 d a b 0x000)
  | .sub d a b => .scalar (encR 0x01 d a b 0x001)
  | .and d a b => .scalar (encR 0x01 d a b 0x002)
  | .or d a b => .scalar (encR 0x01 d a b 0x003)
  | .xor d a b => .scalar (encR 0x01 d a b 0x004)
  | .andn d a b => .scalar (encR 0x01 d a b 0x005)
  | .sll d a b => .scalar (encR 0x01 d a b 0x006)
  | .srl d a b => .scalar (encR 0x01 d a b 0x007)
  | .sra d a b => .scalar (encR 0x01 d a b 0x008)
  | .slt d a b => .scalar (encR 0x01 d a b 0x009)
  | .sltN d a b => .scalar (encR 0x01 d a b 0x00A)
  | .min d a b => .scalar (encR 0x01 d a b 0x00B)
  | .max d a b => .scalar (encR 0x01 d a b 0x00C)
  | .minN d a b => .scalar (encR 0x01 d a b 0x00D)
  | .maxN d a b => .scalar (encR 0x01 d a b 0x00E)
  | .mul d a b => .scalar (encR 0x01 d a b 0x010)
  | .mulh d a b => .scalar (encR 0x01 d a b 0x011)
  | .mulhN d a b => .scalar (encR 0x01 d a b 0x012)
  | .div d a b => .scalar (encR 0x01 d a b 0x013)
  | .divN d a b => .scalar (encR 0x01 d a b 0x014)
  | .rem d a b => .scalar (encR 0x01 d a b 0x015)
  | .remN d a b => .scalar (encR 0x01 d a b 0x016)
  | .clz d a => .scalar (encR 0x01 d a 0 0x018)
  | .ctz d a => .scalar (encR 0x01 d a 0 0x019)
  | .popc d a => .scalar (encR 0x01 d a 0 0x01A)
  | .addi d a i => .scalar (encI 0x02 d a i)
  | .andi d a i => .scalar (encI 0x03 d a i)
  | .ori d a i => .scalar (encI 0x04 d a i)
  | .xori d a i => .scalar (encI 0x05 d a i)
  | .slti d a i => .scalar (encI 0x09 d a i)
  | .sltiN d a i => .scalar (encI 0x0A d a i)
  | .slli d a s => .scalar (encI 0x06 d a (0#10 ++ s))
  | .srli d a s => .scalar (encI 0x07 d a (0#10 ++ s))
  | .srai d a s => .scalar (encI 0x08 d a (0#10 ++ s))
  | .lui d i => .scalar (encI 0x0B d 0 i)
  | .addpc d i => .scalar (encI 0x0C d 0 i)
  | .ldI64 d a i => .scalar (encI 0x10 d a i)
  | .ldI8 d a i => .scalar (encI 0x11 d a i)
  | .ldN8 d a i => .scalar (encI 0x12 d a i)
  | .ldI16 d a i => .scalar (encI 0x13 d a i)
  | .ldN16 d a i => .scalar (encI 0x14 d a i)
  | .ldI32 d a i => .scalar (encI 0x15 d a i)
  | .ldN32 d a i => .scalar (encI 0x16 d a i)
  | .stI8 s a i => .scalar (encI 0x18 s a i)
  | .stI16 s a i => .scalar (encI 0x19 s a i)
  | .stI32 s a i => .scalar (encI 0x1A s a i)
  | .stI64 s a i => .scalar (encI 0x1B s a i)
  | .amoswap d a b w q l c => .scalar (encR 0x1C d a b (encAmo 0 w q l c))
  | .amoadd d a b w q l c => .scalar (encR 0x1C d a b (encAmo 1 w q l c))
  | .amoand d a b w q l c => .scalar (encR 0x1C d a b (encAmo 2 w q l c))
  | .amoor d a b w q l c => .scalar (encR 0x1C d a b (encAmo 3 w q l c))
  | .amoxor d a b w q l c => .scalar (encR 0x1C d a b (encAmo 4 w q l c))
  | .amomin d a b w q l c => .scalar (encR 0x1C d a b (encAmo 5 w q l c))
  | .amomax d a b w q l c => .scalar (encR 0x1C d a b (encAmo 6 w q l c))
  | .amominN d a b w q l c => .scalar (encR 0x1C d a b (encAmo 7 w q l c))
  | .amomaxN d a b w q l c => .scalar (encR 0x1C d a b (encAmo 8 w q l c))
  | .amocas d a b w q l c => .scalar (encR 0x1C d a b (encAmo 9 w q l c))
  | .addrEq d a b => .scalar (encR 0x1D d a b 0)
  | .claim d a b => .scalar (encR 0x1E d a b 0)
  | .fsv => .scalar (encI 0x1F 0 0 (encFence 0 0 0))
  | .fvs => .scalar (encI 0x1F 0 0 (encFence 1 0 0))
  | .fvv => .scalar (encI 0x1F 0 0 (encFence 2 0 0))
  | .fenceC s m => .scalar (encI 0x1F 0 0 (encFence 3 s m))
  | .fenceX s a b => .scalar (encI 0x1F 0 0 (encFence 4 s (a ++ b ++ 0#2)))
  | .beq a b o => .scalar (encI 0x20 a b o)
  | .bne a b o => .scalar (encI 0x21 a b o)
  | .blt a b o => .scalar (encI 0x22 a b o)
  | .bltN a b o => .scalar (encI 0x23 a b o)
  | .bge a b o => .scalar (encI 0x24 a b o)
  | .bgeN a b o => .scalar (encI 0x25 a b o)
  | .jal d o => .scalar (encJ 0x26 d o)
  | .jalr d a i => .scalar (encI 0x27 d a i)
  | .setvl d a e => .scalar (encI 0x28 d a (0#14 ++ e))
  | .vconf n => .scalar (encI 0x29 0 0 (0#14 ++ n))
  | .strip a b o => .scalar (encI 0x2A a b o)
  | .vwhile a b o => .scalar (encI 0x2B a b o)
  | .vfetch o => .scalar (encJ 0x2C 0 o)
  | .tmove a b => .scalar (encR 0x2D 0 a b 0)
  | .trel a => .scalar (encR 0x2E 0 a 0 0)
  | .trelZ a => .scalar (encR 0x2E 0 a 0 1)
  | .exit => .scalar (encR 0x30 0 0 0 0x001)
  | .barrier d s => .scalar (encR 0x30 d 0 s 0x002)
  | .launch d a b => .scalar (encR 0x30 d a b 0x003)
  | .colstart d a => .scalar (encR 0x30 d a 0 0x004)
  | .colwait d a => .scalar (encR 0x30 d a 0 0x005)
  | .timerd d s => .scalar (encR 0x30 d 0 s 0x006)
  | .tickwait d a => .scalar (encR 0x30 d a 0 0x007)
  | .trace a b => .scalar (encR 0x30 0 a b 0x008)
  | .stopat d a s => .scalar (encR 0x30 d a s 0x009)
  | .brform d a => .scalar (encR 0x30 d a 0 0x00A)
  | .brwait d => .scalar (encR 0x30 d 0 0 0x00B)
  | .brleave => .scalar (encR 0x30 0 0 0 0x00C)
  | .xunfold a => .scalar (encR 0x30 0 a 0 0x00D)
  | .xtrans a => .scalar (encR 0x30 0 a 0 0x00E)
  | .ixclr => .scalar (encR 0x30 0 0 0 0x00F)
  | .ctxsave d a b => .scalar (encR 0x32 d a b 0x001)
  | .ctxload a b => .scalar (encR 0x32 0 a b 0x002)
  | .tlbinv a b => .scalar (encR 0x32 0 a b 0x003)
  | .tlbinva b => .scalar (encR 0x32 0 0 b 0x004)
  | .tret a b => .scalar (encR 0x32 0 a b 0x005)
  | .trap a c => .scalar (encI 0x31 0 a c)
  | .crrd d s => .scalar (encI 0x3A d 0 s)
  | .crwr a s => .scalar (encI 0x3B 0 a s)
  | .vstop => .vector 0xBF80000000000000
  | .vfadd w => .vector (encV 0x01 w)
  | .vfsub w => .vector (encV 0x02 w)
  | .vfmul w => .vector (encV 0x03 w)
  | .vfdiv w => .vector (encV 0x04 w)
  | .vfsqrt w => .vector (encV 0x05 w)
  | .vfma w => .vector (encV 0x0C w)
  | .vfms w => .vector (encV 0x0D w)
  | .vfnma w => .vector (encV 0x0E w)
  | .vfnms w => .vector (encV 0x0F w)
  | .vfmin w => .vector (encV 0x06 w)
  | .vfmax w => .vector (encV 0x07 w)
  | .vfsgnj w => .vector (encV 0x08 w)
  | .vfsgnjn w => .vector (encV 0x08 w)
  | .vfsgnjx w => .vector (encV 0x08 w)
  | .vfclass w => .vector (encV 0x09 w)
  | .vfrece w => .vector (encV 0x0A w)
  | .vfrsqe w => .vector (encV 0x0B w)
  | .vadd w => .vector (encV 0x10 w)
  | .vsub w => .vector (encV 0x11 w)
  | .vrsub w => .vector (encV 0x12 w)
  | .vmul w => .vector (encV 0x13 w)
  | .vmulh w => .vector (encV 0x14 w)
  | .vdiv w => .vector (encV 0x15 w)
  | .vrem w => .vector (encV 0x16 w)
  | .vmin w => .vector (encV 0x17 w)
  | .vmax w => .vector (encV 0x18 w)
  | .vand w => .vector (encV 0x19 w)
  | .vor w => .vector (encV 0x1A w)
  | .vxor w => .vector (encV 0x1B w)
  | .vsll w => .vector (encV 0x1C w)
  | .vsrl w => .vector (encV 0x1D w)
  | .vsra w => .vector (encV 0x1E w)
  | .vmadd w => .vector (encV 0x1F w)
  | .vadds w => .vector (encV 0x20 w)
  | .vsubs w => .vector (encV 0x21 w)
  | .vmuls w => .vector (encV 0x22 w)
  | .vabs w => .vector (encV 0x23 w)
  | .vclz w => .vector (encV 0x24 w)
  | .vpopc w => .vector (encV 0x25 w)
  | .vaddm w => .vector (encV 0x26 w)
  | .vsubm w => .vector (encV 0x27 w)
  | .vmulm w => .vector (encV 0x28 w)
  | .vavg w => .vector (encV 0x29 w)
  | .vcmp w => .vector (encV 0x30 w)
  | .vmerge w => .vector (encV 0x31 w)
  | .vmv w => .vector (encV 0x32 w)
  | .vsplat w => .vector (encV 0x33 w)
  | .vsplatImm w => .vector (encV 0x33 w)
  | .vcvt w => .vector (encV 0x34 w)
  | .vunpack w => .vector (encV 0x35 w)
  | .vid w => .vector (encV 0x36 w)
  | .vmand w => .vector (encV 0x37 w)
  | .vmor w => .vector (encV 0x38 w)
  | .vmxor w => .vector (encV 0x39 w)
  | .vmandn w => .vector (encV 0x3A w)
  | .vext w => .vector (encV 0x3B w)
  | .vredsum w => .vector (encV 0x40 w)
  | .vredmin w => .vector (encV 0x41 w)
  | .vredmax w => .vector (encV 0x42 w)
  | .vredand w => .vector (encV 0x43 w)
  | .vredor w => .vector (encV 0x44 w)
  | .vredxor w => .vector (encV 0x45 w)
  | .vfredsum w => .vector (encV 0x46 w)
  | .vfredmin w => .vector (encV 0x47 w)
  | .vfredmax w => .vector (encV 0x48 w)
  | .vmpop w => .vector (encV 0x49 w)
  | .vmfirst w => .vector (encV 0x4A w)
  | .viota w => .vector (encV 0x4B w)
  | .vcompress w => .vector (encV 0x4C w)
  | .vexpand w => .vector (encV 0x4D w)
  | .vlut w => .vector (encV 0x4E w)
  | .vperm w => .vector (encV 0x4F w)
  | .vslup w => .vector (encV 0x50 w)
  | .vsldn w => .vector (encV 0x51 w)
  | .vroute w => .vector (encV 0x52 w)
  | .ixins w => .vector (encV 0x53 w)
  | .ixlook w => .vector (encV 0x54 w)
  | .ixacc w => .vector (encV 0x55 w)
  | .ixdrain w => .vector (encV 0x56 w)
  | .vld w => .vector (encV 0x80 w)
  | .vst w => .vector (encV 0xA0 w)
  | .vlds w => .vector (encV 0x81 w)
  | .vsts w => .vector (encV 0xA1 w)
  | .vldseg w => .vector (encV 0x82 w)
  | .vstseg w => .vector (encV 0xA2 w)
  | .vldx w => .vector (encV 0x83 w)
  | .vldxb w => .vector (encV 0x84 w)
  | .vstx w => .vector (encV 0xA3 w)
  | .vskein w => .vector (encV 0x85 w)
  | .vskeinUnbind w => .vector (encV 0x85 w)
  | .vldk w => .vector (encV 0x86 w)
  | .vamoswap w => .vector (encV 0xA4 w)
  | .vamoadd w => .vector (encV 0xA4 w)
  | .vamoand w => .vector (encV 0xA4 w)
  | .vamoor w => .vector (encV 0xA4 w)
  | .vamoxor w => .vector (encV 0xA4 w)
  | .vamomin w => .vector (encV 0xA4 w)
  | .vamomax w => .vector (encV 0xA4 w)
  | .vamocas w => .vector (encV 0xA4 w)
  | .vwait w => .vector (encV 0x87 w)
  | .vpgalloc w => .vector (encV 0xA5 w)
  | .vstk w => .vector (encV 0xA7 w)
  | .vtmove w => .vector (encV 0xA6 w)
  | .vaddrEq w => .vector (encV 0x88 w)
  | .topadd w => .vector (encV 0xC0 w)
  | .topsub w => .vector (encV 0xC1 w)
  | .topsld w => .vector (encV 0xC2 w)
  | .brtopadd w => .vector (encV 0xC3 w)
  | .tld w => .vector (encV 0xC4 w)
  | .tst w => .vector (encV 0xC5 w)
  | .tfill w => .vector (encV 0xC6 w)
  | .trdrow w => .vector (encV 0xC7 w)
  | .trdcol w => .vector (encV 0xC9 w)
  | .twrrow w => .vector (encV 0xC8 w)
  | .sdsort w => .vector (encV 0xCA w)
  | .ptld w => .vector (encV 0xCB w)
  | .ptst w => .vector (encV 0xCC w)
  | .sdscan w => .vector (encV 0xCD w)
  | .sdscanMem w => .vector (encV 0xCD w)
  | .sddot w => .vector (encV 0xCE w)
  | .sdfin w => .vector (encV 0xCF w)
  | .sld w => .vector (encV 0xD0 w)
  | .sst w => .vector (encV 0xD1 w)
  | .semv w => .vector (encV 0xD2 w)
  | .storeBufferDrain _ => .event
  | .moveCommit _ => .event
  | .tetherReleaseDone _ => .event
  | .barrierComplete _ _ _ => .event
  | .tickwaitWake _ _ => .event
  | .stopatHalt _ _ => .event
  | .haltRelease _ _ => .event
  | .unitsWrite _ => .event
  | .captureWrite _ => .event
  | .convoyIssue => .event
  | .convoyRetire => .event
  | .earlyWorkStart => .event
  | .readAhead _ _ => .event
  | .vwaitSatisfied => .event
  | .stackGatherRun _ => .event
  | .braidEpochOpen _ => .event
  | .braidEpochComplete _ => .event
  | .stackSemvRun _ => .event
  | .copyEngineRun _ => .event
  | .collectiveRun _ => .event
  | .logSlotAccept _ _ => .event
  | .dependenceSatisfied _ _ => .event
  | .tickFiringDue _ => .event
  | .tickWaitDeadline _ => .event
  | .tokenRecordTake _ _ => .event
  | .strandPlace _ => .event
  | .queueAging _ => .event
  | .reclaimRecord _ => .event
  | .forcedSave _ _ => .event
  | .firingRetire _ => .event
  | .launchRetire _ => .event
  | .rowSwap _ _ _ => .event
  | .activationWindow _ => .event
  | .subarrayRefresh _ _ _ => .event
  | .patrolScrub _ _ _ => .event
  | .thermalHot _ _ => .event
  | .upkctlWrite _ _ => .event
  | .remap _ _ => .event
  | .coreRebind _ => .event
  | .hostMemRead _ _ => .event
  | .hostMemWrite _ _ => .event
  | .backInvalidateDone _ => .event
  | .slowTierResponse _ _ => .event
  | .remoteAccessArrival _ => .event
  | .flitReceive _ _ => .event
  | .flitReplay _ _ => .event
  | .laneRepair _ _ => .event
  | .remoteReadTimeout _ _ => .event
  | .moduleLost _ => .event
  | .portStatusRead _ => .event
  | .ptpAddendWrite _ => .event
  | .ptpStepWrite _ => .event
  | .ptpStatWrite _ => .event
  | .reset => .event
  | .imgChunk _ _ => .event
  | .imgCommit _ => .event
  | .imageCheckDone => .event
  | .attest _ => .event
  | .rollbackAdvance _ => .event
  | .logRegister _ _ _ => .event
  | .windowRegister _ _ => .event
  | .ringRegister _ _ => .event
  | .trapQueueRegister _ _ => .event
  | .islandLevelApply _ _ _ => .event
  | .sliceStoreQueueDrain _ _ => .event
  | .softError _ _ => .event
  | .subarrayRefreshEnd _ _ _ => .event
  | .rowSwapDone _ _ => .event
  | .remapDone _ => .event
  | .laneRepairDone _ => .event
  | .hawserLinkTrained _ => .event
  | .hawserLinkLost _ => .event
  | .linkBringUp _ => .event
  | .priorityMapWrite _ _ _ _ => .event
  | .saveAreaRegister _ _ => .event
  | .exportTableRegister _ => .event

/-- Decoding of a word by its stream; an event decodes from nothing. -/
def Code.decode : Code → Except Reject Instr
  | .scalar w => decodeScalar w
  | .vector w => decodeVector w
  | .event => .error .unassigned

end Sys2Proof
end

