-- ==== Sys2Proof/Config.lean ====
section
/-! DEFINITION. What the spec leaves free or to an implementation. Every constant here is opaque: it has no body,
so a statement about it holds for every value. Each is named in a row of the assumption log. -/
namespace Sys2Proof.Config

/-- Cycles (less one) that the n-th step takes (log 2): the spec fixes results, not this model's step lengths. -/
opaque stepCycles : Nat → Nat

/-- A free choice between two outcomes the spec allows (R76 old or new word, R316 old or new translation; log 7, 8). -/
opaque freeBit : Nat → Bool

/-- The set of a scalar data cache that a line goes to, modulo the 64 there are (R225; log 97). -/
opaque cacheSet : Nat → Nat

/-- A free natural number (the row that ROW_SWAP draws, R370; log 15). -/
opaque freeNat : Nat → Nat

/-- A free byte choice: an element of a failed collective holds its old or its new value (R197; log 22). -/
opaque freeKeepOld : Nat → Bool

/-- The ticket word that COLSTART writes for the n-th collective; the spec states no form for it (R195; log 21). -/
opaque ticketOf : Nat → BitVec 64

/-- RSASSA-PSS verification of header and body against a key whose hash is fused (R388; log 14). -/
opaque rsaValid : List Byte → List Byte → Bool

/-- SLH-DSA-SHA2-192s verification (R388; log 14). -/
opaque slhValid : List Byte → List Byte → Bool

/-- SHA-384 of a byte list (R390; log 14). -/
opaque sha384 : List Byte → List Byte

/-- The two signatures over an attestation body, with device keys derived from the fused secret and the image hash
(R390; log 14). -/
opaque attestSign : List Byte → List Byte → List Byte

/-- The fused device identifier (R390; log 14). -/
opaque deviceId : Nat → Byte

/-- CRC-64 of the bytes 0 to 247 of a hawser flit; the polynomial is not stated (R381; log 18). -/
opaque crc64 : List Byte → Word

/-- What memory outside the module (the slow tier, the HBM of other modules) holds before this module writes it (log 4). -/
opaque outsideByte : Nat → Byte

/-- Whether another module's export table admits the n-th access of this module to an address: n, address, write (R338;
log 18). -/
opaque remoteAdmits : Nat → Nat → Bool → Bool

/-- The rows that a step's accesses activate: (stack, bank, row). The layout of lines over rows is not stated (R370; log 26). -/
opaque activated : Nat → List (Nat × Nat × Nat)

/-- The bank that a line lies in (R373; log 26). -/
opaque bankOf : Nat → Nat

/-- The payload and message kinds of the n-th flit that a port sends (R381; log 18). -/
opaque flitBody : Nat → List Byte

/-- The same for a port in time-source mode, which carries PTP messages only (R320; log 18). -/
opaque ptpBody : Nat → List Byte

/-- A flit holds the first byte of a PTP event message (R381; log 18). -/
opaque eventFlit : List Byte → Bool

/-- What the tethers and the poison that another module set in its own memory make of the n-th access: n, address; 1 POISON,
2 TETHER-LONG, 3 TETHER-DANGLING, else nothing (R339; log 76). -/
opaque farFault : Nat → Nat → Nat

/-- The lane that per-lane parity blames for a failed flit (R384; log 18). -/
opaque badLane : List Byte → Nat

/-- Ports through which a step sends a flit (R381; log 18). -/
opaque flitsSent : Nat → List Nat

/-- Bytes of a host read that met a tether fault or REMOTE-DENIED, which carry the poison indication (R378; log 27). -/
opaque freeByte : Nat → Byte

/-- Host physical address that a device address has in the header log (R378; log 27). -/
opaque hostAddress : Nat → Nat

/-- What the report names in place of an image when the commit check failed (R390; log 14). -/
opaque bootRomName : List Byte

end Sys2Proof.Config
end

