-- ==== Sys2Proof/Machine/State.lean ====
section
/-! DEFINITION. Everything the spec gives one module to hold, as plain data, and its value at reset. -/
namespace Sys2Proof.Machine

/-! ## Faults of the spec (R361) and how a step can stop -/

/-- The kinds of R361's table, in its order. -/
inductive FaultKind where
  | illegalEncoding | codeEnd | vregUndeclared | unitUnheld | privilege
  | misaligned | memType
  | noncanon | pageAbsent | pteForm | physRange | pagePerm | remoteDenied
  | poison
  | tetherLong | tetherDangling | tetherState | moveRefused
  | schedule | sdForm | skeinForm | skeinLimit | skeinUnbound | tileIndex | semvForm | xcmdForm | colForm | colTicket
  | stopatLate | ctxState | ctxForm
  | braidForm | braidState | braidRange | braidShare
  | stkRange | stkElement | cpyElement
  | softwareTrap
  | queueFull | launchForm | forcedSave | saveMark
  deriving DecidableEq, Repr

/-- A fault that an engine posted to a strand (R154, R188): the cause kind's code and the element or row index. -/
structure Posted where
  cause : Nat
  index : Word
  /-- Chamber slots (addresses of their TAGW) that the command's destination overlaps (R223). -/
  slots : List Nat := []
  deriving DecidableEq, Repr

/-- The fault triple of R137 with the detail of R361. ELEM is all ones for what belongs to no element. -/
structure FaultInfo where
  kind : FaultKind
  elem : Word := allOnes
  addr : Word := 0
  /-- DETAIL, bits [191:0]. -/
  detail : Nat := 0
  /-- Raised only once a read of another module has waited for 100 microseconds: until then the word waits (R383). -/
  waits : Bool := false
  /-- The engine's posted fault that it reports. -/
  posted : Option Posted := none
  deriving DecidableEq, Repr

/-- A trap record without its SEQ (R361). -/
structure TrapRec where
  kind : FaultKind
  elem : Word := allOnes
  addr : Word := 0
  detail : Nat := 0
  req : Word := 0
  resume : Word := 0
  unit : Nat := 0
  slot : Nat := 0
  widx : Nat := 0
  vector : Bool := false
  posted : Option Posted := none
  deriving DecidableEq, Repr

/-- Why a word does not take its effect now. -/
inductive Stop where
  /-- It raises a fault of the spec. -/
  | fault (f : FaultInfo)
  /-- It waits: nothing changes and the word is issued again (R199, R204, R208). -/
  | wait
  deriving DecidableEq, Repr

/-- How the machine itself could stop. No step of this model does: a fault of the spec is a trap record and a held
strand, a next state (log 10). -/
inductive Fault where
  /-- Raised by nobody. Safe: there is no state from which a step gives it. -/
  | stopped
  deriving DecidableEq, Repr

/-- Why the model gives an instruction no meaning. -/
inductive Refusal where
  /-- Raised by the arm of an instruction that has no meaning yet, by name. Safe: a run ends there. -/
  | notModelled (mnemonic : String)
  deriving DecidableEq, Repr

/-! ## Strands -/

/-- The control registers that a block captures at its VFETCH (R41, R308). -/
structure Ctl where
  vl : Word := 0
  mvl : Word := 0
  vtype : Word := 0
  seed : Word := 0
  sbase : Word := 0
  stripcfg : Word := 0
  deriving DecidableEq, Repr

/-- What the load buffer holds of an early LOAD word (R214, R215): the VPC of its convoy, its accesses as virtual addresses with
their bytes. -/
structure EarlyRead where
  vpc : Word
  reads : List (Word × List Byte)
  deriving DecidableEq, Repr

/-- An entry of the vector decoupling queue (R206 to R208, R308). -/
structure QEntry where
  target : Word
  /-- The first convoy not issued. -/
  vpc : Word
  ctl : Ctl
  /-- The block is large or broken: the strand issues no scalar word until it retires (R207). -/
  direct : Bool
  /-- The captured registers, ascending: (register, value). -/
  caps : List (Nat × Word)
  /-- Registers the block writes, each with the VPC of the last convoy that writes it (R207). -/
  writes : List (Nat × Nat)
  /-- Memory work of the block, each with the VPC of the last convoy that does it: 0 to 7 VEC stores and atomics of a
  colour, 8 work for the stack engines, 9 VEC accesses, 10 MAT accesses, 11 acquires (R110, R111, R214). -/
  work : List (Nat × Nat)
  /-- Early reads that a loop step has confirmed (R215). -/
  early : List EarlyRead := []
  deriving DecidableEq, Repr

/-- A skein bound to a vector register (R147, R148). -/
structure Skein where
  reg : Nat
  base : Word
  str0 : Word
  str1 : Word
  cnt0 : Nat
  cnt1 : Nat
  cursor : Nat
  deriving DecidableEq, Repr

/-- Why a strand holds its slot without issuing (R204, R363). -/
inductive Held where
  | no
  /-- A replayable record stands: RESUME, and whether it is a VPC. -/
  | replayable (resume : Word) (vector : Bool)
  /-- A fatal record stands, or the queue overflowed (R362). -/
  | fatal
  deriving DecidableEq, Repr

/-- The word on which a strand is parked (R204). -/
inductive Parked where
  | no
  /-- TICKWAIT: the time it waits for, and XD. -/
  | tickwait (until_ : Word) (d : Reg)
  /-- BARRIER: XD. -/
  | barrier (d : Reg)
  /-- BRWAIT: XD. -/
  | brwait (d : Reg)
  /-- A BRWAIT that was given its record while a cut halts its core: it returns once it may issue (R279, R310). -/
  | brreturn (d : Reg) (r : Word)
  /-- A LAUNCH whose copy is on its way: where TAIL lies and the value it takes (R186). -/
  | launch (tail : Nat) (v : Word)
  /-- A CTXSAVE whose image is on its way: the size it answers (R202). -/
  | ctxsave (size : Nat)
  | colwait
  | vwait
  /-- A TREL that waits for accesses in flight through this line (R157). -/
  | trel (line : Nat)
  | exit
  deriving DecidableEq, Repr

/-- A barrier arrival that waits: scope code, instance and the generation it waits for (R185, R306). -/
structure Arrival where
  scope : Nat
  unit : Nat
  gen : Nat
  deriving DecidableEq, Repr

/-- Early work (R214, R215): the block begun, the outcome assumed, what the load buffer holds of the LOAD words whose probe
and reads were made, and the lines they passed. Its data stands in no register. -/
structure EarlyWork where
  target : Word
  ctl : Ctl
  reads : List EarlyRead
  lines : List Nat
  deriving DecidableEq, Repr

/-- A fence whose earlier side is not complete: how many of the blocks fetched before it are still queued; what it waits
for: the VEC stores and atomics of these colours (R110), every VEC or MAT access (R109, R111), the scalar stores (R109), the
commands of the copy engine or of the stack engines issued by a step before `before` (R111), collectives by ticket number (R111); and which
later accesses wait for it: every one (R110), those of later blocks (R109), or those of one engine class by its code in R84
(R111). -/
structure Debt where
  blocks : Nat
  colours : Nat := 0
  vec : Bool := false
  mat : Bool := false
  cpy : Bool := false
  stk : Bool := false
  before : Nat := 0
  col : Bool := false
  cols : List Nat := []
  /-- FSV: waits for the scalar stores; VEC and MAT accesses of later blocks wait. -/
  fsv : Bool := false
  /-- FENCE.C: every later access waits. -/
  all : Bool := false
  /-- FENCE.X: later accesses of this class wait, and every later release, BARRIER, LAUNCH and EXIT. -/
  next : Option Nat := none
  deriving DecidableEq, Repr

/-- A strand: what lives in its slot (R23, R36, R44, R204, R364) and what the engines and the dispatcher keep for it. -/
structure Strand where
  /-- A strand is placed in this record. -/
  placed : Bool
  /-- Physical core 64 d + 4 c + k (R218), and slot 0 to 3 (R294). -/
  core : Nat
  slot : Nat
  /-- Logical core (R292). -/
  logical : Nat
  /-- x0 to x31; entry 0 stays 0 (R24). -/
  x : Vector Word 32
  pc : Word
  ctl : Ctl
  /-- Pending NREG code (R104). -/
  pendNreg : Nat
  wid : Word
  ptroot : Word
  priv : Bool
  /-- Slices in force, recorded grant, PEND and LEFT (R300, R301). -/
  cur : BitVec 4
  recd : BitVec 4
  pend : Bool
  left : Nat
  /-- Byte b of vector register r at key 65536 r + b (R27). -/
  vregs : Image
  skeins : List Skein
  queue : List QEntry
  /-- A convoy of the first queue entry has issued and not retired: the VPC past it (R210). Its words have passed every check
  and taken their effect; its scalar results stay pending. -/
  issued : Option Word
  early : Option EarlyWork
  debts : List Debt
  /-- Elements of a parked VWAIT already satisfied, and its VPC (R152). -/
  vwaitDone : List Nat
  vwaitAt : Word
  /-- Tag registers of chamber slots whose ARM becomes 0 when the issued convoy retires (R224). -/
  disarms : List Nat
  /-- TREC0 to TREC7 as one 64-byte record, and TCOUNT (R364). -/
  trec : List Byte
  tcount : Word
  held : Held
  /-- Engine faults posted and not taken, the first posted first (R154, R188, R306). -/
  postedStk : List Posted
  postedCpy : List Posted
  /-- Ticket words received from COLSTART and not passed to COLWAIT (R197, R306). -/
  tickets : List Nat
  arrival : Option Arrival
  /-- Fraction latched by the last TIMERD of code 0, and STEPPED (R198). -/
  frac : BitVec 32
  stepped : Bool
  /-- The dispatcher's mark for saving (R296). -/
  mark : Bool
  parked : Parked
  /-- 100 microseconds have passed for a read of a module that can't be reached (R383). -/
  timedOut : Bool
  launch : Option LaunchKey
  req : Word
  /-- Address of the launch header, x1 at placement (R44). -/
  header : Word
  /-- The model's own: tells this strand's engine work from that of a later strand in the slot (log 13). -/
  serial : Nat
  deriving DecidableEq, Repr

/-! ## Cores, clusters, engines -/

/-- Whose write it is: the core and slot, the path unit (R232), the colour, and the tethered lines it passed (R139). Writes of
engines, dispatchers, the sink controller, the host and other modules have no core. -/
structure Origin where
  core : Option Nat := none
  slot : Nat := 0
  path : Nat := 0
  colour : Nat := 0
  via : List Nat := []
  deriving DecidableEq, Repr

/-- A store that has left its word and is not performed: in the store buffer (R226) or in a store queue (R143, R162). -/
structure StoreEntry where
  slot : Nat
  /-- Path unit (R232): 0 to 3 the lane slices, 4 the MAT path, 5 the scalar stream. -/
  path : Nat
  /-- Physical address of byte 0 at the line where its chain ended. -/
  pa : Nat
  /-- (value, mask) of each byte: mask FF, 0F or F0 (R143), 00 for a byte not written. -/
  bytes : List (Byte × Byte)
  colour : Nat
  /-- Tethered lines it passed (R139). -/
  via : List Nat
  /-- The word that made it, and whether that word covers its whole line (R141). -/
  word : Nat
  heal : Bool
  /-- The first serial number of its convoy (R78). -/
  convoy : Nat := 0
  /-- It shares the entry of the store before it in the store buffer (R226). -/
  joined : Bool := false
  deriving DecidableEq, Repr

/-- The register sets that the scan cache keeps for a block, by the physical address of its first word (R206). -/
structure ScanEntry where
  block : Nat
  reads : List Nat
  writes : List (Nat × Nat)
  work : List (Nat × Nat)
  deriving DecidableEq, Repr

/-- A line that the stream-load unit read ahead for a bound skein, and the tethered lines it passed (R228, R261). -/
structure StreamLine where
  slot : Nat
  reg : Nat
  line : Nat
  via : List Nat
  deriving DecidableEq, Repr

/-- What a physical core holds beside its strands. -/
structure Core where
  /-- Tile tk: byte b at key 32768 k + b (R33). -/
  tiles : Image := []
  /-- p-register pk: byte b at key 1280 k + b (R34). -/
  pregs : Image := []
  /-- s-register sk: byte b at key 8192 k + b (R34). -/
  sregs : Image := []
  /-- Valid entries of the index scratchpad: position, key, value, ascending (R191). -/
  ix : List (Nat × Word × Word) := []
  /-- Units held: (UNITS bit number, slot of the holder) (R299, R300). -/
  units : List (Nat × Nat) := []
  /-- Store buffer, oldest first (R226). -/
  sbuf : List StoreEntry := []
  /-- Slice and MAT store queues, oldest first (R143, R162). -/
  squeue : List StoreEntry := []
  /-- Lines read ahead by the stream-load unit (R228). -/
  stream : List StreamLine := []
  /-- Lines of the instruction cache as they were when read (R76). -/
  icache : List (Nat × Image) := []
  /-- The scan cache, at most 16 blocks, the newest first (R206). -/
  scans : List ScanEntry := []
  /-- Lines of the scalar data cache as they were filled and updated, and invalidations received and not applied, oldest
  first (R225). -/
  dcache : List (Nat × Image) := []
  invals : List Nat := []
  /-- Braid restore buffer (R171). -/
  restore : Image := []
  /-- Completion record at the braid barrier that the member has not taken (R174, R279). -/
  braidRec : Option Word := none
  /-- Records that wait for the release of a halt of this core (R365). -/
  lateRecs : List TrapRec := []
  /-- ISLAND (R391); applied level of each slice, 0 full clock (R392); level commands that wait for a slice. -/
  island : Word := 0
  levels : List Nat := [0, 0, 0, 0]
  islandCmds : List (Nat × Nat) := []
  /-- Retired by firmware (R218, R376). -/
  disabled : Bool := false
  deriving DecidableEq, Repr

/-- A member of a braid: core index within the cluster, the strand slot of its BRFORM, its member word, and whether
that BRFORM stands (R187). -/
structure BraidMember where
  index : Nat
  slot : Nat
  word : Word
  /-- Marked ready for the next epoch; a completion not yet taken stands in `Core.braidRec`. -/
  ready : Bool
  /-- Its share of the open epoch faulted, with the cause's code (R173). -/
  fault : Option Nat
  /-- Its strand ended by TRET action 1 while the epoch was open (R171). -/
  gone : Bool
  /-- Logical core and REQ of its strand, for its records (R361). -/
  logical : Nat
  req : Word
  deriving DecidableEq, Repr

/-- A pending or formed braid of a cluster (R171). -/
structure Braid where
  cluster : Nat
  formed : Bool
  open_ : Bool
  epoch : Nat
  members : List BraidMember
  /-- Named core indexes, the leader first, and the braid tile. -/
  cores : List Nat
  tile : Nat
  /-- The last completion record (R174). -/
  last : Word
  deriving DecidableEq, Repr

/-- The strand a command belongs to: core, slot, serial number. -/
structure Owner where
  core : Nat
  slot : Nat
  serial : Nat
  deriving DecidableEq, Repr

/-- What an engine has been asked to do. -/
inductive CmdKind where
  | xunfold | xtrans
  /-- VSTK: the format, then (element, source, destination) as physical addresses (R154). -/
  | gather (fmt : Nat) (els : List (Nat × Nat × Nat))
  | semv
  deriving DecidableEq, Repr

/-- A command of a copy engine (R188) or of the stack engines (R154, R181). -/
structure Command where
  owner : Owner
  kind : CmdKind
  /-- The 64-byte record as read at issue; empty for a gather. -/
  recd : List Byte
  /-- Translations that the probe found: 64 KB page of the virtual address, physical page. -/
  pages : List (Nat × Nat)
  colour : Nat
  /-- The model's own: the step that issued it, by which a fence of its strand comes before or after it (R111). -/
  step : Nat := 0
  deriving DecidableEq, Repr

/-- A collective started on this module (R195): its status once it has finished (R197). `ticket` is its number in the order
of issue; the word that COLSTART writes is `Config.ticketOf` of it. -/
structure Collective where
  ticket : Nat
  owner : Owner
  die : Nat
  recd : List Byte
  table : List Nat
  pages : List (Nat × Nat)
  colour : Nat
  req : Word
  status : Option Nat
  deriving DecidableEq, Repr

/-- Generations completed in a scope instance by the strands of one launch (R185). -/
structure BarrierGen where
  key : Option LaunchKey
  scope : Nat
  unit : Nat
  gen : Nat
  deriving DecidableEq, Repr

/-! ## Memory and translation -/

/-- T, I, L of a line (R248); `bad` is a combination that the device does not write. -/
inductive Tether where
  | plain | inTransit | tethered | released | bad
  deriving DecidableEq, Repr

/-- Sideband of a line (R248, R369). A line not listed is plain and not poisoned. -/
structure LineMeta where
  tether : Tether := .plain
  poison : Bool := false
  deriving DecidableEq, Repr

/-- A move between setting its line in transit and its commit (R254, R394). Lines are byte addresses. -/
structure Move where
  line : Nat
  dest : Nat
  colour : Nat
  owner : Owner
  /-- Tethered lines that its source's chain passed (R139). -/
  via : List Nat := []
  /-- The path unit of its word: 5 TMOVE, 0 VTMOVE (R258), 7 another module's. -/
  path : Nat := 5
  /-- The model's own: moves of one VTMOVE share it, and commit in order (R156). -/
  word : Nat := 0
  /-- The copy has been sent to the slow tier (R380). -/
  sent : Bool := false
  deriving DecidableEq, Repr

/-- A write held at a line in transit (R255), with the core whose path unit holds it. -/
structure HeldWrite where
  line : Nat
  core : Nat
  entry : StoreEntry
  deriving DecidableEq, Repr

/-- A translation a TLB may hold (R314, R316): the page's first address, its size, the leaf entry and physical page. -/
structure TlbEntry where
  asid : Nat
  page : Nat
  size : Nat
  pte : Word
  base : Nat
  deriving DecidableEq, Repr

/-- A write held at a port for a module that can't be reached (R383), or sent to the host for the slow tier and not answered
(R380): module 64. -/
structure PortWrite where
  module_ : Nat
  addr : Nat
  bytes : List (Byte × Byte)
  heal : Bool
  origin : Origin := {}
  deriving DecidableEq, Repr

/-! ## Dispatch, media, traps -/

/-- A registered launch log (R283): its index in the table, its record's physical address, what was latched, and the
index of the next slot to accept. -/
structure Log where
  die : Nat
  index : Nat
  addr : Nat
  base : Word
  n : Nat
  root : Word
  priv : Bool
  next : Nat
  /-- HEAD and FAILS as the dispatcher keeps them; only it writes them. -/
  head : Nat
  fails : Nat
  deriving DecidableEq, Repr

/-- A strand that is saved and not restored: its WID, and the fences that wait for its queued blocks, which its image has no
place for. -/
structure SavedStrand where
  wid : Word
  debts : List Debt
  deriving DecidableEq, Repr

/-- The states of R289 after acceptance. `ending` is a launch that no firing follows, before what R291 does at its
retirement; `retired` one whose slot HEAD has not passed. -/
inductive LaunchState where
  | depwait | timed | queued | running | draining | ending | retired
  deriving DecidableEq, Repr

/-- A launch's place in one die's queues (R295): the queue it entered, its place in the order of arrival, the SCC since which it
ages, and the queue levels gained. -/
structure DieQueue where
  base : Nat := 0
  order : Nat := 0
  queuedAt : Nat := 0
  aged : Nat := 0
  deriving DecidableEq, Repr

/-- An accepted launch (R289): the header bytes as read at acceptance, and its life. -/
structure Launch where
  key : LaunchKey
  header : List Byte
  /-- Virtual address of the slot, and the physical address that the header was read at. -/
  hva : Word
  hpa : Nat
  root : Word
  priv : Bool
  state : LaunchState
  deps : List Bool
  /-- Firing index n, t_n, the PERIOD in force (R295, R326), and the PTP count since which firing n waits under WAIT. -/
  firing : Nat
  due : Nat
  period : Nat
  waiting : Option Nat
  /-- Strands of the current firing placed so far: WID and logical core. -/
  places : List (Nat × Nat)
  ended : Nat
  failed : Bool
  /-- Strands saved and not restored (R296, R303). -/
  saved : List SavedStrand
  /-- Its place in the queues of each die (R292, R295). -/
  queues : List DieQueue
  /-- Logical core on which it last placed a strand (R294). -/
  lastCore : Option Nat
  deriving DecidableEq, Repr

/-- A die's dispatcher: MAP, AGE, CAP (R295). -/
structure Dispatcher where
  map : List Nat := [0, 1, 2, 3, 4, 5, 6, 7]
  age : Nat := 1048576
  cap : Nat := 6
  deriving DecidableEq, Repr

/-- A note of the sink controller: the slot number, SEQ and GAP of a record it took there or wrote as a gap record (R324), and
the ARRIVAL stamp, by which a seal tells what it counts (R328). -/
structure Settled where
  slot : Nat
  seq : Nat
  gap : Bool
  arrival : Nat
  deriving DecidableEq, Repr

/-- A record that the sink controller judged late or dropped: where the producer wrote it, its stream and SEQ, its bytes as the
producer wrote them, and its ARRIVAL stamp, by which a seal tells whether it counts (R328); `late` if it was judged late, `kept` if
it stands in the collecting half; else DROP counts it. -/
structure Judged where
  addr : Nat
  stream : Nat
  seq : Nat
  bytes : List Byte
  arrival : Nat
  late : Bool
  kept : Bool
  deriving DecidableEq, Repr

/-- A registered window (R321 to R324). -/
structure Window where
  index : Nat
  addr : Nat
  /-- The 256 bytes latched at registration. -/
  recd : List Byte
  head : List Nat
  lim : List Nat
  /-- Settled records, the newest first; of one slot the first counts (R324). -/
  settled : List Settled
  /-- Records judged late or dropped, the newest first. -/
  judged : List Judged
  /-- The collecting half and how many late records it holds. -/
  half : Nat
  count : Nat
  /-- Bytes written since the slot was last taken: slot address, bit mask. -/
  written : List (Nat × Nat)
  holds : Nat
  drop : Nat
  ovr : Nat
  nlate : Nat
  ngap : Nat
  fireno : Nat
  tick : Nat
  lh : Nat
  deriving DecidableEq, Repr

/-- A registered trace or capture ring (R331, R366): descriptor address, what was latched, the hardware's WR. -/
structure Ring where
  id : RingId
  addr : Nat
  base : Nat
  lgn : Nat
  wr : Nat
  deriving DecidableEq, Repr

/-- A registered trap queue (R359): logical core 0 to 239, or 240 for the system controller. BASE and LGN stand in its
descriptor. -/
structure TrapQueue where
  q : Nat
  addr : Nat
  wr : Nat
  /-- Records written since reset (R361). -/
  seq : Nat
  dropn : Nat
  deriving DecidableEq, Repr

/-- An armed halt (R201) or a standing one (R310). -/
structure Armed where
  scope : Nat
  unit : Nat
  count : Word
  deriving DecidableEq, Repr

/-! ## Upkeep, links, firmware -/

/-- Upkeep of one stack (R368 to R375). Bank numbers are 64 die + bank; a bank's entry is its own. -/
structure Stack where
  /-- Indirection: (bank, logical row, physical row) where it is not the identity (R371). Physical rows from 98304 on
  are the bank's spares. -/
  rows : List (Nat × Nat × Nat) := []
  /-- Activations of a row in this window: (bank, row, count) (R370). -/
  acts : List (Nat × Nat × Nat) := []
  /-- A swap that runs: bank, row, drawn row. -/
  swaps : List (Nat × Nat × Nat) := []
  /-- Subarrays in refresh: bank, subarray (R372). -/
  refresh : List (Nat × Nat) := []
  /-- UPKCTL, its fields as written (R374). -/
  hot : Bool := false
  scrub : Nat := 24
  swapth : Nat := 2048
  /-- REMAP in progress: bank, row. REMAPST (R375). -/
  remap : Option (Nat × Nat) := none
  left : Nat := 32
  res : Nat := 0
  /-- Spares used: (bank, count). -/
  spares : List (Nat × Nat) := []
  /-- Corrected and uncorrectable lines counted for a bank (R373). -/
  corrected : List (Nat × Nat) := []
  uncorrectable : List (Nat × Nat) := []
  deriving DecidableEq, Repr

/-- A hawser port (R381 to R385). -/
structure Port where
  up : Bool := false
  tsrc : Bool := false
  nar : Bool := false
  rpr : Bool := false
  spare : Nat := 2
  bad : Nat := 0
  crcn : Nat := 0
  peer : Nat := 0
  /-- Next sequence number to send and to receive (R381, R382). -/
  txSeq : Nat := 0
  rxSeq : Nat := 0
  /-- Flits sent and not acknowledged (R382). -/
  unacked : List (List Byte) := []
  /-- A flit was discarded and every later one is, until the resend (R382). -/
  nak : Bool := false
  /-- A negative acknowledgement that came while the port swapped a lane: resend from here once it resumes (R384). -/
  resend : Option Nat := none
  /-- CRC errors of the last millisecond: (lane, SCC) (R384). -/
  laneErrs : List (Nat × Nat) := []
  /-- The lane to repair, until its swap begins (R384). -/
  repair : Option Nat := none
  /-- Sequence numbers of flits that were sent again and are not acknowledged (R384). -/
  again : List Nat := []
  /-- PTP times at which event messages passed the port, sent or received, the newest first (R320, R381). -/
  stamps : List (Bool × BitVec 96) := []
  deriving DecidableEq, Repr

/-- The system controller (R386 to R390). -/
structure Controller where
  staging : Image := []
  /-- Length under IMG-COMMIT's check. -/
  checking : Option Nat := none
  /-- The running image: its bytes and SVN. -/
  image : Option (List Byte × Nat) := none
  ready : Bool := false
  /-- ATTEST nonces that wait for a check to end. -/
  attests : List (List Byte) := []
  deriving DecidableEq, Repr

/-- Requests of the CXL port to the host (R380). -/
inductive CxlOp where
  | rdCurr | wrCur | rdOwn | dirtyEvict
  deriving DecidableEq, Repr

/-- What the module sends out, in order. -/
inductive Output where
  | success
  | busy
  | unsupported
  | invalidInput (status : Nat)
  | report (bytes : List Byte) (rsa slh : List Byte)
  | hostData (bytes : List Byte) (poison : Bool)
  | hostWritten
  | portStatus (v : Word)
  | backInvalidate (line : Nat)
  | cxl (op : CxlOp) (line : Nat)
  | nak (port seq : Nat)
  | flit (port : Nat) (bytes : List Byte)
  | remoteData (module_ : Nat) (bytes : List Byte) (poison : Bool)
  | remoteDone (module_ : Nat)
  | remoteFault (module_ : Nat) (kind : FaultKind)
  deriving DecidableEq, Repr

/-- The module. -/
structure State where
  /-- The strand that acts, and the others that are placed. -/
  me : Strand
  strands : List Strand
  cores : List (Nat × Core)
  braids : List Braid
  /-- Copy-engine queues: (cluster, commands) (R188); stack-engine commands (R154, R181). -/
  copyq : List (Nat × List Command)
  stackq : List Command
  collectives : List Collective
  nextTicket : Nat
  barriers : List BarrierGen
  /-- Every byte the module reaches, keyed by physical address (R336), TAGW and EXPW among them (R222). -/
  mem : Image
  lines : List (Nat × LineMeta)
  moves : List Move
  heldWrites : List HeldWrite
  tlb : List TlbEntry
  dispatchers : List Dispatcher
  logs : List Log
  launches : List Launch
  /-- Bindings of logical cores that firmware changed: (logical, physical) (R292). -/
  coreMap : List (Nat × Nat)
  windows : List Window
  rings : List Ring
  trapqs : List TrapQueue
  /-- Save area of a logical core: physical address of its four images (R303, R389). -/
  saveAreas : List (Nat × Nat)
  exportBase : Nat
  scc : Word
  ptpNs : Word
  ptpFrac : BitVec 32
  addend : BitVec 32
  lock : Bool
  /-- The model's own: values of LOCK that firmware changed, each with the PTP count of the change, oldest first (R332). -/
  lockLog : List (Nat × Bool)
  armed : List Armed
  halts : List Armed
  /-- CAPTURE (R203), a write not yet in effect, and how far replay has read: by 65536 TYPE + the unit and slot (R367). -/
  capture : BitVec 2
  captureNext : Option (BitVec 2)
  /-- The SCC value by which that write takes effect: 1,024 cycles after it (R203). -/
  captureBy : Nat
  replayAt : List (Nat × Nat)
  hbmStacks : List Stack
  ports : List Port
  moduleNo : Nat
  routes : List (Nat × Nat)
  lost : List Nat
  /-- Writes held at a port (R383) or sent to the slow tier (R380). -/
  portHeld : List PortWrite
  /-- Uncorrectable-error status and header log of the CXL RAS capability (R378). -/
  rasStatus : Bool
  rasLog : List Nat
  /-- Lines that the host may cache (R378). -/
  snoopFilter : List Nat
  controller : Controller
  /-- The fused rollback counter (R388). -/
  rollback : Nat
  out : List Output
  /-- The model's own: turns still to come (log 1), the count that free values are taken at (log 9), the next serial
  number of a strand or of a storing word. -/
  agenda : List Turn
  free : Nat
  nextSerial : Nat
  deriving DecidableEq, Repr

/-! ## Reset (R386) -/

/-- The record with no strand placed (log 6): the placement values of R44 with every address 0. -/
def Strand.absent : Strand where
  placed := false
  core := 0
  slot := 0
  logical := 0
  x := Vector.replicate 32 0
  pc := 0
  ctl := { vtype := 0x1C202 }
  pendNreg := 0
  wid := 0
  ptroot := 0
  priv := false
  cur := 0
  recd := 0
  pend := false
  left := 0
  vregs := []
  skeins := []
  queue := []
  issued := none
  early := none
  debts := []
  vwaitDone := []
  vwaitAt := 0
  disarms := []
  trec := List.replicate 64 0
  tcount := 0
  held := .no
  postedStk := []
  postedCpy := []
  tickets := []
  arrival := none
  frac := 0
  stepped := false
  mark := false
  parked := .no
  timedOut := false
  launch := none
  req := 0
  header := 0
  serial := 0

/-- The module right after reset (R386): every on-chip memory, register, queue and registration cleared, HBM zero,
plain and not poisoned, no image running. -/
def State.reset : State where
  me := Strand.absent
  strands := []
  cores := []
  braids := []
  copyq := []
  stackq := []
  collectives := []
  nextTicket := 0
  barriers := []
  mem := []
  lines := []
  moves := []
  heldWrites := []
  tlb := []
  dispatchers := [{}, {}, {}, {}]
  logs := []
  launches := []
  coreMap := []
  windows := []
  rings := []
  trapqs := []
  saveAreas := []
  exportBase := 0
  scc := 0
  ptpNs := 0
  ptpFrac := 0
  addend := 0xF3CF3CF4
  lock := false
  lockLog := []
  armed := []
  halts := []
  capture := 0
  captureNext := none
  captureBy := 0
  replayAt := []
  hbmStacks := List.replicate 8 {}
  ports := List.replicate 8 {}
  moduleNo := 0
  routes := []
  lost := []
  portHeld := []
  rasStatus := false
  rasLog := []
  snoopFilter := []
  controller := {}
  rollback := 0
  out := []
  agenda := []
  free := 0
  nextSerial := 1

end Sys2Proof.Machine
end

