-- ==== Sys2Proof/Machine/Memory.lean ====
section
/-! DEFINITION. Physical memory: the sparse image and its canonical form, the physical map (R218, R336, R337), line states
and RESOLVE (R247 to R250), poison (R141), and what a performed write does to everything that watches memory. -/
namespace Sys2Proof.Machine

/-! ## The image -/

/-- The byte listed at an index, 0 if none. -/
def imgGet : Image → Nat → Byte
  | [], _ => 0
  | (k, b) :: m, a => if k = a then b else imgGet m a

/-- Lists a byte at its place: before the first greater index, or over the entry of its own. -/
def imgAdd : Image → Nat → Byte → Image
  | [], a, v => [(a, v)]
  | (k, b) :: m, a, v => if a < k then (a, v) :: (k, b) :: m else if a = k then (k, v) :: m else (k, b) :: imgAdd m a v

/-- The image with one byte changed; a byte that becomes 0 is not listed. -/
def imgSet (m : Image) (a : Nat) (v : Byte) : Image := if v = 0 then m.filter (fun p => p.1 ≠ a) else imgAdd m a v

/-- Every index is at least n, indexes strictly rise, and no byte is 0. -/
def imgFrom : Nat → Image → Bool
  | _, [] => true
  | n, (k, b) :: m => decide (n ≤ k) && decide (b ≠ 0) && imgFrom (k + 1) m

/-- The canonical form of an image. -/
def Memory.wf (m : Image) : Bool := imgFrom 0 m

/-- Writes bytes from an index upward. -/
def imgPut : Image → Nat → List Byte → Image
  | m, _, [] => m
  | m, a, b :: bs => imgPut (imgSet m a b) (a + 1) bs

/-- The n bytes from an index upward. -/
def imgBytes (m : Image) (a n : Nat) : List Byte := (List.range n).map fun j => imgGet m (a + j)

/-- The n bytes as a little-endian number (R9). -/
def imgNat (m : Image) (a n : Nat) : Nat := leNat (imgBytes m a n)

/-- Clears the bytes from a up to but not including b. -/
def imgClear (m : Image) (a b : Nat) : Image := m.filter fun p => p.1 < a || b ≤ p.1

/-! ## Association lists -/

/-- The value at a key, or a default. -/
def assocGet {α : Type} (d : α) : List (Nat × α) → Nat → α
  | [], _ => d
  | (k, v) :: l, n => if k = n then v else assocGet d l n

/-- The list with the value at one key replaced or added, keys rising. -/
def assocSet {α : Type} : List (Nat × α) → Nat → α → List (Nat × α)
  | [], n, x => [(n, x)]
  | (k, v) :: l, n, x =>
    if n < k then (n, x) :: (k, v) :: l else if n = k then (n, x) :: l else (k, v) :: assocSet l n x

/-! ## The physical map -/

/-- The 128-byte line of an address. -/
def lineOf (pa : Nat) : Nat := pa / 128 * 128

/-- Where a physical address lies (R218, R336, R337). -/
inductive Region where
  | hbm (stack : Nat)
  | gallery (die : Nat)
  | chamber (cluster : Nat)
  | tagWindow (cluster : Nat)
  | niche (core : Nat)
  | slow
  /-- HBM of another module, by its number. -/
  | remote (module_ : Nat)
  | unused
  deriving DecidableEq, Repr

def hbmBase : Nat := 0x4000000000
def hbmSpan : Nat := 0x1800000000
def galleryBase : Nat := 0x10000000000
def chamberBase : Nat := 0x12000000000
def tagBase : Nat := 0x12800000000
def nicheBase : Nat := 0x13000000000
def slowBase : Nat := 0x20000000000
def windowBase : Nat := 0x1000000000000
def windowSpan : Nat := 0x40000000000

/-- A local address (R218, R336). -/
def localRegion (pa : Nat) : Region :=
  if hbmBase ≤ pa && pa < hbmBase + 8 * hbmSpan then .hbm ((pa - hbmBase) / hbmSpan)
  else if galleryBase ≤ pa && pa < galleryBase + 4 * 0x8000000 then
    if (pa - galleryBase) % 0x8000000 < 0x6000000 then .gallery ((pa - galleryBase) / 0x8000000) else .unused
  else if chamberBase ≤ pa && pa < chamberBase + 64 * 0x100000 then .chamber ((pa - chamberBase) / 0x100000)
  else if tagBase ≤ pa && pa < tagBase + 64 * 0x1000 then .tagWindow ((pa - tagBase) / 0x1000)
  else if nicheBase ≤ pa && pa < nicheBase + 256 * 0x40000 then .niche ((pa - nicheBase) / 0x40000)
  else if slowBase ≤ pa && pa < slowBase + 0x20000000000 then .slow
  else .unused

/-- An address of the own window of module m is the local address it names (R337). -/
def canonAt (m pa : Nat) : Nat :=
  if windowBase + windowSpan * m ≤ pa && pa < windowBase + windowSpan * (m + 1)
  then pa - windowBase - windowSpan * m else pa

def State.canon (s : State) (pa : Nat) : Nat := canonAt s.moduleNo pa

/-- The region of an address of the domain that lies in no window of the own module (R336, R337). -/
def regionAt (pa : Nat) : Region :=
  if windowBase ≤ pa && pa < windowBase + 64 * windowSpan then
    match localRegion ((pa - windowBase) % windowSpan) with
    | .hbm _ => .remote ((pa - windowBase) / windowSpan)
    | _ => .unused
  else localRegion pa

/-- The region of an address. -/
def State.region (s : State) (pa : Nat) : Region := regionAt (s.canon pa)

/-- What a physical core holds; cleared where nothing is listed. -/
def State.core (s : State) (n : Nat) : Core := assocGet {} s.cores n

def State.setCore (s : State) (n : Nat) (c : Core) : State := { s with cores := assocSet s.cores n c }

/-- The address lies in the map; the niche of a disabled core does not (R218). -/
def State.mapped (s : State) (pa : Nat) : Bool :=
  match s.region pa with
  | .unused => false
  | .niche c => !(s.core c).disabled
  | _ => true

/-- Lines with tether bits: HBM of this and of other modules (R247). -/
def State.hasTether (s : State) (pa : Nat) : Bool :=
  match s.region pa with
  | .hbm _ | .remote _ => true
  | _ => false

/-- On-chip memory: every page of it is pinned (R218). -/
def State.onChip (s : State) (pa : Nat) : Bool :=
  match s.region pa with
  | .gallery _ | .chamber _ | .tagWindow _ | .niche _ => true
  | _ => false

/-! ## Bytes and line states -/

/-- What a byte that nothing has written reads as: 0 on the module (R386), an open value outside it (log 4). -/
def unlisted (pa : Nat) : Byte := if pa < slowBase then 0 else Config.outsideByte pa

/-- The byte at a physical address. The image lists the difference from what the address reads as unwritten. -/
def State.byte (s : State) (pa : Nat) : Byte := imgGet s.mem (s.canon pa) ^^^ unlisted (s.canon pa)

def State.setByte (s : State) (pa : Nat) (v : Byte) : State :=
  { s with mem := imgSet s.mem (s.canon pa) (v ^^^ unlisted (s.canon pa)) }

def State.bytesAt (s : State) (pa n : Nat) : List Byte := (List.range n).map fun j => s.byte (pa + j)

def State.natAt (s : State) (pa n : Nat) : Nat := leNat (s.bytesAt pa n)

/-- Writes bytes and nothing else. -/
def State.putBytes (s : State) (pa : Nat) : List Byte → State
  | [] => s
  | b :: bs => (s.setByte pa b).putBytes (pa + 1) bs

/-- The sideband of the line that holds an address (R248). -/
def State.meta_ (s : State) (pa : Nat) : LineMeta := assocGet {} s.lines (lineOf (s.canon pa))

/-- Plain, unpoisoned lines are not listed. -/
def State.setMeta (s : State) (pa : Nat) (m : LineMeta) : State :=
  let l := lineOf (s.canon pa)
  if m = {} then { s with lines := s.lines.filter fun p => p.1 ≠ l } else { s with lines := assocSet s.lines l m }

def State.poisoned (s : State) (pa : Nat) : Bool := (s.meta_ pa).poison

def State.setPoison (s : State) (pa : Nat) (p : Bool) : State := s.setMeta pa { s.meta_ pa with poison := p }

/-- The tether state; a combination that the device does not write counts as released (R248). -/
def State.tether (s : State) (pa : Nat) : Tether :=
  if s.hasTether pa then
    match (s.meta_ pa).tether with
    | .bad => .released
    | t => t
  else .plain

/-! ## RESOLVE (R250, R256) -/

/-- Where an access ends: the physical address, and the tethered lines it passed. -/
structure Resolved where
  pa : Nat
  via : List Nat
  deriving DecidableEq, Repr

/-- Bits [48:7] of an address. -/
def lineNo (pa : Nat) : Nat := pa / 128 % 2 ^ 42

/-- The successor of a tethered line, with the offset carried (R249, R250). -/
def State.successor (s : State) (pa : Nat) : Nat := bits (s.natAt (lineOf (s.canon pa)) 8) 22 42 * 128 + pa % 128

/-- DETAIL of TETHER-LONG: entries of 42 bits, the first line first (R256, R361). -/
def longDetail : List Nat → Nat
  | [] => 0
  | l :: ls => lineNo l + 2 ^ 42 * longDetail ls

/-- The loop of R250; `hops` is how many tethered lines may still be passed. -/
def State.resolveFrom (s : State) : Nat → List Nat → Nat → Except FaultInfo Resolved
  | hops, via, pa =>
    match s.tether pa with
    | .plain | .inTransit => .ok ⟨s.canon pa, via⟩
    | .tethered =>
      match hops with
      | 0 => .error { kind := .tetherLong, detail := longDetail (via ++ [lineOf (s.canon pa)]) }
      | n + 1 => s.resolveFrom n (via ++ [lineOf (s.canon pa)]) (s.successor pa)
    | _ =>
      .error { kind := .tetherDangling,
               detail := lineNo (s.canon pa) * 128 + 2 ^ 64 * (s.natAt (lineOf (s.canon pa)) 8 % 2 ^ 22) }

/-- RESOLVE (R250). -/
def State.resolve (s : State) (pa : Nat) : Except FaultInfo Resolved := s.resolveFrom 3 [] pa

/-- Follows tethers from a line that an access has already resolved to: hops taken after a commit are not counted
(R139). At most as many hops as there are listed lines. -/
def State.followGo (s : State) : Nat → Nat → Nat
  | 0, pa => pa
  | n + 1, pa => if s.tether pa = .tethered then s.followGo n (s.successor pa) else s.canon pa

def State.follow (s : State) (pa : Nat) : Nat := s.followGo (s.lines.length + 1) pa

/-! ## Performing writes -/

/-- Merges a value under a bit mask (R143). -/
def mergeByte (old v mask : Byte) : Byte := (old &&& ~~~mask) ||| (v &&& mask)

/-- Bytes that only the hardware writes: HEAD and FAILS of a log (R282), WR of a ring (R331), WR and DROPN of a trap queue
(R359), wherever the chain of their line ends. A write by another agent leaves them. -/
def State.hwOnly (s : State) (pa : Nat) : Bool :=
  let within := fun (addr lo hi : Nat) => s.follow addr + lo ≤ pa && pa < s.follow addr + hi
  s.logs.any (fun l => within l.addr 16 32) ||
  s.rings.any (fun r => r.base ≠ 0 && within r.addr 8 16) ||
  s.trapqs.any (fun q => within q.addr 8 16 || within q.addr 25 29)

/-- OVF of a trap queue: a write of 1 is ignored (R359). -/
def State.isOvf (s : State) (pa : Nat) : Bool := s.trapqs.any fun q => pa = s.follow q.addr + 24

/-- Address ranges that a window watches: its rings and its late area (R321, R325). -/
def Window.field (w : Window) (lo n : Nat) : Nat := bits (leNat w.recd) lo n

def Window.slots (w : Window) : Nat := w.field 896 64
def Window.lateBase (w : Window) : Nat := w.field 832 64
def Window.span (w : Window) : Nat := w.field 768 64
def Window.nslot (w : Window) : Nat := 2 ^ w.field 752 16
def Window.nls (w : Window) : Nat := w.field 736 16
def Window.streams (w : Window) : Nat := w.field 734 2 + 1
def Window.hdr (w : Window) : Nat := w.field 960 64

def Window.watches (w : Window) (pa : Nat) : Bool :=
  (w.slots ≤ pa && pa < w.slots + 64 * (w.streams * w.nslot)) ||
  (w.lateBase ≤ pa && pa < w.lateBase + 64 * (2 * w.nls))

/-- Notes a producer's byte (R324). -/
def Window.noteByte (w : Window) (pa : Nat) : Window :=
  if w.watches pa then
    let slot := pa / 64 * 64
    { w with written := assocSet w.written slot (assocGet 0 w.written slot ||| 2 ^ (pa % 64)) }
  else w

/-- One byte is performed at a final physical address (R234). -/
def State.performByte (s : State) (pa : Nat) (v mask : Byte) : State :=
  if mask = 0 || s.hwOnly pa then s
  else
    let old := s.byte pa
    let v := if s.isOvf pa then v &&& (old ||| 0x7F) else v
    let s := s.setByte pa (mergeByte old v mask)
    { s with windows := s.windows.map fun w => w.noteByte pa }

def State.performBytes (s : State) (pa : Nat) : List (Byte × Byte) → State
  | [] => s
  | (v, k) :: bs => (s.performByte pa v k).performBytes (pa + 1) bs

/-- The stream-load unit drops a line that some agent writes, that moves, or that is released behind it (R228, R257, R261). -/
def State.dropStream (s : State) (line : Nat) : State :=
  { s with cores := s.cores.map fun p =>
      (p.1, { p.2 with stream := p.2.stream.filter fun e => e.line ≠ line && !e.via.contains line }) }

/-- A write to a line waits for the back-invalidate snoop of every line that the host may cache and whose data lies there: the
line itself, and lines whose chain ends at it (R378, log 71). -/
def State.snoop (s : State) (line : Nat) : State :=
  let hit := fun l => l = line || lineOf (s.follow l) = line
  if s.snoopFilter.any hit then
    { s with snoopFilter := s.snoopFilter.filter (fun l => !hit l),
             out := s.out ++ (s.snoopFilter.filter hit).map .backInvalidate }
  else s

/-! ### The scalar data cache (R225) -/

/-- Bytes of memory laid over a cached line. -/
def cachePut (mem : Image) (line : Image) (pa n : Nat) : Image :=
  (List.range n).foldl (fun m j => imgSet m (pa + j) (imgGet mem (pa + j))) line

/-- What a write of n bytes does to core k's cache: its own scalar store updates a line that is present, its own vector or
MATRIX store drops it, the write of any other core or engine sends an invalidation. -/
def Core.cacheWrite (c : Core) (k : Nat) (mem : Image) (o : Origin) (pa n : Nat) : Core :=
  if !c.dcache.any (fun e => e.1 = lineOf pa) then c
  else if o.core = some k then
    if o.path = 5 then
      { c with dcache := c.dcache.map fun e => if e.1 = lineOf pa then (e.1, cachePut mem e.2 pa n) else e }
    else if o.path < 5 then
      { c with dcache := c.dcache.filter (fun e => e.1 ≠ lineOf pa), invals := c.invals.filter (· ≠ lineOf pa) }
    else if c.invals.contains (lineOf pa) then c
    else { c with invals := c.invals ++ [lineOf pa] }
  else if c.invals.contains (lineOf pa) then c
  else { c with invals := c.invals ++ [lineOf pa] }

/-- A write of n bytes has been performed: every core's cache learns of it. -/
def State.cacheWrite (s : State) (o : Origin) (pa n : Nat) : State :=
  { s with cores := s.cores.map fun p => (p.1, p.2.cacheWrite p.1 s.mem o pa n) }

/-- The first n invalidations that a core has received are applied: in the order received (R225). -/
def Core.applyFirst (c : Core) (n : Nat) : Core :=
  { c with dcache := c.dcache.filter (fun e => !(c.invals.take n).contains e.1), invals := c.invals.drop n }

/-- Every invalidation that a core has received is applied. -/
def State.applyInvals (s : State) (core : Nat) : State :=
  let c := s.core core
  if c.invals = [] then s else s.setCore core (c.applyFirst c.invals.length)

/-- A line leaves every core's cache: a move on it commits (R257). -/
def State.dropCached (s : State) (line : Nat) : State :=
  { s with cores := s.cores.map fun p =>
      (p.1, { p.2 with dcache := p.2.dcache.filter (fun e => e.1 ≠ line), invals := p.2.invals.filter (· ≠ line) }) }

/-- A line leaves a core's cache. -/
def State.uncache (s : State) (core line : Nat) : State :=
  let c := s.core core
  if c.dcache.any fun e => e.1 = line then
    s.setCore core { c with dcache := c.dcache.filter (fun e => e.1 ≠ line), invals := c.invals.filter (· ≠ line) }
  else s

/-! ### Where a write ends -/

/-- A module that can be reached over the routes firmware set (R383); a port in time-source mode carries no requests (R320). -/
def State.reachable (s : State) (m : Nat) : Bool :=
  !s.lost.contains m &&
  s.routes.any fun r => r.1 = m && (match s.ports[r.2]? with | some p => p.up && !p.tsrc | none => false)

/-- The port of the route to a module. -/
def State.portTo (s : State) (m : Nat) : Option Port :=
  match s.routes.find? fun r => r.1 = m with
  | some r => s.ports[r.2]?
  | none => none

/-- The route to a module takes requests: it can be reached, and its port is neither swapping a lane (R384) nor without room for
replay (R382). -/
def State.portReady (s : State) (m : Nat) : Bool :=
  s.reachable m &&
  match s.portTo m with
  | some p => !p.rpr && p.unacked.length < 512
  | none => false

/-- Requests to a module leave now: none is held before them (R383). -/
def State.portOpen (s : State) (m : Nat) : Bool := s.portReady m && !s.portHeld.any (fun w => w.module_ = m)

/-- The entry of `portHeld` for the host (R380). -/
def slowModule : Nat := 64

/-- A request of the CXL port for the 64 bytes of the slow tier that an address lies in (R380). -/
def State.request (s : State) (op : CxlOp) (pa : Nat) : State :=
  match s.region pa with
  | .slow => { s with out := s.out ++ [.cxl op (pa / 64 * 64)] }
  | _ => s

/-- Path codes beside those of R232: writes of the host and of another module, whose number stands for the slot; of the hardware
itself; of the copy engine, the stack engines and a collective of the strand named; and the copy of a move. -/
def hostPath : Nat := 6
def farPath : Nat := 7
def hwPath : Nat := 8
def cpyPath : Nat := 9
def stkPath : Nat := 10
def colPath : Nat := 11
def copyPath : Nat := 12

/-- A write of the host or of another module that has been performed, or discarded, is answered (R378, R379). -/
def State.answer (s : State) (o : Origin) : State :=
  if o.core.isSome then s
  else if o.path = hostPath then { s with out := s.out ++ [.hostWritten] }
  else if o.path = farPath then { s with out := s.out ++ [.remoteDone o.slot] }
  else s

/-- Bytes with masks land in a line: the host's copies are invalidated, the stream-load unit drops the line, the data caches
learn of it, and poison goes if the word or command covers the line (R141, R225, R228, R378). What the hardware itself writes lands
in the bytes that only it writes, too, and is no producer's record (R324). -/
def State.landAt (s : State) (pa : Nat) (bs : List (Byte × Byte)) (heal : Bool) (o : Origin := {}) : State :=
  let s := s.snoop (lineOf pa)
  let s := if o.path = hwPath then s.putBytes pa (bs.map (·.1)) else s.performBytes pa bs
  let t := (s.dropStream (lineOf pa)).cacheWrite o pa bs.length
  if heal then t.setPoison pa false else t

/-- A write is held at a port, or sent to the host (R380, R383). -/
def State.holdAtPort (s : State) (m pa : Nat) (bs : List (Byte × Byte)) (heal : Bool) (o : Origin) : State :=
  { s with portHeld := s.portHeld ++ [{ module_ := m, addr := s.canon pa, bytes := bs, heal := heal, origin := o }] }

/-- A write is performed at the line it has reached. A write to a module that can't be reached is held at the port, or
discarded once firmware has declared the module lost (R383). -/
def State.performAt (s : State) (pa : Nat) (bs : List (Byte × Byte)) (heal : Bool) (o : Origin := {}) : State :=
  match s.region pa with
  | .remote m =>
    if s.portOpen m then (s.landAt (s.canon pa) bs heal o).answer o
    else if s.lost.contains m then s.answer o
    else s.holdAtPort m pa bs heal o
  | _ => (s.landAt (s.canon pa) bs heal o).answer o

/-- A write to the slow tier is sent as WrCur, 64 bytes at a time, and performed when the host answers (R380). -/
def State.sendSlow (s : State) (pa : Nat) (bs : List (Byte × Byte)) (heal : Bool) (o : Origin) : State :=
  let k := 64 - pa % 64
  let s := (s.request .wrCur pa).holdAtPort slowModule pa (bs.take k) heal o
  if k < bs.length then (s.request .wrCur (pa + k)).holdAtPort slowModule (pa + k) (bs.drop k) false o else s

/-- A write at the line where its chain ends. -/
def State.sendStore (s : State) (pa : Nat) (bs : List (Byte × Byte)) (heal : Bool) (o : Origin) : State :=
  match s.region pa with
  | .slow => s.sendSlow pa bs heal o
  | _ => s.performAt pa bs heal o

/-- Whole bytes. -/
def full (bs : List Byte) : List (Byte × Byte) := bs.map fun b => (b, 0xFF)

/-- Memory of a module that firmware has declared lost: an atomic there is discarded and what it returns is not stated, a
free value (R383; log 28). -/
def State.oldAt (s : State) (pa n : Nat) : Nat :=
  match s.region pa with
  | .remote m => if s.lost.contains m then Config.freeNat (2 ^ 64 * s.free + pa) % 256 ^ n else s.natAt pa n
  | _ => s.natAt pa n

/-- A write to this line of the slow tier has been sent and not answered (R380). -/
def State.slowPending (s : State) (pa : Nat) : Bool :=
  s.portHeld.any fun w => w.module_ = slowModule && lineOf w.addr = lineOf pa

/-! ## What another module's memory makes of an access (R338, R339, R383) -/

/-- What an access asks of a page (R312, R313). -/
inductive Acc where
  | read | write | fetch
  deriving DecidableEq, Repr

/-- A free value where another module's own tethers or poison meet an access, one for a line (R252, R339; log 76). -/
def State.farFault (s : State) (pa : Nat) : Nat :=
  match s.region pa with
  | .remote _ => Config.farFault s.free (lineOf (s.canon pa))
  | _ => 0

/-- The address ends at a module that can't be reached (R383). -/
def State.silent (s : State) (pa : Nat) : Bool :=
  match s.region pa with
  | .remote m => !s.reachable m
  | _ => false

/-- The line reads as poisoned. -/
def State.badLine (s : State) (pa : Nat) : Bool := s.poisoned pa || s.farFault pa = 1

/-- A line number in DETAIL that lies in another module, where this module can't know it: a free value. -/
def State.farLine (s : State) (pa k : Nat) : Nat := Config.freeNat (2 ^ 64 * (4 * s.free + k) + lineOf (s.canon pa)) % 2 ^ 42

/-- The tether fault that another module's chain gives. Of its DETAIL the lines that the access passed to get there are known; the
others, and the STAMP, lie in that module (R256, R361; log 76). -/
def State.farTether (s : State) (r : Resolved) : Option FaultInfo :=
  let passed := (r.via ++ [lineOf (s.canon r.pa)]).map lineNo
  let lines := (passed ++ (List.range 4).map (s.farLine r.pa)).take 4
  match s.farFault r.pa with
  | 2 => some { kind := .tetherLong, detail := lines.foldr (fun l d => l + 2 ^ 42 * d) 0 }
  | 3 => some { kind := .tetherDangling, detail := s.farLine r.pa 0 * 128 + 2 ^ 64 * (s.farLine r.pa 1 % 2 ^ 22) }
  | _ => none

/-- Admission by the owning module's export table (R338), whose contents this module does not hold (log 18). -/
def State.admitted (s : State) (pa : Nat) (a : Acc) : Bool :=
  match s.region pa with
  | .remote _ => Config.remoteAdmits s.free (s.canon pa) (a = .write)
  | _ => true

/-- The first line on an access's way whose module refuses it: every hop that arrives at another module is checked there (R338). -/
def State.refusing (s : State) (r : Resolved) (hop last : Acc) : Option Nat :=
  match r.via.find? fun l => !s.admitted l hop with
  | some l => some l
  | none => if s.admitted r.pa last then none else some r.pa

/-! ## Moves (R254, R255, R394) -/

/-- STAMP of a tether word (R249). -/
def stampOf (scc : Word) : Nat := bits scc.toNat 30 22

/-- The core that stands in a held write of an agent that is no core's path unit. -/
def noCore : Nat := 0xFFFF

def Origin.coreNo (o : Origin) : Nat := o.core.getD noCore

/-- The origin of a store. -/
def StoreEntry.origin (e : StoreEntry) (core : Nat) : Origin :=
  { core := if core = noCore then none else some core, slot := e.slot, path := e.path, colour := e.colour, via := e.via }

/-- A write as it waits. -/
def Origin.entry (o : Origin) (pa : Nat) (bs : List (Byte × Byte)) (heal : Bool) : StoreEntry :=
  { slot := o.slot, path := o.path, pa := pa, bytes := bs, colour := o.colour, via := o.via, word := 0, heal := heal }

/-- A write is held at a line in transit (R255). -/
def State.holdAt (s : State) (pa core : Nat) (e : StoreEntry) : State :=
  { s with heldWrites := s.heldWrites ++ [{ line := lineOf pa, core := core, entry := e }] }

/-- A write goes to the end of the chain: held at a line in transit (R255), never performed at a released line, its metadata
corrupt after the probe perhaps (R248; log 115), else sent. -/
def State.arriveAt (s : State) (pa : Nat) (bs : List (Byte × Byte)) (heal : Bool) (o : Origin) : State :=
  let t := s.follow pa
  match s.tether t with
  | .inTransit => s.holdAt t o.coreNo (o.entry t bs heal)
  | .plain => s.sendStore t bs heal o
  | _ => s.answer o

/-- Performs writes that were held at a line, in the order they arrived (R255). -/
def State.performHeld (s : State) : List HeldWrite → State
  | [] => s
  | h :: hs => State.performHeld (s.arriveAt h.entry.pa h.entry.bytes h.entry.heal (h.entry.origin h.core)) hs

/-- A store that is on its way through a line passes it (R139). -/
def StoreEntry.passing (s : State) (line : Nat) (e : StoreEntry) : StoreEntry :=
  if lineOf (s.follow e.pa) = line && !e.via.contains line then { e with via := e.via ++ [line] } else e

/-- Every write that waits and would end at a line counts as in flight through it (R139). -/
def State.markPassing (s : State) (line : Nat) : State :=
  { s with
    cores := s.cores.map fun p => (p.1, { p.2 with sbuf := p.2.sbuf.map (StoreEntry.passing s line),
                                                   squeue := p.2.squeue.map (StoreEntry.passing s line) }),
    heldWrites := s.heldWrites.map fun h => { h with entry := h.entry.passing s line },
    portHeld := s.portHeld.map fun w =>
      if lineOf w.addr = line && !w.origin.via.contains line then
        { w with origin := { w.origin with via := w.origin.via ++ [line] } } else w }

/-- A move can read or write this line now; lines of a module declared lost are given up (R383). -/
def State.destReady (s : State) (pa : Nat) : Bool :=
  match s.region pa with
  | .remote m => s.portOpen m || s.lost.contains m
  | _ => true

/-- The 128 bytes and the poison of a line arrive at a move's destination; a module declared lost receives none (R155,
R383). To the slow tier the copy went before, and stands there as the host answered it (R380). -/
def State.landCopy (s : State) (dest : Nat) (data : List Byte) (poison : Bool) : State :=
  match s.region dest with
  | .remote m =>
    if s.lost.contains m then s else ((s.landAt dest (full data) false)).setPoison dest poison
  | .slow => if poison then s.setPoison dest true else s
  | _ => (s.landAt dest (full data) false).setPoison dest poison

/-- A line becomes tethered: its tether word names the destination and the current SCC value (R249, R257). -/
def State.leaveTether (s : State) (line dest : Nat) : State :=
  let word := lineNo dest * 2 ^ 22 + stampOf s.scc
  let s := ((s.putBytes line (leBytes 8 word)).dropStream line).dropCached line
  s.setMeta line { s.meta_ line with tether := .tethered }

/-- The commit of a move: the copy, the tether word, the state of L, the held writes (R155, R254, R255, R257). No data cache keeps
L, nor the bytes that D held before (R233). Another module that asked for the move is answered (R339). -/
def State.finishMove (s : State) (m : Move) : State :=
  let poison := s.badLine m.line || s.silent m.line
  let s := (s.markPassing m.line).landCopy m.dest (s.bytesAt m.line 128) poison
  let s := (s.leaveTether m.line m.dest).dropCached m.dest
  let held := s.heldWrites.filter fun h => h.line = m.line
  let s := { s with moves := s.moves.filter (fun n => n.line ≠ m.line), heldWrites := s.heldWrites.filter (fun h => h.line ≠ m.line) }
  (s.answer { path := m.path, slot := m.owner.slot }).performHeld held

/-- The copy of a move to the slow tier is on its way (R380). -/
def State.sendCopy (s : State) (m : Move) : State :=
  let s := s.sendSlow m.dest (full (s.bytesAt m.line 128)) true { path := copyPath }
  { s with moves := s.moves.map fun n => if n.line = m.line then { n with sent := true } else n }

/-- A move commits. While a module that its source or destination lies in can't be reached, or the host has not answered the copy,
it waits, and the line stays in transit (R380, R383). -/
def State.commitMove (s : State) (m : Move) : State :=
  if !s.destReady m.line || !s.destReady m.dest then s
  else
    match s.region m.dest with
    | .slow => if !m.sent then s.sendCopy m else if s.slowPending m.dest then s else s.finishMove m
    | _ => s.finishMove m

/-- Lets a move of this line run to its commit, the moves of lower elements of its VTMOVE before it (R156). -/
def State.settleLine (s : State) (line : Nat) : State :=
  match s.moves.find? fun m => m.line = line with
  | none => s
  | some m =>
    let before := fun (s : State) => (s.moves.takeWhile fun n => n.line ≠ line).filter fun n => n.word = m.word && n.word ≠ 0
    let s := (before s).foldl State.commitMove s
    if before s = [] then s.commitMove m else s

/-- Follows the chain from a resolved address, waiting for the commit of any move on the way (R139). -/
def State.settleGo : Nat → State → Nat → State × Nat
  | 0, s, pa => (s, s.follow pa)
  | n + 1, s, pa =>
    let t := s.follow pa
    if s.tether t = .inTransit then State.settleGo n (s.settleLine (lineOf t)) t else (s, t)

def State.settle (s : State) (pa : Nat) : State × Nat := State.settleGo (s.moves.length + 1) s pa

/-- A write that waits for a move of its line, and is held there while that move itself must wait (R139, R255). -/
def State.sendNow (s : State) (pa : Nat) (bs : List (Byte × Byte)) (heal : Bool) (o : Origin) : State :=
  let (s, t) := s.settle pa
  s.arriveAt t bs heal o

/-- An atomic's write: on the slow tier under exclusive ownership, written back at once (R380). -/
def State.performAtomic (s : State) (pa : Nat) (bs : List (Byte × Byte)) (o : Origin) : State :=
  ((s.request .rdOwn pa).performAt pa bs false o).request .dirtyEvict pa

/-! ### What the hardware itself writes and reads

Heads, tails, counters, records and rings of dispatchers, rings, windows and trap queues, by physical address. They resolve
like every access to HBM (R251); one that meets a tether fault, or that another module refuses, is not performed (log 96). -/

/-- A write within one line that an address names. -/
def State.hwLine (s : State) (pa : Nat) (bs : List Byte) : State :=
  match s.resolve pa with
  | .error _ => s
  | .ok r =>
    if (s.farTether r).isSome || (s.refusing r .write .write).isSome then s
    else s.sendNow r.pa (full bs) false { path := hwPath, via := r.via }

/-- Bytes from an address up, line by line, at most 256. -/
def State.hwWrite (s : State) (pa : Nat) (bs : List Byte) : State :=
  let k := 128 - pa % 128
  let s := s.hwLine pa (bs.take k)
  let s := if k < bs.length then s.hwLine (pa + k) ((bs.drop k).take 128) else s
  if k + 128 < bs.length then s.hwLine (pa + k + 128) (bs.drop (k + 128)) else s

/-- The hardware's own write of a byte that waits at a port or at a line in transit. -/
def State.hwOwn (s : State) (pa : Nat) : Option Byte :=
  let at_ := fun (a : Nat) (bs : List (Byte × Byte)) => if a ≤ pa then (bs[pa - a]?).map (·.1) else none
  let port := (s.portHeld.filter fun w => w.origin.path = hwPath).filterMap fun w => at_ w.addr w.bytes
  let line := (s.heldWrites.filter fun h => h.entry.path = hwPath).filterMap fun h => at_ h.entry.pa h.entry.bytes
  (port ++ line).getLast?

/-- A byte that the hardware reads, behind its own writes of it; one that meets a tether fault, a refusal, poison or a module out of
reach is a free value (log 96). -/
def State.hwByte (s : State) (pa : Nat) : Byte :=
  let free := BitVec.ofNat 8 (Config.freeNat (2 ^ 64 * s.free + pa))
  match s.resolve pa with
  | .ok r =>
    if (s.farTether r).isSome || (s.refusing r .read .read).isSome || s.badLine r.pa || s.silent r.pa then free
    else (s.hwOwn r.pa).getD (s.byte r.pa)
  | .error _ => free

def State.hwBytes (s : State) (pa n : Nat) : List Byte := (List.range n).map fun j => s.hwByte (pa + j)
def State.hwRead (s : State) (pa n : Nat) : Nat := leNat (s.hwBytes pa n)

/-! ## Store queues (R96, R143, R162, R226) -/

/-- A word that covers a line heals it when the last of its writes to the line is performed (R141). -/
def StoreEntry.last (e : StoreEntry) (rest : List StoreEntry) : StoreEntry :=
  { e with heal := e.heal && !rest.any fun x => x.word = e.word && lineOf x.pa = lineOf e.pa }

/-- Two stores reach a common byte. -/
def StoreEntry.overlaps (e x : StoreEntry) : Bool := e.pa < x.pa + x.bytes.length && x.pa < e.pa + e.bytes.length

/-- A store leaves before one that entered after it: on one path unit always (R96, R140, R162), and within one convoy where
the two reach a common byte, so that the later word's or higher element's bytes remain (R78, R142, R146). -/
def StoreEntry.before (e x : StoreEntry) : Bool :=
  e.path = x.path || (e.slot = x.slot && e.convoy = x.convoy && e.overlaps x)

/-- Writes of a strand that have left their queue and are not performed yet: held at a line in transit, or at a port (R255, R380,
R383). -/
def State.heldBack (s : State) (core slot : Nat) (p : Origin → Bool) : Bool :=
  s.heldWrites.any (fun h => h.core = core && h.entry.slot = slot && p (h.entry.origin core)) ||
  s.portHeld.any fun w => w.origin.core = some core && w.origin.slot = slot && p w.origin

/-- What a strand's words wait for that order these writes: writes that are held, moves that have not committed (R258), and stores
that can't leave their queue yet (R162). -/
def State.stillHeld (s : State) (core slot : Nat) (p : Origin → Bool) : Bool :=
  s.heldBack core slot p ||
  s.moves.any (fun m => m.path ≠ farPath && m.owner.core = core && m.owner.slot = slot &&
    p { core := some core, slot := slot, path := m.path, colour := m.colour, via := m.via }) ||
  (s.core core).squeue.any fun e => e.slot = slot && p (e.origin core)

/-- A MATRIX store waits until the earlier ones of its strand are performed (R162). -/
def State.matHeld (s : State) (core : Nat) (e : StoreEntry) : Bool :=
  e.path = 4 && s.heldBack core e.slot fun o => o.path = 4

/-- A store leaves its queue: performed, or held at a line in transit (R255). A MAT store waits for the move instead, as no
later MATRIX access may pass it (R162). `rest` still waits. -/
def State.leave (s : State) (core : Nat) (e : StoreEntry) (rest : List StoreEntry) : State :=
  let e := e.last rest
  let t := s.follow e.pa
  if e.path = 4 then s.sendNow e.pa e.bytes e.heal (e.origin core)
  else if s.heldWrites.any (fun h => h.core = core && h.entry.path = e.path && h.line = lineOf t) then s.holdAt t core e
  else s.arriveAt t e.bytes e.heal (e.origin core)

/-- The store of a path unit of a core that may leave next, and those that stay (R143): none while an older store of its convoy
that reaches a common byte must leave first (R78, R142, R146), or an earlier MATRIX store is not performed (R162). -/
def State.nextStore (s : State) (core path : Nat) : Option (StoreEntry × List StoreEntry) :=
  let q := (s.core core).squeue
  match q.findIdx? fun e => e.path = path with
  | none => none
  | some k =>
    match q[k]? with
    | none => none
    | some e => if (q.take k).any (fun x => x.before e) || s.matHeld core e then none else some (e, q.eraseIdx k)

/-- Stores that can't leave stand at the head of their queue again. -/
def State.requeue (s : State) (core : Nat) (kept : List StoreEntry) : State :=
  if kept = [] then s
  else
    let c := s.core core
    s.setCore core { c with squeue := kept ++ c.squeue }

/-- Performs entries in order, waiting for moves; `rest` still waits, and so does what `kept` and the list hold that must wait
for an earlier MATRIX store (R162). -/
def State.performAll (s : State) (core : Nat) (rest kept : List StoreEntry) : List StoreEntry → State
  | [] => s.requeue core kept
  | e :: es =>
    if s.matHeld core e || kept.any (fun x => x.before e) then s.performAll core rest (kept ++ [e]) es
    else (s.sendNow e.pa e.bytes (e.last (kept ++ es ++ rest)).heal (e.origin core)).performAll core rest kept es

/-- Lets every move that holds a write of a strand commit (R255), over and over, as a write may come to the next such line. -/
def State.settleHeldGo (core slot : Nat) : Nat → State → State
  | 0, s => s
  | n + 1, s => settleHeldGo core slot n
      ((s.heldWrites.filter fun h => h.core = core && h.entry.slot = slot).foldl (fun s h => s.settleLine h.line) s)

def State.settleHeld (s : State) (core slot : Nat) : State := State.settleHeldGo core slot s.moves.length s

/-- A queue cut in two: the stores that a test selects with every store that leaves before one of them, and the rest. -/
def splitUpTo (p : StoreEntry → Bool) : List StoreEntry → List StoreEntry × List StoreEntry
  | [] => ([], [])
  | e :: es =>
    let r := splitUpTo p es
    if p e || r.1.any (fun x => e.before x) then (e :: r.1, r.2) else (r.1, e :: r.2)

/-- Performs the selected scalar stores of the strands of a core. -/
def State.drainSbuf (s : State) (core : Nat) (p : StoreEntry → Bool) : State :=
  let c := s.core core
  let r := splitUpTo p c.sbuf
  (s.setCore core { c with sbuf := r.2 }).performAll core r.2 [] r.1

/-- Performs the selected vector and MAT stores of the strands of a core. -/
def State.drainSqueue (s : State) (core : Nat) (p : StoreEntry → Bool) : State :=
  let c := s.core core
  let r := splitUpTo p c.squeue
  (s.setCore core { c with squeue := r.2 }).performAll core r.2 [] r.1

/-- Performs every store of a strand on every path. -/
def State.drainStrand (s : State) (core slot : Nat) : State :=
  (((s.drainSbuf core fun e => e.slot = slot).drainSqueue core fun e => e.slot = slot).settleHeld core slot)

/-! ## Reading around stores that wait -/

/-- The bytes of a store that reach an address, laid over a byte. -/
def StoreEntry.over (s : State) (e : StoreEntry) (pa : Nat) (old : Byte) : Byte :=
  let t := s.follow e.pa
  if t ≤ pa && pa < t + e.bytes.length then
    match e.bytes[pa - t]? with
    | some (v, k) => mergeByte old v k
    | none => old
  else old

/-- The byte at a final address with stores not yet performed laid over it, oldest first. -/
def State.byteOver (s : State) (es : List StoreEntry) (pa : Nat) (old : Byte) : Byte :=
  es.foldl (fun b e => e.over s pa b) old

/-- n bytes read at a final address, with stores that the reader sees laid over what `at_` gives. -/
def State.layOver (s : State) (es : List StoreEntry) (at_ : Nat → Byte) (pa n : Nat) : List Byte :=
  (List.range n).map fun j => s.byteOver es (s.canon pa + j) (at_ (s.canon pa + j))

def State.bytesOver (s : State) (es : List StoreEntry) (pa n : Nat) : List Byte := s.layOver es s.byte pa n

end Sys2Proof.Machine
end

