-- ==== Sys2Proof/Machine/Translate.lean ====
section
/-! DEFINITION. Address translation (R311 to R316), the checks an access passes before it reads or writes (R94, R135, R136,
R224, R338), and instruction fetch (R76, R89). -/
namespace Sys2Proof.Machine

/-- A leaf that a walk found: the page, its size, its entry, its physical address. -/
structure Leaf where
  page : Nat
  size : Nat
  pte : Word
  base : Nat
  deriving DecidableEq, Repr

/-- Fields of a page-table entry (R312). -/
def pteMt (e : Nat) : Nat := bits e 60 2
def ptePin (e : Nat) : Bool := bits e 59 1 = 1
def pteSink (e : Nat) : Bool := bits e 58 1 = 1
def pteX (e : Nat) : Bool := bits e 57 1 = 1
def pteW (e : Nat) : Bool := bits e 56 1 = 1
def pteRd (e : Nat) : Bool := bits e 55 1 = 1
def pteAddr (e : Nat) : Nat := bits e 8 41 * 256
def pteLeaf (e : Nat) : Bool := bits e 1 1 = 1
def pteV (e : Nat) : Bool := bits e 0 1 = 1
def pteRsv (e : Nat) : Bool := bits e 62 2 = 0 && bits e 49 6 = 0 && bits e 2 6 = 0

/-- Index of a virtual address at a level (R311). -/
def vaIndex (va level : Nat) : Nat :=
  match level with
  | 0 => bits va 48 9
  | 1 => bits va 39 9
  | 2 => bits va 30 9
  | 3 => bits va 21 9
  | _ => bits va 16 5

/-- Size of a page whose leaf is at a level (R311). -/
def pageSize (level : Nat) : Nat :=
  match level with
  | 2 => 2 ^ 30
  | 3 => 2 ^ 21
  | _ => 2 ^ 16

/-- DETAIL of a translation fault (R361). -/
def paDetail (pa : Nat) : Nat := pa % 2 ^ 49

/-- Page sizes of on-chip pages (R218). -/
def State.onChipSizeOk (s : State) (base size : Nat) : Bool :=
  match s.region base with
  | .gallery _ => size ≤ 2 ^ 21
  | .chamber _ | .tagWindow _ | .niche _ => size = 2 ^ 16
  | _ => true

/-- Every byte of a page lies in the map: a page of 64 KB touches at most one hole inside, so its granules of 4 KB decide
(R218, R313). -/
def State.pageMapped (s : State) (base size : Nat) : Bool :=
  if s.onChip base then
    (List.range (size / 4096)).all fun k => s.mapped (base + 4096 * k)
  else s.mapped base && s.mapped (base + size - 1)

/-- What holds a read of another module's line back: while its port takes no request the read waits, and POISON once the module
has been out of reach for 100 microseconds (R383). -/
def State.farWait (s : State) (pa : Nat) : Option FaultInfo :=
  match s.region pa with
  | .remote m =>
    if s.portOpen m then none
    else some { kind := .poison, detail := lineNo pa * 128, waits := s.reachable m || !s.me.timedOut }
  | _ => none

/-- An agent whose own 100 microseconds have passed (R383; log 16). -/
def State.patient (s : State) : State := { s with me := { s.me with timedOut := true } }

/-- The five-level walk (R311, R313). The walker reads entries through RESOLVE (R251). -/
def State.walkFrom (s : State) (va : Nat) : (levels level table : Nat) → Except FaultInfo Leaf
  | 0, _, table => .error { kind := .pteForm, detail := paDetail table }
  | n + 1, level, table =>
    let ea := table + 8 * vaIndex va level
    if !s.mapped table then .error { kind := .physRange, detail := paDetail ea }
    else
      match s.resolve ea with
      | .error f => .error f
      | .ok r =>
        match s.farTether r, s.refusing r .read .read, s.farWait r.pa with
        | some f, _, _ => .error f
        | none, some _, _ => .error { kind := .remoteDenied, detail := paDetail ea }
        | none, none, some f => .error f
        | none, none, none =>
        if s.badLine r.pa then .error { kind := .poison, detail := lineNo r.pa * 128 }
        else
          let e := s.natAt r.pa 8
          let bad : FaultInfo := { kind := .pteForm, detail := paDetail ea }
          if !pteV e then .error { kind := .pageAbsent, detail := paDetail ea }
          else if !pteRsv e then .error bad
          else if pteLeaf e then
            let size := pageSize level
            if level < 2 || pteMt e = 3 || pteAddr e % size ≠ 0 || !s.onChipSizeOk (pteAddr e) size then .error bad
            else if !s.pageMapped (pteAddr e) size then .error { kind := .physRange, detail := paDetail (pteAddr e) }
            else .ok ⟨va / size * size, size, BitVec.ofNat 64 e, pteAddr e⟩
          else if level = 4 || (level < 3 && pteAddr e % 4096 ≠ 0) then .error bad
          else s.walkFrom va n (level + 1) (pteAddr e)

/-- ROOT and ASID of a PTROOT value (R203). -/
def rootOf (ptroot : Word) : Nat := ptroot.toNat / 65536 * 65536
def asidOf (ptroot : Word) : Nat := ptroot.toNat % 65536

/-- Bits [63:57] equal bit 56 (R311). -/
def canonical (va : Word) : Bool := bits va.toNat 56 8 = 0 || bits va.toNat 56 8 = 255

/-- A walk from PTROOT; the page is named by the low 57 bits of the address. -/
def State.walk (s : State) (ptroot va : Word) : Except FaultInfo Leaf :=
  if canonical va then s.walkFrom (va.toNat % 2 ^ 57) 5 0 (rootOf ptroot) else .error { kind := .noncanon }

/-- What the TLBs may still hold for this address (R316). -/
def State.tlbHits (s : State) (ptroot va : Word) : List Leaf :=
  (s.tlb.filter fun e => e.asid = asidOf ptroot && e.page ≤ va.toNat % 2 ^ 57 && va.toNat % 2 ^ 57 < e.page + e.size).map
    fun e => ⟨e.page, e.size, e.pte, e.base⟩

/-- The translation in use: an access may use what the tables give or any translation used before until a TLBINV or TLBINVA
covers it (R316, log 8): a free value of this step and page decides. -/
def State.leafOf (s : State) (ptroot va : Word) : Except FaultInfo Leaf :=
  let w := s.walk ptroot va
  let old := (s.tlbHits ptroot va).filter fun l => match w with | .ok x => x ≠ l | .error _ => true
  if !canonical va || old.isEmpty then w
  else
    match old[Config.freeNat (2 ^ 64 * s.free + va.toNat / 65536) % (old.length + 1)]? with
    | some l => .ok l
    | none => w

/-- The translations that the module's TLBs hold at most: 384 for each core and 8,192 for each cluster (R2, R314). -/
def tlbSize : Nat := 256 * 384 + 64 * 8192

/-- A TLB notes the translation that an access used; an older one of the page stays usable (R316), until the TLBs are full. -/
def State.noteXlate (s : State) (ptroot va : Word) : State :=
  match s.leafOf ptroot va with
  | .error _ => s
  | .ok l =>
    let e : TlbEntry := ⟨asidOf ptroot, l.page, l.size, l.pte, l.base⟩
    if s.tlb.contains e then s else { s with tlb := (e :: s.tlb).take tlbSize }

/-- Page permissions (R313); a fetch from a guard page is CODE-END (R89). -/
def permitted (pte : Nat) (a : Acc) : Option FaultKind :=
  match a with
  | .fetch => if pteMt pte = 2 then some .codeEnd else if pteX pte then none else some .pagePerm
  | .read => if pteMt pte = 2 || !pteRd pte then some .pagePerm else none
  | .write => if pteMt pte = 2 || !pteW pte then some .pagePerm else none

/-- A translated address, and the page it lies in. -/
structure Xl where
  pa : Nat
  page : Nat
  device : Bool
  pin : Bool
  sink : Bool
  deriving DecidableEq, Repr

/-- Translation with the permission check (R313). -/
def State.xlate (s : State) (ptroot va : Word) (a : Acc) : Except FaultInfo Xl :=
  match s.leafOf ptroot va with
  | .error f => .error { f with addr := va }
  | .ok l =>
    let pte := l.pte.toNat
    let pa := s.canon (l.base + (va.toNat % 2 ^ 57 - l.page))
    match permitted pte a with
    | some k => .error { kind := k, addr := va, detail := if k = .codeEnd then 0 else paDetail l.base }
    | none => .ok ⟨pa, l.base, pteMt pte = 1 || (match s.region pa with | .tagWindow _ => true | _ => false),
                   ptePin pte || s.onChip pa, pteSink pte⟩

/-! ## The probe of one access -/

/-- A probed access: where its chain ends, the lines passed, the page's attributes and the line first named. -/
structure Probed where
  pa : Nat
  via : List Nat
  device : Bool
  pin : Bool
  sink : Bool
  first : Nat
  deriving DecidableEq, Repr

/-- Translation, memory type, tether chain, admission, in the order of R137 and R338. `dev` allows device memory. -/
def State.probe (s : State) (ptroot va : Word) (a : Acc) (dev : Bool) : Except FaultInfo Probed :=
  match s.xlate ptroot va a with
  | .error f => .error f
  | .ok x =>
    if x.device && !dev then .error { kind := .memType, addr := va }
    else
      match s.resolve x.pa with
      | .error f => .error { f with addr := va }
      | .ok r =>
        match s.farTether r, s.refusing r a a with
        | some f, _ => .error { f with addr := va }
        | none, some _ => .error { kind := .remoteDenied, addr := va, detail := paDetail x.page }
        | none, none => .ok ⟨r.pa, r.via, x.device, x.pin, x.sink, x.pa⟩

/-- The chamber slot that an address lies in: the address of its TAGW (R218, R222). -/
def State.slotTag (s : State) (pa : Nat) : Option Nat :=
  match s.region pa with
  | .chamber c => some (tagBase + 0x1000 * c + 16 * ((pa - chamberBase - 0x100000 * c) / 4096))
  | _ => none

/-- ARM is 1 and TAG differs from EXP (R224). -/
def State.slotMismatch (s : State) (pa : Nat) : Bool :=
  match s.slotTag pa with
  | none => false
  | some t => bits (s.natAt (t + 8) 8) 48 1 = 1 && s.natAt t 2 ≠ s.natAt (t + 12) 2

/-- ARM becomes 0 when the word whose read matched retires (R224). -/
def State.disarm (s : State) (pa : Nat) : State :=
  match s.slotTag pa with
  | none => s
  | some t => if bits (s.natAt (t + 8) 8) 48 1 = 1 then s.putBytes (t + 14) [0] else s

/-- The probe of a read, with the compare of a chamber slot's tag after the other checks (R224). -/
def State.probeRead (s : State) (ptroot va : Word) (dev : Bool) : Except FaultInfo Probed :=
  match s.probe ptroot va .read dev with
  | .error f => .error f
  | .ok p => if s.slotMismatch p.pa then .error { kind := .schedule, addr := va } else .ok p

/-- The poison check of the read phase (R94, R136). -/
def State.poisonCheck (s : State) (pa : Nat) (va : Word) : Except FaultInfo Unit :=
  if s.badLine pa then .error { kind := .poison, addr := va, detail := lineNo pa * 128 } else .ok ()

/-- A read of a module that can't be reached waits, and raises POISON once 100 microseconds have passed (R383). A port that
swaps a lane or has no room only delays it (R382, R384), and so does a write to the slow tier on its way. -/
def State.reachCheck (s : State) (pa : Nat) (va : Word) : Except Stop Unit :=
  if s.slowPending pa then .error .wait
  else
    match s.farWait pa with
    | none => .ok ()
    | some f => if f.waits then .error .wait else .error (.fault { f with addr := va })

/-- An atomic on a module that can't be reached is held until the link returns or the module is declared lost (R383). -/
def State.reachAtomic (s : State) (pa : Nat) : Except Stop Unit :=
  match s.region pa with
  | .remote m => if s.portOpen m || s.lost.contains m then .ok () else .error .wait
  | _ => if s.slowPending pa then .error .wait else .ok ()

/-! ## Instruction fetch (R76, R89) -/

/-- The line of an image. -/
def lineImage (s : State) (line : Nat) : Image := s.mem.filter fun p => line ≤ p.1 && p.1 < line + 128

/-- The address lies in a chamber tag window (R222). -/
def State.inTagWindow (s : State) (pa : Nat) : Bool :=
  match s.region pa with
  | .tagWindow _ => true
  | _ => false

/-- Lines of an instruction cache, and of a scalar data cache: 32 KB (R2). -/
def cacheLines : Nat := 256

/-- A cache that is full drops a line to take another: which is free (log 7, 97). -/
def State.evict (s : State) (room line : Nat) (l : List (Nat × Image)) : List (Nat × Image) :=
  if l.length < room then l else l.eraseIdx (Config.freeNat (2 ^ 64 * s.free + line) % l.length)

/-- A line that the instruction cache holds may have been dropped, and be read anew by this step (R76; log 7). -/
def State.refetches (s : State) (line : Nat) : Bool := Config.freeBit (2 ^ 64 * s.free + line + 2 ^ 128)

/-- n bytes of an instruction. No fetch reaches a tag window (R222). A word stored since the line was read may come back old or new
(R76; log 7). -/
def State.fetch (s : State) (core : Nat) (ptroot va : Word) (n : Nat) : Except FaultInfo Nat :=
  match s.probe ptroot va .fetch true with
  | .error f => .error { f with addr := va }
  | .ok p =>
    if s.inTagWindow p.pa then .error { kind := .memType, addr := va }
    else match s.farWait p.pa, s.poisonCheck p.pa va with
    | some f, _ => .error { f with addr := va }
    | none, .error f => .error f
    | none, .ok _ =>
      let new := s.natAt p.pa n
      match (s.core core).icache.find? fun e => e.1 = lineOf p.pa with
      | none => .ok new
      | some e =>
        let old := leNat ((List.range n).map fun j => imgGet e.2 (p.pa + j) ^^^ unlisted (p.pa + j))
        .ok (if old = new || s.refetches (lineOf p.pa) then new else old)

/-- The instruction cache keeps the line a fetch read; one read anew takes the place of what it held (R76). -/
def State.noteFetch (s : State) (core : Nat) (ptroot va : Word) : State :=
  match s.probe ptroot va .fetch true with
  | .error _ => s
  | .ok p =>
    let c := s.core core
    let line := lineOf p.pa
    if c.icache.any (fun e => e.1 = line) && !s.refetches line then s
    else
      let rest := s.evict cacheLines line (c.icache.filter fun e => e.1 ≠ line)
      State.setCore (s.request .rdCurr p.pa) core { c with icache := (line, lineImage s line) :: rest }

end Sys2Proof.Machine
end

