-- ==== Sys2Proof/Machine/Ops.lean ====
section
/-! DEFINITION. The named operations of a strand: registers, the program counter, waiting for blocks, taking an exception
(R359 to R363) and returning from one, and the frame in which every scalar word runs (R90, R91). -/
namespace Sys2Proof.Machine

/-- What a step answers. -/
abbrev Result := Host.Outcome State Fault Refusal

/-! ## Registers (R23, R24) -/

/-- x[r]; x0 reads as zero. -/
def Strand.xget (t : Strand) (r : Reg) : Word := if r = 0 then 0 else t.x[r.toNat]

/-- A write to x[r]; a write to x0 is discarded. -/
def Strand.xset (t : Strand) (r : Reg) (v : Word) : Strand :=
  if r = 0 then t else { t with x := t.x.set r.toNat v }

def State.xget (s : State) (r : Reg) : Word := s.me.xget r

def State.xset (s : State) (r : Reg) (v : Word) : State := { s with me := s.me.xset r v }

/-- The program counter moves to the next word (R90). -/
def State.advance (s : State) : State := { s with me := { s.me with pc := s.me.pc + 4 } }

def State.jump (s : State) (pc : Word) : State := { s with me := { s.me with pc := pc } }

/-! ## Fields of control registers (R26, R37) -/

def vtypeEw (v : Word) : Nat := bits v.toNat 0 2
def vtypeNreg (v : Word) : Nat := bits v.toNat 2 2
def vtypeTcols (v : Word) : Nat := bits v.toNat 8 2
def vtypeGrp (v : Word) : Nat := bits v.toNat 10 2
def vtypeBun (v : Word) : Nat := bits v.toNat 12 2
def vtypeSlc (v : Word) : Nat := bits v.toNat 14 4
def vtypeRm (v : Word) : Nat := bits v.toNat 18 3
def vtypeClr (v : Word) : Nat := bits v.toNat 21 3

/-- Replaces n bits from bit lo. -/
def setBits (v : Word) (lo n x : Nat) : Word :=
  v - BitVec.ofNat 64 (bits v.toNat lo n * 2 ^ lo) + BitVec.ofNat 64 (x % 2 ^ n * 2 ^ lo)

/-- LEW in bits, the declared count, register bytes and MVL (R26). -/
def lewOf (vtype : Word) : Nat := 8 * 2 ^ vtypeEw vtype
def nregOf (vtype : Word) : Nat := 8 * 2 ^ vtypeNreg vtype
def slicesOf (g : BitVec 4) : Nat := popc 4 g.toNat
def regBytes (g : BitVec 4) (vtype : Word) : Nat := 65536 * slicesOf g / nregOf vtype
def mvlOf (g : BitVec 4) (vtype : Word) : Nat := regBytes g vtype / (lewOf vtype / 8)

/-- Colour of the strand's scalar stores, atomics and engine commands (R37). -/
def State.colour (s : State) : Nat := vtypeClr s.me.ctl.vtype

/-! ## Places -/

def clusterOf (core : Nat) : Nat := core / 4
def dieOf (core : Nat) : Nat := core / 64

/-- The instance of a scope that holds a core (R231). -/
def unitOf (scope core : Nat) : Nat :=
  match scope with
  | 1 => core
  | 2 => clusterOf core
  | 3 => dieOf core
  | _ => 0

/-- The physical core that a die's map gives a logical core at reset: ascending, core 3 of clusters 3, 7, 11 and 15
skipped (R292). -/
def mapAtReset (logical : Nat) : Nat := 64 * (logical / 60) + logical % 60 + logical % 60 / 15

/-- The core map (R292): the physical core of a logical core, and the logical core bound to a physical core, if any. -/
def State.physOf (s : State) (logical : Nat) : Nat := assocGet (mapAtReset logical) s.coreMap logical

def State.logicalOf (s : State) (core : Nat) : Option Nat := (List.range 240).find? fun l => s.physOf l = core

/-- Every placed strand. -/
def State.all (s : State) : List Strand := (s.me :: s.strands).filter fun t => t.placed

/-- The strand in a slot. -/
def State.strandAt (s : State) (core slot : Nat) : Option Strand := s.all.find? fun t => t.core = core && t.slot = slot

/-- Replaces the strand of a slot. -/
def State.setStrand (s : State) (t : Strand) : State :=
  if s.me.placed && s.me.core = t.core && s.me.slot = t.slot then { s with me := t }
  else { s with strands := s.strands.map fun u => if u.core = t.core && u.slot = t.slot then t else u }

/-- The strand of a slot becomes the one that acts. -/
def State.focus (s : State) (core slot : Nat) : State :=
  if s.me.placed && s.me.core = core && s.me.slot = slot then s
  else
    match s.strands.find? fun t => t.core = core && t.slot = slot with
    | none => s
    | some t =>
      { s with me := t, strands := (if s.me.placed then [s.me] else []) ++
                                   s.strands.filter fun u => !(u.core = core && u.slot = slot) }

/-- A halt of a cut covers a core (R201, R310). -/
def State.halted (s : State) (core : Nat) : Bool := s.halts.any fun h => unitOf h.scope core = h.unit

/-- Changes every placed strand. -/
def State.mapStrands (s : State) (f : Strand → Strand) : State :=
  { s with me := f s.me, strands := s.strands.map f }

/-! ## Blocks fetched and not retired (R91, R207, R208) -/

/-- A queued block still has to write this register (R207). -/
def Strand.pending (t : Strand) (r : Nat) : Bool :=
  r ≠ 0 && t.queue.any fun q => q.writes.any fun w => w.1 = r && q.vpc.toNat ≤ w.2

/-- A scalar word of these registers can't issue yet (R204, R207). -/
def Strand.stalled (t : Strand) (regs : List Reg) : Bool :=
  t.queue.any (fun q => q.direct) || regs.any fun r => t.pending r.toNat

/-- Early work ends when its loop step resolves (R215): its reads are made again by the confirmed block. -/
def Strand.dropEarly (t : Strand) : Strand := { t with early := none }

/-- The executing strand may issue: placed, not held on a trap, not halted by a cut, and not due for its forced save. -/
def State.runs (s : State) : Bool :=
  s.me.placed && s.me.held = .no && !s.halted s.me.core && !(s.me.pend && s.me.left = 0)

/-! ## Trap records (R359 to R362, R364) -/

/-- Codes of R361. -/
def FaultKind.code : FaultKind → Nat
  | .illegalEncoding => 0x01 | .codeEnd => 0x02 | .vregUndeclared => 0x03 | .unitUnheld => 0x04 | .privilege => 0x05
  | .misaligned => 0x08 | .memType => 0x09
  | .noncanon => 0x0A | .pageAbsent => 0x0B | .pteForm => 0x0C | .physRange => 0x0D | .pagePerm => 0x0E
  | .remoteDenied => 0x0F
  | .poison => 0x10
  | .tetherLong => 0x18 | .tetherDangling => 0x19 | .tetherState => 0x1A | .moveRefused => 0x1B
  | .schedule => 0x20 | .sdForm => 0x21 | .skeinForm => 0x22 | .skeinLimit => 0x23 | .skeinUnbound => 0x24
  | .tileIndex => 0x25 | .semvForm => 0x26 | .xcmdForm => 0x27 | .colForm => 0x28 | .colTicket => 0x29
  | .stopatLate => 0x2A | .ctxState => 0x2B | .ctxForm => 0x2C
  | .braidForm => 0x30 | .braidState => 0x31 | .braidRange => 0x32 | .braidShare => 0x33
  | .stkRange => 0x38 | .stkElement => 0x39 | .cpyElement => 0x3A
  | .softwareTrap => 0x40
  | .queueFull => 0x7E | .launchForm => 0x80 | .forcedSave => 0x81 | .saveMark => 0x82

/-- CLASS of a kind: 0 replayable, 1 fatal, 2 notice (R361). -/
def FaultKind.cls : FaultKind → Nat
  | .illegalEncoding | .codeEnd | .vregUndeclared | .unitUnheld | .privilege | .queueFull => 1
  | .braidShare | .launchForm | .forcedSave | .saveMark => 2
  | _ => 0

/-- The 64 bytes of a record (R361). -/
def TrapRec.bytes (r : TrapRec) (seq : Nat) : List Byte :=
  leBytes 64 (seq % 2 ^ 32 + 2 ^ 40 * r.kind.code + 2 ^ 48 * r.kind.cls + (if r.vector then 2 ^ 51 else 0) +
    2 ^ 52 * (r.widx % 4) + 2 ^ 54 * (r.slot % 4) + 2 ^ 56 * (r.unit % 256) + 2 ^ 64 * r.resume.toNat +
    2 ^ 128 * r.elem.toNat + 2 ^ 192 * r.addr.toNat + 2 ^ 256 * r.req.toNat + 2 ^ 320 * (r.detail % 2 ^ 192))

/-- What came of a record (R359, R362). -/
inductive Posting where
  /-- Written, or kept in the trap registers because no queue is registered: its bytes, and whether it is fatal. -/
  | made (bytes : List Byte) (fatal : Bool)
  | dropped
  | overflow
  deriving DecidableEq, Repr

/-- Replaces a trap queue's entry. -/
def State.setTrapq (s : State) (q : TrapQueue) : State :=
  { s with trapqs := s.trapqs.map fun u => if u.q = q.q then q else u }

/-- BASE and LGN of a trap queue as its descriptor holds them (R359). -/
def State.trapBase (s : State) (q : TrapQueue) : Nat := s.hwRead q.addr 8
def State.trapLgn (s : State) (q : TrapQueue) : Nat := s.hwRead (q.addr + 24) 1 % 16

/-- Writes a record into a registered queue and advances WR (R360). -/
def State.appendTrap (s : State) (q : TrapQueue) (r : TrapRec) : State × List Byte :=
  let b := r.bytes q.seq
  let s := s.hwWrite (s.trapBase q + 64 * (q.wr % 2 ^ s.trapLgn q)) b
  let wr := (q.wr + 1) % 2 ^ 64
  let s := s.hwWrite (q.addr + 8) (leBytes 8 wr)
  (s.setTrapq { q with wr := wr, seq := (q.seq + 1) % 2 ^ 32 }, b)

/-- R362 and R359: where a record goes. -/
def State.postTrap (s : State) (qn : Nat) (r : TrapRec) : State × Posting :=
  match s.trapqs.find? fun q => q.q = qn && s.trapBase q ≠ 0 with
  | none => if r.kind.cls = 2 then (s, .dropped) else (s, .made (r.bytes 0) (r.kind.cls = 1))
  | some q =>
    let n := 2 ^ s.trapLgn q
    let o := (q.wr + 2 ^ 64 - s.hwRead (q.addr + 16) 8) % 2 ^ 64
    if o + 1 < n || (r.kind.cls = 1 && o < n) then
      let (s, b) := s.appendTrap q r
      (s, .made b (r.kind.cls = 1))
    else if r.kind.cls = 0 && o + 1 = n then
      let (s, b) := s.appendTrap q { r with kind := .queueFull, detail := r.kind.code }
      (s, .made b true)
    else if r.kind.cls = 2 && o + 1 = n then
      let d := (q.dropn + 1) % 2 ^ 32
      let s := s.hwWrite (q.addr + 25) (leBytes 4 d)
      (s.setTrapq { q with dropn := d }, .dropped)
    else
      (s.hwWrite (q.addr + 24) (leBytes 1 (s.hwRead (q.addr + 24) 1 ||| 0x80)), .overflow)

/-- DETAIL of a CPY-ELEMENT or STK-ELEMENT record: the cause in [7:0], the index in [127:64] (R361). -/
def Posted.detail (p : Posted) : Nat := p.cause % 256 + 2 ^ 64 * p.index.toNat

/-- A posted engine fault counts as taken once its record is made (R361). -/
def Strand.takePosted (t : Strand) (r : TrapRec) : Strand :=
  match r.kind, r.posted with
  | .stkElement, some p => { t with postedStk := t.postedStk.erase p }
  | .cpyElement, some p => { t with postedCpy := t.postedCpy.erase p }
  | _, _ => t

/-- The convoy that issues next begins at another address. -/
def Strand.setVpc (t : Strand) (vpc : Word) : Strand :=
  match t.queue with
  | q :: qs => { t with queue := { q with vpc := vpc } :: qs }
  | [] => t

/-- A convoy that has issued completes: VPC stands past it (R210). Its tags are disarmed beside it (`State.disarmAll`). -/
def Strand.completed (t : Strand) : Strand :=
  match t.issued with
  | some next => { t.setVpc next with issued := none, disarms := [] }
  | none => t

/-- Confirmed early reads are read again by a block that did not issue before a trap, a cut or a save (R210, R305). -/
def Strand.dropReads (t : Strand) : Strand := { t with early := none, queue := t.queue.map fun q => { q with early := [] } }

/-- Work that has not issued is discarded, the elements that a parked VWAIT found satisfied among it (R210, R305). -/
def Strand.dropWork (t : Strand) : Strand := { t.dropReads with vwaitDone := [], vwaitAt := 0 }

/-- A record that holds the strand: the issued convoy completes and other work is discarded (R210, R217). The scalar stream
stands where it was: a word that waits goes on waiting unless it is the word that faults (R363). -/
def Strand.holdOn (t : Strand) (h : Held) (vector : Bool) : Strand :=
  let t := t.completed.dropWork
  { t with held := h, timedOut := false,
           parked := if vector && t.parked ≠ .vwait then t.parked else .no }

/-- What a record makes of its strand: the trap registers keep a copy (R364); a notice leaves it running, any other record holds it
(R363); at O = N a record of any class holds it and is written nowhere (R362). -/
def Strand.recorded (t : Strand) (r : TrapRec) : Posting → Strand
  | .made b f =>
    let t := { t with trec := b, tcount := t.tcount + 1 }
    if r.kind.cls = 2 then t else t.holdOn (if f then .fatal else .replayable r.resume r.vector) r.vector
  | .dropped => t
  | .overflow => t.holdOn .fatal r.vector

/-- Every store, atomic and move that a strand issued is performed, as far as it can be now (R201, R360). -/
def State.finishStrand (s : State) (t : Strand) : State :=
  let own := s.moves.filter fun m => m.path ≠ farPath && m.owner.core = t.core && m.owner.slot = t.slot && m.owner.serial = t.serial
  (own.foldl (fun s m => s.settleLine m.line) (s.drainStrand t.core t.slot)).drainStrand t.core t.slot

/-- A store, atomic or move of a strand still waits for a module that can't be reached or for the host (R380, R383). Work of its
engines is no store that it issued. -/
def State.unfinished (s : State) (t : Strand) : Bool := s.stillHeld t.core t.slot fun o => o.path ≤ 5

/-- Tags of chamber slots are disarmed: the convoy that read them retires (R224). -/
def State.disarmAll (s : State) (tags : List Nat) : State := tags.foldl (fun s t => s.putBytes (t + 14) [0]) s

/-- A record of a strand whose stores are performed. A record that holds it completes its issued convoy. -/
def State.trapRecord (s : State) (t : Strand) (r : TrapRec) : State × Strand :=
  let r := { r with req := t.req, unit := t.logical, slot := t.slot }
  let (s, p) := s.postTrap t.logical r
  let u := (t.takePosted r).recorded r p
  (if u.issued = none then s.disarmAll t.disarms else s, u)

/-- A record that waits (R360, R365). -/
def State.deferRecord (s : State) (core : Nat) (r : TrapRec) : State :=
  let k := s.core core
  s.setCore core { k with lateRecs := k.lateRecs ++ [r] }

/-- A notice for a placed strand: what it issued is performed first (R360), and until then the record waits. -/
def State.trapStrand (s : State) (t : Strand) (r : TrapRec) : State :=
  let s := s.finishStrand t
  if s.unfinished t then s.deferRecord t.core r
  else
    let (s, t) := s.trapRecord t r
    s.setStrand t

/-- TAKING AN EXCEPTION: the one operation by which a word of the executing strand faults. `resume` is the word or convoy
that runs first after TRET action 0 (R361). The program counter and VPC stay where they are (R90, R363). What still waits for
another module is no fault yet (R383), and no record is made while a store that the strand issued is not performed: the word is
issued again (R360). -/
def State.takeTrap (s : State) (f : FaultInfo) (resume : Word) (vector : Bool) (widx : Nat) : State :=
  if f.waits then s
  else
    let u := s.finishStrand s.me
    if u.unfinished s.me then { u with me := s.me }
    else
      let (u, t) := u.trapRecord s.me { kind := f.kind, elem := f.elem, addr := f.addr, detail := f.detail,
                                        resume := resume, vector := vector, widx := widx, posted := f.posted }
      { u with me := t }

/-- RETURNING FROM ONE: TRET action 0 (R363). A scalar record resumes at RESUME; a convoy's VPC already stands there. -/
def Strand.resumed (t : Strand) : Strand :=
  match t.held with
  | .replayable resume false => { t with held := .no, pc := resume }
  | .replayable _ true => { t with held := .no }
  | _ => t

/-- A record for the system controller's queue (R361). -/
def State.notice (s : State) (r : TrapRec) : State := (s.postTrap 240 r).1

/-! ## The frame of a scalar word (R90, R91, R207) -/

/-- FAULT(kind, address). -/
def fault {α : Type} (k : FaultKind) (addr : Word) (elem : Word := allOnes) (detail : Nat := 0) : Except Stop α :=
  .error (.fault { kind := k, elem := elem, addr := addr, detail := detail })

/-- ILLEGAL() at the executing word (R12). -/
def State.illegal {α : Type} (s : State) : Except Stop α := fault .illegalEncoding s.me.pc

/-- Lifts the faults of an access. -/
def orFault {α : Type} : Except FaultInfo α → Except Stop α
  | .ok a => .ok a
  | .error f => .error (.fault f)

/-- A scalar word: it waits while a queued block owns one of its registers; then `pre` lets work finish that the word waits
for; a fault leaves the rest as it was and takes the trap; a wait leaves it as it was. -/
def scalarAfter (regs : List Reg) (pre : State → State) (f : State → Except Stop State) (s : State) : Result :=
  if s.me.stalled regs then .next s
  else
    match f (pre s) with
    | .ok t => .next t
    | .error .wait => .next (pre s)
    | .error (.fault i) => .next ((pre s).takeTrap i s.me.pc false 0)

/-- A scalar word that waits for no such work. -/
def scalarStep (regs : List Reg) (f : State → Except Stop State) (s : State) : Result := scalarAfter regs id f s

/-- A scalar word that only writes a register. -/
def scalarWrite (regs : List Reg) (d : Reg) (v : State → Word) (s : State) : Result :=
  scalarStep (d :: regs) (fun s => .ok (s.xset d (v s)).advance) s

/-- Waits until every block fetched earlier has retired (R182, R208). -/
def State.blocksDone (s : State) : Except Stop Unit := if s.me.queue = [] then .ok () else .error .wait

/-- Requires a privileged strand (R183). -/
def State.privileged (s : State) : Except Stop Unit :=
  if s.me.priv then .ok () else fault .privilege s.me.pc

/-- Firmware runs: the image that R388 let run (R389). -/
def State.firmware (s : State) : Bool := s.controller.image.isSome

/-- An act of firmware: nothing while no image runs (R386, R389). -/
def firmwareStep (f : State → State) (s : State) : Result := .next (if s.firmware then f s else s)

/-- A fresh serial number (the model's own, log 13). -/
def State.fresh (s : State) : State × Nat := ({ s with nextSerial := s.nextSerial + 1 }, s.nextSerial)

end Sys2Proof.Machine
end

