-- ==== Sys2Proof/Machine/Rings.lean ====
section
/-! DEFINITION. Trace rings (R331 to R334) and capture rings (R366). -/
namespace Sys2Proof.Machine

/-- A registered ring; none if its BASE is 0. -/
def State.ring (s : State) (id : RingId) : Option Ring := s.rings.find? fun r => r.id = id && r.base ≠ 0

def State.setRing (s : State) (r : Ring) : State :=
  { s with rings := s.rings.map fun u => if u.id = r.id then r else u }

/-- A trace record (R332). -/
structure TraceRec where
  payload : Word
  code : Nat
  unit : Nat
  slot : Nat := 0
  req : Word := 0
  ns : Word
  frac : Nat
  unl : Bool
  deriving DecidableEq, Repr

def TraceRec.bytes (r : TraceRec) : List Byte :=
  leBytes 32 (r.ns.toNat + (if r.unl then 2 ^ 95 else 0) + r.frac % 2 ^ 32 * 2 ^ 96 + r.req.toNat % 2 ^ 32 * 2 ^ 128 +
    r.slot % 4 * 2 ^ 166 + r.unit % 256 * 2 ^ 168 + r.code % 65536 * 2 ^ 176 + r.payload.toNat * 2 ^ 192)

/-- A record stamped now (R333). -/
def State.traceNow (s : State) (payload : Word) (code unit slot : Nat) (req : Word) : TraceRec :=
  { payload := payload, code := code, unit := unit, slot := slot, req := req, ns := s.ptpNs, frac := s.ptpFrac.toNat,
    unl := !s.lock }

/-- LOCK as it was when the clock stood at a time: as the first change after that time found it (R332). -/
def State.lockAt (s : State) (ns : Nat) : Bool :=
  match s.lockLog.find? fun e => ns < e.1 with
  | some e => e.2
  | none => s.lock

/-- A record with a given stamp (R333). -/
def State.traceAt (s : State) (ns : Nat) (payload : Word) (code unit : Nat) (req : Word) : TraceRec :=
  { payload := payload, code := code, unit := unit, req := req, ns := BitVec.ofNat 64 ns, frac := 0, unl := !s.lockAt ns }

/-- The DROP record that takes the place of the two oldest (R334). -/
def dropRecord (s : State) (a : Nat) : List Byte :=
  let old := s.hwRead a 32
  if bits old 176 16 = 0x8001 then leBytes 32 (old % 2 ^ 192 + (bits old 192 64 + 1) % 2 ^ 64 * 2 ^ 192)
  else
    -- the oldest record's stamp, UNIT, FRAC and UNL; SLOT and REQ 0; the count
    leBytes 32 (old % 2 ^ 64 + bits old 95 1 * 2 ^ 95 + bits old 96 32 * 2 ^ 96 + bits old 168 8 * 2 ^ 168 +
      0x8001 * 2 ^ 176 + 2 * 2 ^ 192)

/-- APPEND (R334). -/
def State.appendTrace (s : State) (id : RingId) (r : TraceRec) : State :=
  match s.ring id with
  | none => s
  | some g =>
    let n := 2 ^ g.lgn
    let rd := s.hwRead (g.addr + 16) 8
    let at_ := fun i => g.base + 32 * (i % n)
    let s :=
      if (g.wr + 2 ^ 64 - rd) % 2 ^ 64 = n then
        let s := s.hwWrite (at_ (rd + 1)) (dropRecord s (at_ rd))
        s.hwWrite (g.addr + 16) (leBytes 8 ((rd + 1) % 2 ^ 64))
      else s
    let s := s.hwWrite (at_ g.wr) r.bytes
    let wr := (g.wr + 1) % 2 ^ 64
    (s.hwWrite (g.addr + 8) (leBytes 8 wr)).setRing { g with wr := wr }

/-- CAP and RPL in effect (R203). -/
def State.capturing (s : State) : Bool := s.capture.getLsbD 0
def State.replaying (s : State) : Bool := s.capture.getLsbD 1

/-- A capture record (R366): TYPE, KEY, PART, UNIT, SLOT, 104 bytes of DATA. -/
def captureBytes (scc : Word) (typ key part unit slot : Nat) (data : List Byte) : List Byte :=
  leBytes 128 (slot % 4 * 2 ^ 42 + unit % 256 * 2 ^ 44 + part % 16 * 2 ^ 52 + typ * 2 ^ 56 + scc.toNat * 2 ^ 64 +
    key % 2 ^ 64 * 2 ^ 128 + leNat (data.take 104) * 2 ^ 192)

/-- Appends a capture record while CAP is 1. A ring that this record would fill takes an END record instead, and the
capture stops (R366). -/
def State.appendCapture (s : State) (id : RingId) (typ key part unit slot : Nat) (data : List Byte) : State :=
  if !s.capturing then s
  else match s.ring id with
    | none => s
    | some g =>
      let n := 2 ^ g.lgn
      let used := (g.wr + 2 ^ 64 - s.hwRead (g.addr + 16) 8) % 2 ^ 64
      let off := { s with capture := s.capture &&& 2 }
      if used ≥ n then off
      else
        let last := used + 1 = n
        let s := if last then off else s
        let b := captureBytes s.scc (if last then 0xFF else typ) key part unit slot (if last then [] else data)
        let s := s.hwWrite (g.base + 128 * (g.wr % n)) b
        let wr := (g.wr + 1) % 2 ^ 64
        (s.hwWrite (g.addr + 8) (leBytes 8 wr)).setRing { g with wr := wr }

/-- The next captured record that a test selects, from a position in a ring on and below WR as the descriptor holds it, with the
position after it; none past an END record (R367). -/
def State.replayFrom (s : State) (g : Ring) (p : Nat → Bool) : Nat → Nat → Option (Nat × Nat)
  | 0, _ => none
  | k + 1, i =>
    if s.hwRead (g.addr + 8) 8 ≤ i then none
    else
      let v := s.hwRead (g.base + 128 * (i % 2 ^ g.lgn)) 128
      if bits v 56 8 = 0xFF then none
      else if p v then some (v, i + 1)
      else s.replayFrom g p k (i + 1)

/-- The same from where the replay of a kind of record stands: not before RD. -/
def State.replayNext (s : State) (g : Ring) (key : Nat) (p : Nat → Bool) : Option (Nat × Nat) :=
  s.replayFrom g p (2 ^ g.lgn) (Nat.max (assocGet 0 s.replayAt key) (s.hwRead (g.addr + 16) 8))

end Sys2Proof.Machine
end

