-- ==== Sys2Proof/Machine/Engines.lean ====
section
/-! DEFINITION. What the copy engines (R188 to R190) and the stack engines (R154, R181) do with a command they hold: every
element or row once, faults posted to the strand (R251). Issue stands with the words that start the commands. -/
namespace Sys2Proof.Machine

/-! ## Accesses of an engine -/

/-- The physical address that the command's probe found for a virtual address (R315). -/
def Command.pa (c : Command) (va : Word) : Nat :=
  assocGet 0 c.pages (va.toNat / 65536) + va.toNat % 65536

/-- A byte read by an engine: the cause it meets instead (R154, R188). A module that can't be reached gives POISON (R383). -/
def State.engineByte (s : State) (pa : Nat) : Except FaultKind Byte :=
  match s.resolve pa with
  | .error f => .error f.kind
  | .ok r =>
    match s.farTether r with
    | some f => .error f.kind
    | none =>
      if (s.refusing r .read .read).isSome then .error .remoteDenied
      else if s.badLine r.pa || s.silent r.pa then .error .poison else .ok (s.byte r.pa)

def State.engineBytes (s : State) (pa : Nat → Nat) : Nat → Except FaultKind (List Byte)
  | 0 => .ok []
  | n + 1 =>
    match s.engineBytes pa n, s.engineByte (pa n) with
    | .ok bs, .ok b => .ok (bs ++ [b])
    | .error f, _ => .error f
    | _, .error f => .error f

/-- n bytes from a virtual address. -/
def State.engineRead (s : State) (c : Command) (va : Word) (n : Nat) : Except FaultKind (List Byte) :=
  s.engineBytes (fun j => c.pa (va + BitVec.ofNat 64 j)) n

/-- Where an engine's write of one element ends. A hop of the stack engines to another module is checked there as a read, one of
other engines as the write it carries (R338). -/
def State.engineDest (s : State) (hop : Acc) (pa : Nat) : Except FaultKind Resolved :=
  match s.resolve pa with
  | .error f => .error f.kind
  | .ok r =>
    match s.farTether r with
    | some f => .error f.kind
    | none => if (s.refusing r hop .write).isSome then .error .remoteDenied else .ok r

/-- An engine's read waits: its port delays it (R382, R384), writes to its module go before it (R383), a write to the slow tier is on
its way (R380), or a write of the same path is held at its line (R255). A module out of reach gives POISON instead (R383). -/
def State.readDelayed (s : State) (path pa : Nat) : Bool :=
  s.heldWrites.any (fun h => h.entry.path = path && h.line = lineOf pa) ||
  match s.region pa with
  | .remote m => s.reachable m && !s.portOpen m
  | _ => s.slowPending pa

/-- The 128 bytes of a line are all among the writes of one word or command (R141). -/
def covers (ws : List (Nat × Nat)) (line : Nat) : Bool :=
  (List.range 128).all fun j => ws.any fun w => w.1 ≤ line + j && line + j < w.1 + w.2

/-- Performs the writes of one command or word in order. The last one to a poisoned line that they cover together heals it (R141,
R347). -/
def State.performWrites (s : State) (o : Origin) (heal : List Nat) : List (Resolved × List Byte) → State
  | [] => s
  | w :: ws =>
    let last := heal.contains (lineOf w.1.pa) && !ws.any fun v => lineOf v.1.pa = lineOf w.1.pa
    (s.sendNow w.1.pa (full w.2) last { o with via := w.1.via }).performWrites o heal ws

def State.performCommand (s : State) (o : Origin) (ws : List (Resolved × List Byte)) : State :=
  let spans := ws.map fun w => (w.1.pa, w.2.length)
  let lines := (ws.map fun w => lineOf w.1.pa).eraseDups
  s.performWrites o (lines.filter fun l => s.poisoned l && covers spans l) ws

/-- Whose writes the engine makes (R232). -/
def Owner.origin (o : Owner) (path colour : Nat) : Origin := { core := some o.core, slot := o.slot, path := path, colour := colour }

/-! ## Posted faults -/

/-- Posts STK-ELEMENT or CPY-ELEMENT to the strand that issued the command, if it still holds its slot: one fault for a command,
that of its least faulting element (log 99). -/
def State.post (s : State) (o : Owner) (cpy : Bool) (p : Posted) : State :=
  match s.strandAt o.core o.slot with
  | some t =>
    if t.serial ≠ o.serial then s
    else if cpy then s.setStrand { t with postedCpy := t.postedCpy ++ [p] }
    else s.setStrand { t with postedStk := t.postedStk ++ [p] }
  | none => s

/-! ## Copy-engine commands -/

/-- A field of a 64-byte record. -/
def recField (r : List Byte) (lo n : Nat) : Nat := bits (leNat r) lo n
def recWord (r : List Byte) (lo : Nat) : Word := BitVec.ofNat 64 (recField r lo 64)

/-- One element that a copy-engine command writes: index, destination, source (none for padding). -/
structure Element where
  index : Nat
  dst : Word
  src : Option Word
  deriving DecidableEq, Repr

/-- Elements of XUNFOLD (R189). -/
def unfoldElements (r : List Byte) : List Element :=
  let src := recWord r 448
  let dst := recWord r 384
  let hs := recField r 352 32
  let ws := recField r 320 32
  let drs := recField r 288 32
  let hh := recField r 272 16
  let ww := recField r 256 16
  let cc := recField r 240 16
  let oh := recField r 224 16
  let ow := recField r 208 16
  let kh := recField r 204 4 + 1
  let kw := recField r 200 4 + 1
  let sh := recField r 196 4 + 1
  let sw := recField r 192 4 + 1
  let dh := recField r 188 4 + 1
  let dw := recField r 184 4 + 1
  let pt := recField r 180 4
  let pl := recField r 176 4
  let e := 2 ^ recField r 174 2
  let q := kh * kw * cc
  (List.range (oh * ow * q)).map fun n =>
    let p := n / q
    let k := n % q
    let c := k % cc
    let ky := k / cc / kw
    let kx := k / cc % kw
    let ih : Int := (p / ow : Nat) * sh - (pt : Int) + ky * dh
    let iw : Int := (p % ow : Nat) * sw - (pl : Int) + kx * dw
    { index := n, dst := dst + BitVec.ofNat 64 (p * drs + k * e),
      src := if 0 ≤ ih && ih < hh && 0 ≤ iw && iw < ww then
               some (src + BitVec.ofNat 64 (ih.toNat * hs + iw.toNat * ws + c * e)) else none }

/-- Extents N0 to N6 and PERM of XTRANS (R190). -/
def transDim (r : List Byte) (j : Nat) : Nat := recField r (272 + 16 * j) 16
def transPerm (r : List Byte) (j : Nat) : Nat := recField r (251 + 3 * j) 3
def transNdim (r : List Byte) : Nat := recField r 248 3

/-- Distance in elements of source dimension j: the product of the extents below it. -/
def transStride (r : List Byte) : Nat → Nat
  | 0 => 1
  | j + 1 => transStride r j * transDim r j

/-- Source offset of the destination element n: its coordinates by destination extents, placed by PERM. -/
def transOffset (r : List Byte) : (dims j n : Nat) → Nat
  | 0, _, _ => 0
  | k + 1, j, n =>
    let d := transPerm r j
    n % transDim r d * transStride r d + transOffset r k (j + 1) (n / transDim r d)

/-- Elements of XTRANS (R190). -/
def transElements (r : List Byte) : List Element :=
  let e := 2 ^ recField r 246 2
  let nd := transNdim r
  (List.range (transStride r nd)).map fun n =>
    { index := n, dst := recWord r 384 + BitVec.ofNat 64 (n * e),
      src := some (recWord r 448 + BitVec.ofNat 64 (transOffset r nd 0 n * e)) }

/-- Element size of a command. -/
def copyUnit (c : Command) : Nat :=
  match c.kind with
  | .xunfold => 2 ^ recField c.recd 174 2
  | _ => 2 ^ recField c.recd 246 2

def copyElements (c : Command) : List Element :=
  match c.kind with
  | .xunfold => unfoldElements c.recd
  | .xtrans => transElements c.recd
  | _ => []

/-- The chamber slots that a command's destination overlaps (R223). -/
def State.destSlots (s : State) (c : Command) : List Nat :=
  ((copyElements c).filterMap fun e => s.slotTag (c.pa e.dst)).eraseDups

/-- The chamber slots that a command's source overlaps (R223, R224). -/
def State.srcSlots (s : State) (c : Command) : List Nat :=
  ((copyElements c).filterMap fun e => e.src.bind fun a => s.slotTag (c.pa a)).eraseDups

/-- The write of one element, or the cause that keeps it from being written. -/
def State.copyOne (s : State) (c : Command) (e : Element) : Except FaultKind (Resolved × List Byte) :=
  let n := copyUnit c
  let v : Except FaultKind (List Byte) := match e.src with
    | none => .ok (leBytes n 0)
    | some a => s.engineRead c a n
  match v, s.engineDest .write (c.pa e.dst) with
  | .ok b, .ok d => .ok (d, b)
  | .error f, _ => .error f
  | _, .error f => .error f

/-- Reads of the slow tier that a list of accesses asks the host for (R380). -/
def State.askSlow (s : State) (pas : List Nat) : State :=
  ((pas.filter fun pa => s.region pa = .slow).map fun pa => pa / 64 * 64).eraseDups.foldl (fun s l => s.request .rdCurr l) s

/-- Runs a command of a copy engine to its end. Source and destination don't overlap, so the elements are independent. -/
def State.runCopy (s : State) (c : Command) : State :=
  let rs := (copyElements c).map fun e => (e.index, s.copyOne c e)
  let ws := rs.filterMap fun r => match r.2 with | .ok w => some w | .error _ => none
  let bad := rs.filterMap fun r => match r.2 with | .ok _ => none | .error f => some (r.1, f)
  let slots := s.destSlots c
  let s := s.askSlow ((copyElements c).filterMap fun e => e.src.map fun a => s.follow (c.pa a))
  let s := s.performCommand (c.owner.origin cpyPath c.colour) ws
  match bad.head? with
  | none => s
  | some (i, f) => s.post c.owner true { cause := f.code, index := BitVec.ofNat 64 i, slots := slots }

/-! ## Stack-engine commands -/

/-- Bytes of an element in memory; a 4-bit element is reached through its byte. -/
def elemBytes (fmt : Nat) : Nat := if ew fmt = 4 then 1 else ew fmt / 8

/-- The bytes of an element as a word writes them: bits [15:9] of an S9 element are 0 (R45). -/
def writtenBytes (fmt : Nat) (bs : List Byte) : List Byte := if fmt = 18 then leBytes 2 (leNat bs % 512) else bs

/-- One element of a gather (R154). -/
def State.gatherOne (s : State) (fmt : Nat) (e : Nat × Nat × Nat) : Except FaultKind (Resolved × List Byte) :=
  match s.engineBytes (fun j => e.2.1 + j) (elemBytes fmt), s.engineDest .read e.2.2 with
  | .ok b, .ok d => .ok (d, writtenBytes fmt b)
  | .error f, _ => .error f
  | _, .error f => .error f

/-- One output row of SEMV (R63, R181): its destination and F32 value. The model's choice (log 104): a table that is no
permutation is used as it stands and posts nothing, as R181 gives the engine no SD-FORM. -/
def State.semvRow (s : State) (c : Command) (row : Nat) : Except FaultKind (Resolved × List Byte) :=
  let r := c.recd
  let b := 2 ^ recField r 320 2
  let g := recField r 256 32
  let stride := 20 + 18 * b
  let q := row / b
  let at_ := fun (base : Nat) (o : Nat) => recWord r base + BitVec.ofNat 64 o
  let start : Except FaultKind Nat :=
    if recField r 322 1 = 1 then
      match s.engineRead c (at_ 192 (4 * row)) 4 with
      | .ok v => .ok (leNat v)
      | .error f => .error f
    else .ok 0
  let step := fun (acc : Except FaultKind Nat) (j : Nat) =>
    let w := (q * g + j) * stride
    match acc, s.engineRead c (at_ 0 w) 20, s.engineRead c (at_ 0 (w + 20 + 18 * (row % b))) 18,
        s.engineRead c (at_ 64 (32 * j)) 32, s.engineRead c (at_ 128 (4 * j)) 4 with
    | .ok out, .ok perm, .ok rowb, .ok act, .ok asc =>
      let p := leNat perm
      let xs := (List.range 32).map fun k => sx (act.getD (permEntry p k) 0).toNat 8
      let t := fun k => (xs.drop (k - 1)).foldl (· + ·) 0
      let rv := leNat rowb
      .ok (f32Add out (sdScaled (sdAcc (1 < b) rv t) (rowScale rv) (fpDecode 10 (leNat asc))))
    | .error f, _, _, _, _ => .error f
    | _, .error f, _, _, _ => .error f
    | _, _, .error f, _, _ => .error f
    | _, _, _, .error f, _ => .error f
    | _, _, _, _, .error f => .error f
  match (List.range g).foldl step start, s.engineDest .read (c.pa (at_ 192 (4 * row))) with
  | .ok v, .ok d => .ok (d, leBytes 4 v)
  | .error f, _ => .error f
  | _, .error f => .error f

/-- The first address in each line of n bytes. -/
def lineStarts (first : Word) (n : Nat) : List Word :=
  if n = 0 then []
  else
    let o := first.toNat % 128
    (List.range ((o + n + 127) / 128)).map fun k => if k = 0 then first else first + BitVec.ofNat 64 (128 * k - o)

/-- Final lines that a command's ranges of virtual addresses reach. -/
def State.rangeLines (s : State) (c : Command) (l : List (Word × Nat)) : List Nat :=
  l.flatMap fun r => (lineStarts r.1 r.2).map fun va => lineOf (s.follow (c.pa va))

/-- Ranges of a SEMV record: weights, activations, scales, outputs (R181). -/
def semvRanges (r : List Byte) : List (Word × Nat) :=
  let b := 2 ^ recField r 320 2
  let n := recField r 288 32
  let g := recField r 256 32
  [(recWord r 0, n / b * g * (20 + 18 * b)), (recWord r 64, 32 * g), (recWord r 128, 4 * g), (recWord r 192, 4 * n)]

/-- Final lines that a command of the stack engines reads or writes. -/
def State.commandLines (s : State) (c : Command) : List Nat :=
  match c.kind with
  | .gather _ els => els.flatMap fun e => [lineOf (s.follow e.2.1), lineOf (s.follow e.2.2)]
  | .semv => s.rangeLines c (semvRanges c.recd)
  | _ => []

/-- Runs a command of the stack engines to its end. -/
def State.runStack (s : State) (c : Command) : State :=
  let rs : List (Nat × Except FaultKind (Resolved × List Byte)) :=
    match c.kind with
    | .gather fmt els => els.map fun e => (e.1, s.gatherOne fmt e)
    | .semv => (List.range (recField c.recd 288 32)).map fun row => (row, s.semvRow c row)
    | _ => []
  let ws := rs.filterMap fun r => match r.2 with | .ok w => some w | .error _ => none
  let bad := rs.filterMap fun r => match r.2 with | .ok _ => none | .error f => some (r.1, f)
  let s := (s.askSlow (s.commandLines c)).performCommand (c.owner.origin stkPath c.colour) ws
  match bad.head? with
  | none => s
  | some (i, f) => s.post c.owner false { cause := f.code, index := BitVec.ofNat 64 i }

/-! ## Queues -/

def State.copyQueue (s : State) (cluster : Nat) : List Command := assocGet [] s.copyq cluster

/-- A command of a copy engine must wait for one of its reads. -/
def State.copyDelayed (s : State) (c : Command) : Bool :=
  (copyElements c).any fun e => e.src.any fun a => s.readDelayed cpyPath (s.follow (c.pa a))

/-- The oldest command of a copy engine runs (R188). -/
def State.stepCopy (s : State) (cluster : Nat) : State :=
  match s.copyQueue cluster with
  | [] => s
  | c :: cs => if s.copyDelayed c then s else { s with copyq := assocSet s.copyq cluster cs }.runCopy c

def State.stepCopies (s : State) (cluster : Nat) : Nat → State
  | 0 => s
  | n + 1 => (s.stepCopy cluster).stepCopies cluster n

/-- The commands up to the last that a test selects run. -/
def State.settleCopies (s : State) (cluster : Nat) (p : Command → Bool) : State :=
  let n := (s.copyQueue cluster).zipIdx.foldl (fun a e => if p e.1 then e.2 + 1 else a) 0
  s.stepCopies cluster n

/-- A command of the stack engines must wait for one of its reads. -/
def State.stackDelayed (s : State) (c : Command) : Bool :=
  match c.kind with
  | .gather _ els => els.any fun e => s.readDelayed stkPath (s.follow e.2.1)
  | _ => (s.commandLines c).any fun l => s.readDelayed stkPath l

/-- A command must wait for an earlier one of its strand that reaches one of its lines (R233; log 109). -/
def State.mustFollow (s : State) (c : Command) (earlier : List Command) : Bool :=
  (earlier.filter fun d => d.owner = c.owner).any fun d => (s.commandLines d).any fun l => (s.commandLines c).contains l

/-- One command of the stack engines runs (R154, R181). -/
def State.stepStack (s : State) (k : Nat) : State :=
  match s.stackq[k]? with
  | none => s
  | some c =>
    if s.mustFollow c (s.stackq.take k) || s.stackDelayed c then s else { s with stackq := s.stackq.eraseIdx k }.runStack c

/-- Every selected command of the stack engines runs, in the order of issue, up to the first that must wait. -/
def State.settleStacksBy (s : State) (p : Command → Bool) : State :=
  (s.stackq.filter p).foldl (fun s c =>
    match s.stackq.find? p with
    | some d => if d = c && !s.stackDelayed c then State.runStack { s with stackq := s.stackq.erase c } c else s
    | none => s) s

def State.settleStacks (s : State) (o : Owner) : State := s.settleStacksBy fun c => c.owner = o

/-- The strand that is an owner. -/
def Strand.owner (t : Strand) : Owner := ⟨t.core, t.slot, t.serial⟩

/-- A command of the strand still waits in a queue of the engines. -/
def State.enginesBusy (s : State) (t : Strand) : Bool :=
  (s.copyQueue (clusterOf t.core)).any (fun c => c.owner = t.owner) || s.stackq.any fun c => c.owner = t.owner

/-- Every CPY and STK command of a strand finishes (R303, R306). -/
def State.settleEngines (s : State) (t : Strand) : State :=
  (s.settleCopies (clusterOf t.core) fun c => c.owner = t.owner).settleStacks t.owner

end Sys2Proof.Machine
end

