-- ==== Sys2Proof/Machine/Operands.lean ====
section
/-! DEFINITION. Operand forms: scalar immediates and addresses (R17, R93, R94), and what a vector word reads and writes: the
values captured at its VFETCH (R41, R91), register images and groups (R27, R28), masks (R30) and displacements (R134). -/
namespace Sys2Proof.Machine

/-! ## Scalar operands -/

/-- SX(imm, 16) and ZX(imm, 16). -/
def sx16 (i : BitVec 16) : Word := i.signExtend 64
def zx16 (i : BitVec 16) : Word := i.zeroExtend 64

/-- Target of a branch and of a jump (R17). -/
def State.branchTo (s : State) (o : BitVec 16) : Word := s.me.pc + 4 * o.signExtend 64
def State.jumpTo (s : State) (o : BitVec 21) : Word := s.me.pc + 4 * o.signExtend 64

/-- EA of a scalar memory word (R94). -/
def State.ea (s : State) (a : Reg) (i : BitVec 16) : Word := s.xget a + sx16 i

/-! ## What a block sees (R41, R91, R207) -/

/-- The surroundings of a vector word: control values and scalar registers as its block sees them, the address of the word,
and the first serial number of the stores of its convoy. -/
structure VCtx where
  ctl : Ctl
  regs : Vector Word 32
  addr : Word
  convoy : Nat
  /-- The convoy issues now and retires later, which is when ARM becomes 0 for the slots it reads (R224). -/
  later : Bool := false
  deriving DecidableEq, Repr

/-- Scalar registers of a queue entry, as they stood at its VFETCH (R91). A direct entry lists every register. -/
def capsOf (q : QEntry) : Vector Word 32 :=
  q.caps.foldl (fun v c => if h : c.1 < 32 then v.set c.1 c.2 else v) (Vector.replicate 32 0)

def VCtx.x (c : VCtx) (r : BitVec 6) : Word :=
  if r = 0 then 0 else if h : r.toNat < 32 then c.regs[r.toNat] else 0

def VCtx.vl (c : VCtx) : Nat := c.ctl.vl.toNat
def VCtx.lew (c : VCtx) : Nat := lewOf c.ctl.vtype
def VCtx.nreg (c : VCtx) : Nat := nregOf c.ctl.vtype
def VCtx.rb (c : VCtx) (s : State) : Nat := regBytes s.me.cur c.ctl.vtype

/-- The format code of offsets and strided integers at LEW (R134). -/
def VCtx.ifmt (c : VCtx) : Nat := 2 * vtypeEw c.ctl.vtype

/-- The rounding code that a word's RM resolves to (R13). -/
def VCtx.rm (c : VCtx) (w : VWord) : Nat := if w.rm = 6 then vtypeRm c.ctl.vtype else w.rm.toNat

/-- SRBITS of element i (R55). -/
def VCtx.sr (c : VCtx) (i : Nat) : Nat := srbits c.ctl.seed c.ctl.sbase i

/-! ## Register images (R27, R28) -/

/-- The key of byte b of the image that begins at register r. -/
def vkey (rb r b : Nat) : Nat := 65536 * (r + b / rb) + b % rb

/-- The W bits of element i of the image that begins at register r. -/
def vreadImg (m : Image) (rb r W i : Nat) : Nat :=
  if W = 4 then bits (imgGet m (vkey rb r (i / 2))).toNat (4 * (i % 2)) 4
  else imgNat m (vkey rb r (i * (W / 8))) (W / 8)

def vwriteImg (m : Image) (rb r W i v : Nat) : Image :=
  if W = 4 then
    let k := vkey rb r (i / 2)
    let o := (imgGet m k).toNat
    imgSet m k (BitVec.ofNat 8 (if i % 2 = 0 then o / 16 * 16 + v % 16 else v % 16 * 16 + o % 16))
  else imgPut m (vkey rb r (i * (W / 8))) (leBytes (W / 8) v)

/-- ELEM at a width (R12). -/
def State.vget (s : State) (c : VCtx) (r : BitVec 6) (W i : Nat) : Nat := vreadImg s.me.vregs (c.rb s) r.toNat W i

def State.setVregs (s : State) (m : Image) : State := { s with me := { s.me with vregs := m } }

/-- SETELEM at a width (R12). -/
def State.vset (s : State) (c : VCtx) (r : BitVec 6) (W i v : Nat) : State :=
  s.setVregs (vwriteImg s.me.vregs (c.rb s) r.toNat W i v)

/-- Writes several elements. -/
def State.vsetAll (s : State) (c : VCtx) (r : BitVec 6) (W : Nat) (l : List (Nat × Nat)) : State :=
  s.setVregs (l.foldl (fun m e => vwriteImg m (c.rb s) r.toNat W e.1 e.2) s.me.vregs)

/-! ## S9 elements (R45) -/

/-- What a pattern of a format holds: an S9 element has its value in bits [8:0] of 16, bits [15:9] are ignored when it is read
and zero when it is written. -/
def held (fmt v : Nat) : Nat := if fmt = 18 then v % 512 else v

/-- ELEM at a format (R12). -/
def State.eget (s : State) (c : VCtx) (r : BitVec 6) (fmt i : Nat) : Nat := held fmt (s.vget c r (ew fmt) i)

/-- Writes several elements at a format. -/
def State.esetAll (s : State) (c : VCtx) (r : BitVec 6) (fmt : Nat) (l : List (Nat × Nat)) : State :=
  s.vsetAll c r (ew fmt) (l.map fun e => (e.1, held fmt e.2))

/-! ## Addresses of a vector memory word (R134) -/

/-- SX(FN, 14). -/
def dispOf (w : VWord) : Word := w.fn.signExtend 64

/-- The base with its displacement. -/
def VCtx.base (c : VCtx) (w : VWord) : Word := c.x w.va + dispOf w

/-- off(v, i). -/
def State.voff (s : State) (c : VCtx) (r : BitVec 6) (i : Nat) : Int := sx (s.vget c r c.lew i) c.lew

/-- TRUNC(base + offset, 64). -/
def addOff (b : Word) (o : Int) : Word := b + BitVec.ofInt 64 o

end Sys2Proof.Machine
end

