-- ==== Sys2Proof/Machine/Flags.lean ====
section
/-! DEFINITION. Truth values. The scalar machine has no flag register: its conditions are the branch comparisons (R97). The
vector machine's flags are the mask bits of v0 and of mask destinations (R30, R117), written by comparisons (R123, R152). -/
namespace Sys2Proof.Machine

/-- Bit i of the image of register r. -/
def State.mbit (s : State) (r : BitVec 6) (i : Nat) : Bool :=
  (imgGet s.me.vregs (65536 * r.toNat + i / 8)).getLsbD (i % 8)

/-- MASKED(i) (R12, R30). -/
def State.masked (s : State) (w : VWord) (i : Nat) : Bool := w.m && !s.mbit 0 i

/-- The elements below VL that are not masked, ascending. -/
def State.active (s : State) (c : VCtx) (w : VWord) : List Nat := (List.range c.vl).filter fun i => !s.masked w i

/-- Writes one bit of an image. -/
def setBitImg (m : Image) (r i : Nat) (b : Bool) : Image :=
  let k := 65536 * r + i / 8
  let p : Byte := 1#8 <<< (i % 8)
  imgSet m k (if b then imgGet m k ||| p else imgGet m k &&& ~~~p)

/-- Writes mask bits of register r. -/
def State.msetAll (s : State) (r : BitVec 6) (l : List (Nat × Bool)) : State :=
  s.setVregs (l.foldl (fun m e => setBitImg m r.toNat e.1 e.2) s.me.vregs)

/-- The conditions of VCMP on a float format: EQ, NE, LT, LE, GT, GE, UN, OR (R123). -/
def fcond (cc : Nat) (a b : FVal) : Bool :=
  let un := a.isNaN || b.isNaN
  match cc with
  | 0 => feqB a b
  | 1 => !feqB a b
  | 2 => fltB a b
  | 3 => fltB a b || feqB a b
  | 4 => fltB b a
  | 5 => fltB b a || feqB a b
  | 6 => un
  | _ => !un

/-- The conditions EQ, NE, LT, LE, GT, GE on integers (R123, R152). -/
def icond (cc : Nat) (a b : Int) : Bool :=
  match cc with
  | 0 => a = b
  | 1 => a ≠ b
  | 2 => a < b
  | 3 => a ≤ b
  | 4 => b < a
  | _ => b ≤ a

end Sys2Proof.Machine
end

