-- ==== Sys2Proof/Machine/ScalarMem.lean ====
section
/-! DEFINITION. Scalar loads and stores and the store buffer (R94 to R96, R222 to R226), atomics (R100 to R102), ADDR.EQ (R99),
CLAIM (R112) and the fences (R109 to R111). -/
namespace Sys2Proof.Machine

/-! ## The frame of a scalar memory word -/

/-- Moves that the strand began have committed, and writes of its scalar stream held at a line are performed, before its
next scalar access (R155, R255). -/
def State.settleOwn (s : State) : State :=
  let own := s.moves.filter fun m => m.owner = s.me.owner
  let s := own.foldl (fun s m => s.settleLine m.line) s
  (s.heldWrites.filter fun h => h.core = s.me.core && h.entry.slot = s.me.slot && h.entry.path = 5).foldl
    (fun s h => s.settleLine h.line) s

/-! ## Fences that are not complete (R109 to R111) -/

/-- Work of a key that a queued block still has to do (R207, R110). -/
def QEntry.hasWork (q : QEntry) (key : Nat) : Bool := q.work.any fun w => w.1 = key && q.vpc.toNat ≤ w.2

/-- The keys of the work that a fence waits for. -/
def Debt.keys (d : Debt) : List Nat :=
  ((List.range 8).filter fun k => bits d.colours k 1 = 1) ++ (if d.stk then [8] else []) ++ (if d.vec then [9] else []) ++
    (if d.mat then [10] else [])

/-- Writes of the strand that a fence waits for: scalar and VEC ones of its colours (R110), every VEC or MAT one, the scalar ones
(R109), those of an engine class (R111). -/
def Debt.covers (d : Debt) (path colour : Nat) : Bool :=
  (d.vec && path < 4) || (d.mat && path = 4) || (d.fsv && path = 5) || (d.cpy && path = cpyPath) || (d.stk && path = stkPath) ||
  (d.col && path = colPath) || ((path < 4 || path = 5) && bits d.colours colour 1 = 1)

/-- A fence's earlier side has work that has not issued in a block, or a collective that has not finished. -/
def State.owes (s : State) (d : Debt) : Bool :=
  (s.me.queue.take d.blocks).any (fun q => d.keys.any q.hasWork) ||
  d.cols.any fun n => s.collectives.any fun c => c.ticket = n && c.status = none

/-- A command that the strand issued before a fence; while blocks fetched before the fence are queued, what they issue is before it
too. -/
def Debt.precedes (d : Debt) (o : Owner) (c : Command) : Bool := c.owner = o && (0 < d.blocks || c.step < d.before)

/-- Commands of a fence's earlier side still wait in the queues of the engines. -/
def State.engineOwes (s : State) (d : Debt) : Bool :=
  (d.cpy && (s.copyQueue (clusterOf s.me.core)).any (d.precedes s.me.owner)) ||
  (d.stk && s.stackq.any (d.precedes s.me.owner))

/-- The fence's earlier side is not complete and performed. -/
def State.unpaid (s : State) (d : Debt) : Bool :=
  s.owes d || s.engineOwes d || s.stillHeld s.me.core s.me.slot fun o => d.covers o.path o.colour

/-- A fence whose work has all issued has its commands run and its stores performed. -/
def State.payDebt (s : State) (d : Debt) : State :=
  if s.owes d then s
  else
    let s := if d.cpy then s.settleCopies (clusterOf s.me.core) (d.precedes s.me.owner) else s
    let s := if d.stk then s.settleStacksBy (d.precedes s.me.owner) else s
    let mine := fun (e : StoreEntry) => e.slot = s.me.slot && d.covers e.path e.colour
    ((s.drainSbuf s.me.core mine).drainSqueue s.me.core mine).settleHeld s.me.core s.me.slot

/-- FENCE.C and FENCE.X complete with every invalidation received before applied (R225). -/
def Debt.applies (d : Debt) : Bool := d.all || d.next.isSome

/-- Every fence of the strand whose earlier side is complete has acted and is dropped. -/
def State.payDebts (s : State) : State :=
  if s.me.debts = [] then s
  else
    let t := s.me.debts.foldl State.payDebt s
    let t := if t.me.debts.any (fun d => d.applies && !t.unpaid d) then t.applyInvals t.me.core else t
    { t with me := { t.me with debts := t.me.debts.filter t.unpaid } }

/-- A fence takes its effect: at once where its earlier side is complete, else when it is (R109 to R111). -/
def State.owe (s : State) (d : Debt) : State :=
  { s with me := { s.me with debts := s.me.debts ++ [{ d with blocks := s.me.queue.length, before := s.free }] } }.payDebts

/-- A FENCE.C that is not complete holds every later access back (R110), and a TMOVE that has not committed every later scalar
one (R155). -/
def State.scalarOpen (s : State) : Except Stop Unit :=
  if s.me.debts.any (fun d => d.all) || s.moves.any (fun m => m.owner = s.me.owner && m.path = 5) then .error .wait else .ok ()

/-- A fence that is not complete holds a later release, BARRIER, LAUNCH or EXIT back (R235). -/
def State.releaseOpen (s : State) : Except Stop Unit :=
  if s.me.debts.any fun d => d.all || d.next.isSome then .error .wait else .ok ()

/-- A fence that is not complete holds a later access of an engine class back (R111). -/
def State.classOpen (s : State) (cls : Nat) : Except Stop Unit :=
  if s.me.debts.any fun d => d.all || d.next = some cls then .error .wait else .ok ()

/-- What a scalar memory word lets finish first: the strand's own moves, and fences. -/
def State.settleFirst (s : State) : State := s.settleOwn.payDebts

/-- A scalar memory word. -/
def memStep (regs : List Reg) (f : State → Except Stop State) (s : State) : Result :=
  scalarAfter regs State.settleFirst (fun s =>
    match s.scalarOpen with
    | .error e => .error e
    | .ok _ => f s) s

/-- The strand's stores in the store buffer, oldest first. -/
def State.ownSbuf (s : State) : List StoreEntry := (s.core s.me.core).sbuf.filter fun e => e.slot = s.me.slot

/-- A tag window is reached by LD.I64 and ST.I64 only (R222). -/
def State.tagOk (s : State) (pa n : Nat) : Bool :=
  match s.region pa with
  | .tagWindow _ => n = 8
  | _ => true

/-! ## Loads (R94, R95) -/

/-- A line of a core's scalar data cache (R225). -/
def Core.cachedLine (c : Core) (line : Nat) : Option Image := (c.dcache.find? fun e => e.1 = line).map (·.2)

/-- A line that enters a set of four drops one of them, which is free (R2, R225; log 97): 32 KB in 64 sets. -/
def State.dropWay (s : State) (line : Nat) (l : List (Nat × Image)) : List (Nat × Image) :=
  let set := l.filter fun e => Config.cacheSet e.1 % 64 = Config.cacheSet line % 64
  if l.length < 4 || set.length < 4 then l
  else
    match set[Config.freeNat (2 ^ 64 * s.free + line) % set.length]? with
    | some v => l.filter fun e => e.1 ≠ v.1
    | none => l

/-- A line is filled as memory holds it now. -/
def State.fillLine (s : State) (core line : Nat) : State :=
  let c := s.core core
  s.setCore core { c with dcache := (line, lineImage s line) :: s.dropWay line (c.dcache.filter fun e => e.1 ≠ line),
                          invals := c.invals.filter (· ≠ line) }

/-- How many of the invalidations received a core has applied when a word of this step reads is free (R225; log 97). -/
def State.applySome (s : State) (core : Nat) : State :=
  let c := s.core core
  let n := if c.invals = [] then 0 else Config.freeNat (2 ^ 64 * s.free + 2 ^ 192) % (c.invals.length + 1)
  if n = 0 then s else s.setCore core (c.applyFirst n)

/-- A scalar read within one line before the strand's own stores are laid over it: a hit gives the bytes as cached, a miss
fills the line (R225). Device memory bypasses the cache, and no line of the host is cached (R94, R380). -/
def State.cacheRead (s : State) (pa : Nat) (device : Bool) : State × (Nat → Byte) :=
  if device || s.region pa = .slow then (s.request .rdCurr pa, s.byte)
  else
    let t := s.applySome s.me.core
    match (t.core s.me.core).cachedLine (lineOf pa) with
    | none => (t.fillLine s.me.core (lineOf pa), s.byte)
    | some img => (t, fun a => imgGet img a ^^^ unlisted a)

/-- The strand's scalar stream has a write held at this line: its reads of the line wait behind it (R255). -/
def State.ownHeldAt (s : State) (pa path : Nat) : Bool :=
  s.heldWrites.any fun h => h.core = s.me.core && h.entry.slot = s.me.slot && h.entry.path = path && h.line = lineOf pa

/-- The n bytes at EA, and the state after the read: ARM cleared by a match (R224), the translation noted, the line cached. -/
def State.scalarRead (s : State) (va : Word) (n : Nat) : Except Stop (State × Nat) :=
  if va.toNat % n ≠ 0 then fault .misaligned va
  else
    match s.probeRead s.me.ptroot va true with
    | .error f => .error (.fault f)
    | .ok p =>
      if !s.tagOk p.pa n then fault .memType va
      else
        match s.poisonCheck p.pa va, s.reachCheck p.pa va with
        | .error f, _ => .error (.fault f)
        | _, .error e => .error e
        | .ok _, .ok _ =>
          if s.ownHeldAt p.pa 5 then .error .wait
          else
          let (t, at_) := s.cacheRead p.pa p.device
          .ok ((t.disarm p.pa).noteXlate s.me.ptroot va, leNat (s.layOver s.ownSbuf at_ p.pa n))

/-- A load of n bytes; `ext` makes the register's value of the bytes read. -/
def loadWord (d a : Reg) (i : BitVec 16) (n : Nat) (ext : Nat → Word) (s : State) : Result :=
  memStep [d, a] (fun s =>
    match s.scalarRead (s.ea a i) n with
    | .error e => .error e
    | .ok (t, v) => .ok (t.xset d (ext v)).advance) s

/-- SX(v, 8n) as a register value. -/
def sxBytes (n v : Nat) : Word := BitVec.ofInt 64 (sx v (8 * n))

/-- LD.I64. -/
def execLdI64 (d a : Reg) (i : BitVec 16) (s : State) : Result := loadWord d a i 8 (BitVec.ofNat 64) s
/-- LD.I8. -/
def execLdI8 (d a : Reg) (i : BitVec 16) (s : State) : Result := loadWord d a i 1 (sxBytes 1) s
/-- LD.N8. -/
def execLdN8 (d a : Reg) (i : BitVec 16) (s : State) : Result := loadWord d a i 1 (BitVec.ofNat 64) s
/-- LD.I16. -/
def execLdI16 (d a : Reg) (i : BitVec 16) (s : State) : Result := loadWord d a i 2 (sxBytes 2) s
/-- LD.N16. -/
def execLdN16 (d a : Reg) (i : BitVec 16) (s : State) : Result := loadWord d a i 2 (BitVec.ofNat 64) s
/-- LD.I32. -/
def execLdI32 (d a : Reg) (i : BitVec 16) (s : State) : Result := loadWord d a i 4 (sxBytes 4) s
/-- LD.N32. -/
def execLdN32 (d a : Reg) (i : BitVec 16) (s : State) : Result := loadWord d a i 4 (BitVec.ofNat 64) s

/-! ## The store buffer (R96, R226) -/

/-- The oldest entry of a core leaves, with the stores that share it. -/
def State.drainOldest (s : State) (core : Nat) : State :=
  let c := s.core core
  match c.sbuf with
  | [] => s
  | e :: es =>
    let shared := e :: es.takeWhile (·.joined)
    let rest := es.dropWhile (·.joined)
    shared.foldl (fun s e => s.leave core e rest) (s.setCore core { c with sbuf := rest })

/-- Entries in use: a store that shares one takes none (R226). -/
def sbufEntries : List StoreEntry → Nat
  | [] => 0
  | _ :: es => 1 + (es.filter fun e => !e.joined).length

/-- Lays bytes at an offset over the 8 bytes of an entry. -/
def layBytes (old : List (Byte × Byte)) (off : Nat) (bs : List Byte) : List (Byte × Byte) :=
  (List.range (Nat.max 8 old.length)).map fun k =>
    match (if off ≤ k then bs[k - off]? else none) with
    | some b => (b, 0xFF)
    | none => old.getD k (0, 0)

/-- Two stores that merge keep one colour, one strand and one chain in common; a store without them shares the entry and
keeps its own. -/
def StoreEntry.sameKind (y fresh : StoreEntry) : Bool :=
  y.slot = fresh.slot && y.colour = fresh.colour && y.via = fresh.via

/-- A store enters: it merges into the youngest entry when both lie in one aligned 8 bytes (R226), which changes nothing but
how many entries are in use; when the buffer is full the store waits until the oldest entry has left. -/
def State.enterStore (s : State) (pa : Nat) (via : List Nat) (bs : List Byte) : State :=
  let base := pa / 8 * 8
  let fresh : StoreEntry :=
    { slot := s.me.slot, path := 5, pa := base, bytes := layBytes (List.replicate 8 (0, 0)) (pa - base) bs,
      colour := s.colour, via := via, word := 0, heal := false }
  let core := s.me.core
  let c := s.core core
  match c.sbuf.getLast? with
  | some y =>
    if y.pa = base then
      if y.sameKind fresh then
        s.setCore core { c with sbuf := c.sbuf.dropLast ++ [{ y with bytes := layBytes y.bytes (pa - base) bs }] }
      else s.setCore core { c with sbuf := c.sbuf ++ [{ fresh with joined := true }] }
    else
      let s := if sbufEntries c.sbuf < 16 then s else s.drainOldest core
      let c := s.core core
      s.setCore core { c with sbuf := c.sbuf ++ [fresh] }
  | none => s.setCore core { c with sbuf := [fresh] }

/-- What a store to a tag register must hold (R222). -/
def tagValueOk (pa : Nat) (v : Nat) : Bool :=
  if pa % 16 = 0 then v < 65536 else bits v 49 15 = 0 && bits v 0 32 = 0

/-- The TAGW register that a store of 8 bytes names, if it names one. -/
def State.tagwOf (s : State) (va : Word) : Option Nat :=
  match s.xlate s.me.ptroot va .write with
  | .ok x =>
    match s.region x.pa with
    | .tagWindow _ => if x.pa % 16 = 0 && va.toNat % 8 = 0 then some x.pa else none
    | _ => none
  | .error _ => none

/-- Before a store to TAGW every earlier access of the strand to the slot is performed, its copy-engine commands that read or
write the slot included (R223). -/
def State.settleSlot (s : State) (tag : Nat) : State :=
  if s.me.queue = [] then
    let s := s.drainStrand s.me.core s.me.slot
    s.settleCopies (clusterOf s.me.core) fun c => c.owner = s.me.owner &&
      ((s.destSlots c).contains tag || (s.srcSlots c).contains tag)
  else s

/-- A CPY-ELEMENT or STK-ELEMENT record (R361). -/
def postedFault (k : FaultKind) (p : Posted) : FaultInfo := { kind := k, detail := p.detail, posted := some p }

/-- A store to TAGW waits for earlier blocks and takes the fault posted for a command that writes the slot (R223). -/
def State.slotCheck (s : State) (tag : Nat) : Except Stop Unit :=
  let busy := (s.copyQueue (clusterOf s.me.core)).any fun c => c.owner = s.me.owner &&
    ((s.destSlots c).contains tag || (s.srcSlots c).contains tag)
  if s.me.queue ≠ [] || busy || s.stillHeld s.me.core s.me.slot (fun o => o.path ≤ 5 || o.path = cpyPath) then .error .wait
  else
    match s.me.postedCpy.find? fun p => p.slots.contains tag with
    | some p => .error (.fault (postedFault .cpyElement p))
    | none => .ok ()

/-- What a store lets finish first: its own moves and fences, and for TAGW the work on the slot. -/
def State.beforeStore (s : State) (va : Word) (n : Nat) : State :=
  let s := s.settleFirst
  if n ≠ 8 || s.me.debts.any (fun d => d.all) then s
  else match s.tagwOf va with
    | some tag => s.settleSlot tag
    | none => s

/-- A scalar store of n bytes. -/
def storeWord (src a : Reg) (i : BitVec 16) (n : Nat) (s : State) : Result :=
  scalarAfter [src, a] (fun s => s.beforeStore (s.ea a i) n) (fun s =>
    let va := s.ea a i
    let v := (s.xget src).toNat % 256 ^ n
    match s.scalarOpen with
    | .error e => .error e
    | .ok _ =>
      if va.toNat % n ≠ 0 then fault .misaligned va
      else
        match s.probe s.me.ptroot va .write true with
        | .error f => .error (.fault f)
        | .ok p =>
          let check : Except Stop Unit := match s.region p.pa with
            | .tagWindow _ =>
              if n ≠ 8 || !tagValueOk p.pa v then fault .memType va
              else if p.pa % 16 = 0 then s.slotCheck p.pa else .ok ()
            | _ => .ok ()
          match check with
          | .error e => .error e
          | .ok _ => .ok ((s.enterStore p.pa p.via (leBytes n v)).noteXlate s.me.ptroot va).advance) s

/-- ST.I8. -/
def execStI8 (src a : Reg) (i : BitVec 16) (s : State) : Result := storeWord src a i 1 s
/-- ST.I16. -/
def execStI16 (src a : Reg) (i : BitVec 16) (s : State) : Result := storeWord src a i 2 s
/-- ST.I32. -/
def execStI32 (src a : Reg) (i : BitVec 16) (s : State) : Result := storeWord src a i 4 s

/-- ST.I64. -/
def execStI64 (src a : Reg) (i : BitVec 16) (s : State) : Result := storeWord src a i 8 s

/-- STORE_BUFFER_DRAIN: the oldest entry of a core's store buffer leaves (R96). -/
def execStoreBufferDrain (core : Nat) (s : State) : Result := .next (s.drainOldest core)

/-! ## Atomics (R100 to R102) -/

/-- What an atomic with RL waits for beside its drains: fences that are not complete, and the strand's scalar writes that are
held at a line or a port and its moves (R102, R235, R258, R383). -/
def State.releasable (s : State) : Except Stop Unit :=
  match s.releaseOpen with
  | .error e => .error e
  | .ok _ => if s.stillHeld s.me.core s.me.slot fun o => o.path = 5 then .error .wait else .ok ()

/-- The location of an atomic: probed as a write, never device memory, its slot's tag compared as for a read (R224); in
transit, the atomic waits for the commit (R94); the strand's earlier scalar stores to the line, and with RL all of them, are
performed first (R102, R233). What AQ orders after it starts with the invalidations received before it applied (R225). -/
def State.atomicAt (s : State) (va : Word) (n : Nat) (aq rl : Bool) : Except Stop (State × Nat) :=
  if va.toNat % n ≠ 0 then fault .misaligned va
  else
    match s.probe s.me.ptroot va .write false with
    | .error f => .error (.fault f)
    | .ok p =>
      if s.slotMismatch p.pa then fault .schedule va
      else
        let (s, pa) := s.settle p.pa
        let s := s.drainSbuf s.me.core fun e => e.slot = s.me.slot && (rl || lineOf (s.follow e.pa) = lineOf pa)
        if s.tether pa = .inTransit then .error .wait
        else
          match s.poisonCheck pa va, s.reachAtomic pa, (if rl then s.releasable else .ok ()) with
          | .error f, _, _ => .error (.fault f)
          | _, .error e, _ => .error e
          | _, _, .error e => .error e
          | .ok _, .ok _, .ok _ =>
            let s := (s.disarm pa).uncache s.me.core (lineOf pa)
            .ok ((if aq then s.applyInvals s.me.core else s).noteXlate s.me.ptroot va, pa)

/-- Where the strand's own scalar writes come from. -/
def State.scalarOrigin (s : State) : Origin :=
  { core := some s.me.core, slot := s.me.slot, path := 5, colour := s.colour }

/-- New value by AOP (R83, R101) at n bytes; none writes nothing. -/
def amoNew (aop n old b expected : Nat) : Option Nat :=
  match aop with
  | 0 => some b
  | 1 => some ((old + b) % 256 ^ n)
  | 2 => some (old &&& b)
  | 3 => some (old ||| b)
  | 4 => some (old ^^^ b)
  | 5 => some (if sx b (8 * n) < sx old (8 * n) then b else old)
  | 6 => some (if sx old (8 * n) < sx b (8 * n) then b else old)
  | 7 => some (if b < old then b else old)
  | 8 => some (if old < b then b else old)
  | _ => if old = expected then some b else none

/-- A scalar atomic. -/
def atomicWord (aop : Nat) (d a b : Reg) (w : BitVec 2) (aq rl : Bool) (s : State) : Result :=
  memStep [d, a, b] (fun s =>
    let n := if w = 2 then 4 else 8
    match s.atomicAt (s.xget a) n aq rl with
    | .error e => .error e
    | .ok (t, pa) =>
      let old := t.oldAt pa n
      let t := match amoNew aop n old ((s.xget b).toNat % 256 ^ n) ((s.xget d).toNat % 256 ^ n) with
        | some v => t.performAtomic pa (full (leBytes n v)) t.scalarOrigin
        | none => t
      .ok (t.xset d (if n = 4 then sxBytes 4 old else BitVec.ofNat 64 old)).advance) s

/-- AMOSWAP. The reach of SCP is log 3. -/
def execAmoswap (d a b : Reg) (w : BitVec 2) (q l : Bool) (_c : BitVec 3) (s : State) : Result := atomicWord 0 d a b w q l s
/-- AMOADD. -/
def execAmoadd (d a b : Reg) (w : BitVec 2) (q l : Bool) (_c : BitVec 3) (s : State) : Result := atomicWord 1 d a b w q l s
/-- AMOAND. -/
def execAmoand (d a b : Reg) (w : BitVec 2) (q l : Bool) (_c : BitVec 3) (s : State) : Result := atomicWord 2 d a b w q l s
/-- AMOOR. -/
def execAmoor (d a b : Reg) (w : BitVec 2) (q l : Bool) (_c : BitVec 3) (s : State) : Result := atomicWord 3 d a b w q l s
/-- AMOXOR. -/
def execAmoxor (d a b : Reg) (w : BitVec 2) (q l : Bool) (_c : BitVec 3) (s : State) : Result := atomicWord 4 d a b w q l s
/-- AMOMIN. -/
def execAmomin (d a b : Reg) (w : BitVec 2) (q l : Bool) (_c : BitVec 3) (s : State) : Result := atomicWord 5 d a b w q l s
/-- AMOMAX. -/
def execAmomax (d a b : Reg) (w : BitVec 2) (q l : Bool) (_c : BitVec 3) (s : State) : Result := atomicWord 6 d a b w q l s
/-- AMOMIN.N. -/
def execAmominN (d a b : Reg) (w : BitVec 2) (q l : Bool) (_c : BitVec 3) (s : State) : Result :=
  atomicWord 7 d a b w q l s
/-- AMOMAX.N. -/
def execAmomaxN (d a b : Reg) (w : BitVec 2) (q l : Bool) (_c : BitVec 3) (s : State) : Result :=
  atomicWord 8 d a b w q l s
/-- AMOCAS: the expected value stands in xd. -/
def execAmocas (d a b : Reg) (w : BitVec 2) (q l : Bool) (_c : BitVec 3) (s : State) : Result := atomicWord 9 d a b w q l s

/-! ## ADDR.EQ (R99) -/

/-- The final physical byte address, as a 1-byte read resolves it. -/
def State.resolveRead (s : State) (va : Word) : Except FaultInfo Nat :=
  match s.probeRead s.me.ptroot va true with
  | .error f => .error f
  | .ok p => if s.tagOk p.pa 1 then .ok p.pa else .error { kind := .memType, addr := va }

/-- The strand's earlier scalar stores are performed (R99, R155). -/
def State.beforeMove (s : State) : State :=
  (s.settleFirst.drainSbuf s.me.core fun e => e.slot = s.me.slot).settleOwn

/-- A word that follows every earlier scalar access of the strand waits for its stores and moves (R99, R155, R258). -/
def State.scalarDone (s : State) : Except Stop Unit :=
  match s.scalarOpen with
  | .error e => .error e
  | .ok _ => if s.stillHeld s.me.core s.me.slot (fun o => o.path = 5) then .error .wait else .ok ()

/-- ADDR.EQ. -/
def execAddrEq (d a b : Reg) (s : State) : Result :=
  scalarAfter [d, a, b] State.beforeMove (fun s =>
    match s.scalarDone with
    | .error e => .error e
    | .ok _ =>
      match s.resolveRead (s.xget a) with
      | .error f => .error (.fault f)
      | .ok p =>
        match s.resolveRead (s.xget b) with
        | .error f => .error (.fault f)
        | .ok q => .ok (s.xset d (if p = q then 1 else 0)).advance) s

/-! ## CLAIM (R112, R366, R367) -/

/-- The next captured pair of this unit and slot (R367). -/
def State.replayClaim (s : State) : Option (Nat × Nat × State) :=
  let key := 65536 + 4 * s.me.logical + s.me.slot
  match s.ring (.capture (dieOf s.me.core)) with
  | none => none
  | some g =>
    match s.replayNext g key fun v => bits v 56 8 = 1 && bits v 44 8 = s.me.logical && bits v 42 2 = s.me.slot with
    | none => none
    | some (v, i) => some (bits v 192 64, bits v 256 64, { s with replayAt := assocSet s.replayAt key i })

/-- The pair (base, g) of a CLAIM that requests at most `req`. -/
def claimPair (base lim req : Nat) : Nat × Nat := (base, if base < lim then Nat.min req (lim - base) else 0)

/-- CLAIM. The model's choice (log 105): under replay, a CLAIM that finds no further captured pair for its unit and slot is an
ordinary one, as R367 says nothing of it. -/
def execClaim (d a b : Reg) (s : State) : Result :=
  memStep [d, a, b] (fun s =>
    match s.atomicAt (s.xget a) 16 false false with
    | .error e => .error e
    | .ok (t, pa) =>
      let req := Nat.min (s.xget b).toNat s.me.ctl.mvl.toNat
      let (base, g, t) := match (if t.replaying then t.replayClaim else none) with
        | some (base, g, t) => (base, g, t)
        | none => let p := claimPair (t.oldAt pa 8) (t.oldAt (pa + 8) 8) req; (p.1, p.2, t)
      let t := if g = 0 then t else t.performAtomic pa (full (leBytes 8 ((base + g) % 2 ^ 64))) t.scalarOrigin
      let t := t.appendCapture (.capture (dieOf t.me.core)) 1 (s.xget a).toNat 0 t.me.logical t.me.slot
        (leBytes 8 base ++ leBytes 8 g)
      let t := t.xset d (BitVec.ofNat 64 base)
      .ok { t with me := { t.me with ctl := { t.me.ctl with vl := BitVec.ofNat 64 g } } }.advance) s

/-! ## Fences (R109 to R111) -/

/-- FSV: the strand's scalar stores are performed before any block fetched later reads or writes memory. The scalar stream goes on
(R208). -/
def execFsv (s : State) : Result :=
  scalarStep [] (fun s => .ok ((s.settleOwn.owe { blocks := 0, fsv := true }).advance)) s

/-- FVS: waits until the blocks fetched earlier have retired and their stores are performed; the invalidations received so far have
been applied (R109, R225, R235). -/
def execFvs (s : State) : Result :=
  scalarStep [] (fun s =>
    match s.blocksDone with
    | .error e => .error e
    | .ok _ =>
      let t := (s.settleOwn.drainSqueue s.me.core fun e => e.slot = s.me.slot).settleHeld s.me.core s.me.slot
      if t.stillHeld t.me.core t.me.slot (fun o => o.path < 5) then .error .wait
      else .ok (t.applyInvals t.me.core).advance) s

/-- FVV. The scalar stream goes on (R208). -/
def execFvv (s : State) : Result := scalarStep [] (fun s => .ok (s.owe { blocks := 0, vec := true }).advance) s

/-- FENCE.C: the scalar stores of the named colours at once, the VEC stores when their words have issued; every later access
waits (R110). Loads are not waited for (R239). The reach of the scope is log 3. -/
def execFenceC (_sc : BitVec 3) (m : BitVec 8) (s : State) : Result :=
  scalarStep [] (fun s =>
    let s := s.settleOwn.drainSbuf s.me.core fun e => e.slot = s.me.slot && bits m.toNat e.colour 1 = 1
    .ok ((s.settleOwn).owe { blocks := 0, colours := m.toNat, all := true }).advance) s

/-- The engine work of a class that FENCE.X waits for runs, as far as it has issued and can (R111). -/
def State.runClass (s : State) (a : Nat) : State :=
  match a with
  | 2 => s.settleCopies (clusterOf s.me.core) fun c => c.owner = s.me.owner
  | 3 => s.settleStacks s.me.owner
  | _ => s

/-- What a FENCE.X of two classes waits for, and what waits for it. -/
def State.classDebt (s : State) (a b : Nat) : Debt :=
  match a with
  | 0 => { blocks := 0, vec := true, next := some b }
  | 1 => { blocks := 0, mat := true, next := some b }
  | 2 => { blocks := 0, cpy := true, next := some b }
  | 3 => { blocks := 0, stk := true, next := some b }
  | _ => { blocks := 0, col := true, next := some b,
           cols := (s.collectives.filter fun c => c.owner = s.me.owner && c.status = none).map (·.ticket) }

/-- A fault posted on the path of FENCE.X's first class: the first posted (R154, R188; log 99). -/
def State.classFault (s : State) (a : Nat) : Option FaultInfo :=
  match a with
  | 2 => s.me.postedCpy.head?.map (postedFault .cpyElement)
  | 3 => s.me.postedStk.head?.map (postedFault .stkElement)
  | _ => none

/-- FENCE.X: takes a posted fault of its first class; else later accesses of the second class wait until the first is complete, and
the scalar stream goes on (R111, R208). A fault that is posted later is taken by the next such fence, or EXIT (log 98). -/
def execFenceX (_sc a b : BitVec 3) (s : State) : Result :=
  scalarAfter [] (fun s => s.settleOwn.runClass a.toNat) (fun s =>
    match s.classFault a.toNat with
    | some f => .error (.fault f)
    | none => .ok (s.owe (s.classDebt a.toNat b.toNat)).advance) s

end Sys2Proof.Machine
end

