-- ==== Sys2Proof/Machine/Tether.lean ====
section
/-! DEFINITION. Moving and releasing lines with scalar words (R155, R157, R254 to R262), and the commits of moves. -/
namespace Sys2Proof.Machine

/-! ## The checks of a move -/

/-- Where a move goes: the line at the end of the source's chain, the tethered lines passed, the destination line. -/
structure MoveTo where
  src : Nat
  via : List Nat
  dst : Nat
  deriving DecidableEq, Repr

/-- The destination line, by translation as a write, with no tether followed (R155). -/
def State.moveDest (s : State) (d : Word) : Except FaultInfo Xl :=
  match s.xlate s.me.ptroot d .write with
  | .error f => .error f
  | .ok x =>
    if x.device then .error { kind := .memType, addr := d }
    else if !s.admitted x.pa .write then .error { kind := .remoteDenied, addr := d, detail := paDetail x.page }
    else .ok x

/-- A line from which, or to which, a move is refused (R155, R259). The model's choice (log 102): where the chain of s passes
a tether, R155 does not say which page's PIN and SINK count for L, as L's own address is not translated; those of the page
that s names do. -/
def State.moveRefused (s : State) (src : Probed) (dst : Xl) (sa da : Word) : Option Word :=
  if !s.hasTether src.pa || src.sink || src.pin || s.onChip src.pa then some sa
  else if dst.sink || dst.pin || s.onChip dst.pa then some da
  else none

/-- D can't take the move: it is not plain, by this module's tethers or by those of the module it lies in, it is L, or another
move holds it (R155, R254, R339). -/
def State.destTaken (s : State) (src dst : Nat) (held : List Nat) : Bool :=
  s.tether dst ≠ .plain || (s.farTether ⟨dst, []⟩).isSome || lineOf dst = lineOf src || held.contains (lineOf dst) ||
    s.moves.any fun m => lineOf m.dest = lineOf dst

/-- L once every move in transit on it has committed: resolved again, and refused if the data now lies where no move may take
it from (R155, R259). A move whose own copy waits for a module keeps this one waiting. -/
def State.moveSource (s : State) (p : Probed) (sa : Word) (dst : Nat) : Except Stop (State × MoveTo) :=
  let (t, l) := s.settle p.pa
  if t.tether l = .inTransit then .error .wait
  else if !t.hasTether l then fault .moveRefused sa
  else .ok (t, { src := lineOf l, via := p.via, dst := dst })

/-- Every check of TMOVE in the order of R155. `held` are lines that earlier elements of the same VTMOVE hold (R156). -/
def State.moveCheck (s : State) (sa da : Word) (held : List Nat) : Except Stop (State × MoveTo) :=
  if sa.toNat % 128 ≠ 0 then fault .misaligned sa
  else if da.toNat % 128 ≠ 0 then fault .misaligned da
  else
    match s.probe s.me.ptroot sa .write false with
    | .error f => .error (.fault f)
    | .ok p =>
      match s.moveDest da with
      | .error f => .error (.fault f)
      | .ok x =>
        match s.moveRefused p x sa da with
        | some a => fault .moveRefused a
        | none => if s.destTaken p.pa x.pa held then fault .tetherState da else s.moveSource p sa (lineOf x.pa)

/-! ## TMOVE and its commit -/

/-- L is set in transit and D is held; the copy is under way (R254). -/
def State.beginMove (s : State) (m : MoveTo) (colour path word : Nat) : State :=
  let s := s.setMeta m.src { s.meta_ m.src with tether := .inTransit }
  { s with moves := s.moves ++ [{ line := m.src, dest := m.dst, colour := colour, owner := s.me.owner, via := m.via, path := path,
                                  word := word }] }

/-- TMOVE (R155). -/
def execTmove (a b : Reg) (s : State) : Result :=
  scalarAfter [a, b] State.beforeMove (fun s =>
    match s.scalarDone with
    | .error e => .error e
    | .ok _ =>
      match s.moveCheck (s.xget a) (s.xget b) [] with
      | .error e => .error e
      | .ok (t, m) =>
        .ok (((t.noteXlate s.me.ptroot (s.xget a)).noteXlate s.me.ptroot (s.xget b)).beginMove m s.colour 5 0).advance) s

/-- MOVE_COMMIT: the transit ends (R254). -/
def execMoveCommit (line : Nat) (s : State) : Result := .next (s.settleLine (lineOf line))

/-! ## TREL and TREL.Z (R157, R261) -/

/-- An access of some agent is in flight through a line (R139): a write that waits in a store buffer, in a store queue, held
at a line in transit or at a port, or a move whose source's chain passed it. -/
def State.inFlight (s : State) (line : Nat) : Bool :=
  s.cores.any (fun c => c.2.sbuf.any (fun e => e.via.contains line) || c.2.squeue.any fun e => e.via.contains line) ||
  s.heldWrites.any (fun h => h.entry.via.contains line) || s.portHeld.any (fun w => w.origin.via.contains line) ||
  s.moves.any fun m => m.via.contains line

/-- The line of a TREL by translation as a write (R157). -/
def State.releaseLine (s : State) (va : Word) : Except FaultInfo Nat :=
  if va.toNat % 128 ≠ 0 then .error { kind := .misaligned, addr := va }
  else
    match s.moveDest va with
    | .error f => .error f
    | .ok x => .ok (lineOf x.pa)

/-- L becomes released; early work and read-ahead that passed through it are dropped (R261). -/
def State.release (s : State) (line : Nat) : State :=
  let s := (s.setMeta line { s.meta_ line with tether := .released }).dropStream line
  s.mapStrands fun t =>
    match t.early with
    | some e => if e.lines.contains line then t.dropEarly else t
    | none => t

/-- The strand's own stores through the line are performed before its TREL. -/
def State.beforeRelease (s : State) : State := (s.settleFirst.drainStrand s.me.core s.me.slot).settleOwn

/-- TREL: waits, parked, while another agent's access is in flight through the line (R139, R157). -/
def execTrel (a : Reg) (s : State) : Result :=
  if s.me.stalled [a] then .next s
  else
    let s := s.beforeRelease
    match s.scalarOpen with
    | .error _ => .next s
    | .ok _ =>
      let va := s.xget a
      match s.releaseLine va with
      | .error f => .next (s.takeTrap f s.me.pc false 0)
      | .ok l =>
        if s.tether l ≠ .tethered then .next (s.takeTrap { kind := .tetherState, addr := va } s.me.pc false 0)
        else if s.inFlight l then .next { s with me := { s.me with parked := .trel l } }
        else .next { (s.release l).advance with me := { (s.release l).advance.me with parked := .no } }

/-- TREL.Z: 128 zero bytes, the poison cleared, the line plain (R157). -/
def execTrelZ (a : Reg) (s : State) : Result :=
  scalarAfter [a] State.beforeRelease (fun s =>
    match s.scalarOpen with
    | .error e => .error e
    | .ok _ =>
      let va := s.xget a
      match s.releaseLine va with
      | .error f => .error (.fault f)
      | .ok l =>
        if s.tether l ≠ .released then fault .tetherState va
        else
          let s := s.setMeta l { tether := .plain, poison := false }
          .ok (s.performAt l (full (List.replicate 128 0)) true s.scalarOrigin).advance) s

/-- TETHER_RELEASE_DONE: a TREL that waits for this line completes once no access is in flight through it (R261). -/
def execTetherReleaseDone (line : Nat) (s : State) : Result :=
  match s.all.find? fun t => t.parked = .trel line with
  | none => .next s
  | some t =>
    if s.inFlight line then .next s
    else
      let s := if s.tether line = .tethered then s.release line else s
      .next (match s.strandAt t.core t.slot with
        | some t => s.setStrand { t with parked := .no, pc := t.pc + 4 }
        | none => s)

end Sys2Proof.Machine
end

