-- ==== Sys2Proof/Machine/Convoy.lean ====
section
/-! DEFINITION. What is checked about a vector word and a convoy before anything runs (R25, R28, R72, R79, R88), the core
units that words name (R35, R299), and the scan of a block (R206, R207). -/
namespace Sys2Proof.Machine

/-! ## Registers that a word names -/

/-- Registers of one vector operand at width W: the members of its group (R28). -/
def groupSize (lew W : Nat) : Nat := if W ≤ lew then 1 else W / lew

/-- First register, group size and number of groups of a field; none for what is no vector register. -/
def fieldRegs (lew : Nat) (k : FieldKind) (v : BitVec 6) : List Nat :=
  match k with
  | .vec W n => (List.range (groupSize lew W * n)).map fun j => v.toNat + j
  | .one => [v.toNat]
  | _ => []

/-- The four fields with their kinds. -/
def fieldsOf (sh : Shape) (w : VWord) : List (FieldKind × BitVec 6) :=
  [(sh.vd, w.vd), (sh.va, w.va), (sh.vb, w.vb), (sh.vc, w.vc)]

/-- A group begins at a multiple of its size and ends at or below v63 (R28, R144). -/
def groupOk (lew : Nat) (k : FieldKind) (v : BitVec 6) : Bool :=
  match k with
  | .vec W n => v.toNat % groupSize lew W = 0 && v.toNat + groupSize lew W * n ≤ 64
  | _ => true

/-- Vector registers that a word writes (R79). -/
def destRegs (lew : Nat) (sh : Shape) (w : VWord) : List Nat :=
  (if sh.vdDst then fieldRegs lew sh.vd w.vd else []) ++ (if sh.vcDst then fieldRegs lew sh.vc w.vc else []) ++
  (if sh.v0Dst then [0] else [])

/-- Scalar registers that a word writes, and reads (R91, R207); x0 is neither. -/
def scalDests (sh : Shape) (w : VWord) : List Nat :=
  let f := fun (dst : Bool) (k : FieldKind) (v : BitVec 6) => if dst && k = .scal && v ≠ 0 then [v.toNat] else []
  f sh.vdDst sh.vd w.vd ++ f sh.vbDst sh.vb w.vb ++ f sh.vcDst sh.vc w.vc

def scalReads (sh : Shape) (w : VWord) : List Nat :=
  let f := fun (src : Bool) (k : FieldKind) (v : BitVec 6) => if src && k = .scal && v ≠ 0 then [v.toNat] else []
  f (!sh.vdDst) sh.vd w.vd ++ f true sh.va w.va ++ f true sh.vb w.vb ++ f (!sh.vcDst) sh.vc w.vc

/-! ## Core units (R35, R299, R300) -/

/-- Bit of UNITS of a field's unit. -/
def fieldUnit (k : FieldKind) (v : BitVec 6) : List Nat :=
  match k with
  | .tile => [v.toNat]
  | .preg => [8 + v.toNat]
  | .sreg => [16 + v.toNat]
  | _ => []

/-- Units a word names, in the order of its fields. -/
def unitsOf (sh : Shape) (w : VWord) : List Nat :=
  ((fieldsOf sh w).map fun f => fieldUnit f.1 f.2).flatten ++ (if sh.ix then [20] else [])

/-- The code of R35 for a bit of UNITS. -/
def unitCode (u : Nat) : Nat :=
  if u < 8 then 0x100 + u else if u < 16 then 0x200 + (u - 8) else if u < 20 then 0x300 + (u - 16) else 0x400

/-- Holder of a unit: a strand slot. -/
def Core.holder (c : Core) (u : Nat) : Option Nat := (c.units.find? fun e => e.1 = u).map (·.2)

/-- The contents of a unit become zero. -/
def Core.clearUnit (c : Core) (u : Nat) : Core :=
  if u < 8 then { c with tiles := imgClear c.tiles (32768 * u) (32768 * (u + 1)) }
  else if u < 16 then { c with pregs := imgClear c.pregs (1280 * (u - 8)) (1280 * (u - 8 + 1)) }
  else if u < 20 then { c with sregs := imgClear c.sregs (8192 * (u - 16)) (8192 * (u - 16 + 1)) }
  else { c with ix := [] }

/-- A unit that no strand holds is granted, with all contents zero (R35). -/
def Core.grantUnit (c : Core) (u slot : Nat) : Core :=
  match c.holder u with
  | some _ => c
  | none => { c.clearUnit u with units := c.units ++ [(u, slot)] }

/-- A unit ceases to be held; its contents are lost (R300). -/
def Core.releaseUnit (c : Core) (u : Nat) : Core := { c.clearUnit u with units := c.units.filter fun e => e.1 ≠ u }

/-- The units field of a strand (R300). -/
def Core.unitsOfSlot (c : Core) (slot : Nat) : Nat :=
  (c.units.filter fun e => e.2 = slot).foldl (fun a e => a + 2 ^ e.1) 0

/-- The first named unit that another strand of the core holds. The model's choice (log 100): where a word names two such
units, R35 does not say which is reported; the one first in the order VD, VA, VB, VC is. -/
def unheld (c : Core) (slot : Nat) (us : List Nat) : Option Nat :=
  us.find? fun u => match c.holder u with | some h => h ≠ slot | none => false

/-- Grants what a word names. -/
def State.grantUnits (s : State) (us : List Nat) : State :=
  match us with
  | [] => s
  | _ => s.setCore s.me.core (us.foldl (fun c u => c.grantUnit u s.me.slot) (s.core s.me.core))

/-! ## The decode checks of one word (R88) -/

/-- The first vector register named that is not declared (R25). The model's choice (log 100): where a word names several, R25
does not say which number ADDR holds; the first field in the order VD, VA, VB, VC counts, and its least such member. -/
def undeclared (lew nreg : Nat) (sh : Shape) (w : VWord) : Option Nat :=
  (((fieldsOf sh w).map fun f => fieldRegs lew f.1 f.2).flatten).find? fun r => nreg ≤ r

/-- A rounding code that resolves to 6 or 7 (R13, R72). -/
def badRounding (sh : Shape) (w : VWord) (vtype : Word) : Bool := sh.rounds && w.rm = 6 && 6 ≤ vtypeRm vtype

/-- Checks of a decoded word beyond its encoding, in the order of R88: what it fails first. -/
def State.wordCheck (s : State) (vtype : Word) (i : Instr) (addr : Word) : Option FaultInfo :=
  match vfields i with
  | none => none
  | some w =>
    match shape (vopOf i) w with
    | none => some { kind := .illegalEncoding, addr := addr }
    | some sh =>
      let lew := lewOf vtype
      if (fieldsOf sh w).any (fun f => !groupOk lew f.1 f.2) || badRounding sh w vtype then
        some { kind := .illegalEncoding, addr := addr }
      else match undeclared lew (nregOf vtype) sh w with
        | some r => some { kind := .vregUndeclared, addr := BitVec.ofNat 64 r }
        | none =>
          match unheld (s.core s.me.core) s.me.slot (unitsOf sh w) with
          | some u => some { kind := .unitUnheld, addr := BitVec.ofNat 64 (unitCode u) }
          | none => none

/-- Units that an instruction names. -/
def instrUnits (i : Instr) : List Nat :=
  match vfields i with
  | none => []
  | some w => match shape (vopOf i) w with | none => [] | some sh => unitsOf sh w

/-! ## Convoys (R77, R79) -/

/-- Class of an instruction (R70). -/
def classOf (i : Instr) : VClass := vclass (vopOf i)

/-- Scalar registers that a word names as destinations, x0 among them: two of one number make a convoy illegal (R79). -/
def scalNamed (sh : Shape) (w : VWord) : List Nat :=
  let f := fun (dst : Bool) (k : FieldKind) (v : BitVec 6) => if dst && k = .scal then [v.toNat] else []
  f sh.vdDst sh.vd w.vd ++ f sh.vbDst sh.vb w.vb ++ f sh.vcDst sh.vc w.vc

/-- Destinations of an instruction: vector registers, then scalar registers numbered from 64. -/
def destsOf (vtype : Word) (i : Instr) : List Nat :=
  match vfields i with
  | none => []
  | some w =>
    match shape (vopOf i) w with
    | none => []
    | some sh => destRegs (lewOf vtype) sh w ++ (scalNamed sh w).map (· + 64)

/-- END of an instruction's word. -/
def isLast (i : Instr) : Bool :=
  match vfields i with
  | none => true
  | some w => w.last

/-- The word makes the convoy of the words before it illegal (R79). -/
def convoyBad (vtype : Word) (before : List Instr) (i : Instr) : Bool :=
  (before.length = 3 && !isLast i) ||
  before.any (fun j => classOf j = classOf i || classOf i = .control || classOf j = .control) ||
  before.any (fun j => (destsOf vtype j).any fun d => (destsOf vtype i).contains d)

/-! ## The scan of a block (R206, R207) -/

/-- What a scan finds: registers read, registers written with the VPC of the last convoy that writes each, and whether
every word could be fetched and passes its decode checks. -/
structure Scan where
  reads : List Nat
  writes : List (Nat × Nat)
  /-- Memory work, as `QEntry.work` lists it. -/
  work : List (Nat × Nat)
  ok : Bool
  deriving DecidableEq, Repr

/-- Memory work of a word by the keys of `QEntry.work`, and 12 for a vector atomic that releases. -/
def workOf (i : Instr) : List Nat :=
  match vfields i with
  | none => []
  | some w =>
    match i with
    | .vstk _ | .semv _ => [8]
    | .vwait _ => 9 :: (if w.fnBits 6 1 = 1 then [11] else [])
    | .vamoswap _ | .vamoadd _ | .vamoand _ | .vamoor _ | .vamoxor _ | .vamomin _ | .vamomax _ | .vamocas _ =>
      [w.clr.toNat, 9] ++ (if w.fnBits 9 1 = 1 then [11] else []) ++ (if w.fnBits 8 1 = 1 then [12] else [])
    | .tld _ | .tst _ | .sdsort _ | .ptld _ | .ptst _ | .sdscanMem _ | .sddot _ | .sld _ | .sst _ | .brtopadd _ => [10]
    | .vskeinUnbind _ | .vaddrEq _ => []
    | _ =>
      match classOf i with
      | .load => [9]
      | .store => [w.clr.toNat, 9]
      | _ => []

/-- Adds one word to a scan. -/
def Scan.add (c : Scan) (i : Instr) (vpc : Nat) : Scan :=
  match vfields i with
  | none => c
  | some w =>
    match shape (vopOf i) w with
    | none => c
    | some sh =>
      { c with reads := (c.reads ++ (scalReads sh w).filter fun r => !c.reads.contains r).eraseDups,
               writes := (scalDests sh w).foldl (fun l r => assocSet l r vpc) c.writes,
               work := (workOf i).foldl (fun l k => assocSet l k vpc) c.work }

/-- One vector word of the block at an address. -/
def State.fetchVector (s : State) (va : Word) : Except FaultInfo Instr :=
  match s.fetch s.me.core s.me.ptroot va 8 with
  | .error f => .error f
  | .ok n =>
    match decodeVector (BitVec.ofNat 64 n) with
    | .ok i => .ok i
    | .error .codeEnd => .error { kind := .codeEnd, addr := va }
    | .error _ => .error { kind := .illegalEncoding, addr := va }

/-- Scans from an address: words of the convoy so far, and its VPC. -/
def State.scanFrom (s : State) (vtype : Word) : Nat → List Instr → Word → Word → Scan → Scan
  | 0, _, _, _, c => { c with ok := false }
  | n + 1, before, vpc, va, c =>
    match s.fetchVector va with
    | .error _ => { c with ok := false }
    | .ok i =>
      if (s.wordCheck vtype i va).isSome || convoyBad vtype before i then { c with ok := false }
      else if i = .vstop then c
      else
        let c := c.add i vpc.toNat
        if isLast i then s.scanFrom vtype n [] (va + 8) (va + 8) c
        else s.scanFrom vtype n (before ++ [i]) vpc (va + 8) c

/-- The longest block that the scan follows: as many words as the span that a VFETCH reaches (R73). -/
def scanWords : Nat := 1048576

/-- The scan of the block at a target under the VTYPE it captures. -/
def State.scan (s : State) (vtype target : Word) : Scan := s.scanFrom vtype scanWords [] target target ⟨[], [], [], true⟩

/-- The physical address by which the scan cache knows a block (log 101). -/
def State.blockAddr (s : State) (target : Word) : Option Nat :=
  match s.probe s.me.ptroot target .fetch true with
  | .ok p => some p.pa
  | .error _ => none

/-- VPCs of a scan as distances from the block's target, and back. -/
def fromTarget (target : Word) (l : List (Nat × Nat)) : List (Nat × Nat) := l.map fun e => (e.1, e.2 - target.toNat)
def atTarget (target : Word) (l : List (Nat × Nat)) : List (Nat × Nat) := l.map fun e => (e.1, e.2 + target.toNat)

/-- The register sets of a block: those of the core's scan cache where it holds the block, else by a scan, which the cache
then keeps (R206). A scan that meets a word it can't pass is not kept. The model's choice (log 101): of 16 entries the one filled
longest ago makes room, and a hit does not renew an entry, as R206 names no replacement. -/
def State.scanned (s : State) (vtype target : Word) : State × Scan :=
  match s.blockAddr target with
  | none => (s, s.scan vtype target)
  | some a =>
    let c := s.core s.me.core
    match c.scans.find? fun e => e.block = a with
    | some e => (s, ⟨e.reads, atTarget target e.writes, atTarget target e.work, true⟩)
    | none =>
      let r := s.scan vtype target
      if r.ok then
        let e : ScanEntry :=
          { block := a, reads := r.reads, writes := fromTarget target r.writes, work := fromTarget target r.work }
        (s.setCore s.me.core { c with scans := (e :: c.scans).take 16 }, r)
      else (s, r)

end Sys2Proof.Machine
end

