-- ==== Sys2Proof/Machine/Control.lean ====
section
/-! DEFINITION. Branches and jumps (R97, R98), TRAP (R113), vector length and shape (R32, R103 to R106), VFETCH (R73, R108,
R206, R207) and the control registers (R36 to R43, R203, R300, R364). -/
namespace Sys2Proof.Machine

/-! ## Branches and jumps -/

/-- A conditional branch. -/
def branchStep (a b : Reg) (o : BitVec 16) (taken : Word → Word → Bool) (s : State) : Result :=
  scalarStep [a, b] (fun s => .ok (if taken (s.xget a) (s.xget b) then s.jump (s.branchTo o) else s.advance)) s

/-- BEQ. -/
def execBeq (a b : Reg) (o : BitVec 16) (s : State) : Result := branchStep a b o (fun x y => x == y) s
/-- BNE. -/
def execBne (a b : Reg) (o : BitVec 16) (s : State) : Result := branchStep a b o (fun x y => x != y) s
/-- BLT. -/
def execBlt (a b : Reg) (o : BitVec 16) (s : State) : Result := branchStep a b o BitVec.slt s
/-- BLT.N. -/
def execBltN (a b : Reg) (o : BitVec 16) (s : State) : Result := branchStep a b o BitVec.ult s
/-- BGE. -/
def execBge (a b : Reg) (o : BitVec 16) (s : State) : Result := branchStep a b o (fun x y => !x.slt y) s
/-- BGE.N. -/
def execBgeN (a b : Reg) (o : BitVec 16) (s : State) : Result := branchStep a b o (fun x y => !x.ult y) s

/-- JAL. -/
def execJal (d : Reg) (o : BitVec 21) (s : State) : Result :=
  scalarStep [d] (fun s => .ok ((s.xset d (s.me.pc + 4)).jump (s.jumpTo o))) s

/-- JALR: a target that is no multiple of 4 faults and leaves the link unchanged. -/
def execJalr (d a : Reg) (i : BitVec 16) (s : State) : Result :=
  scalarStep [d, a] (fun s =>
    let t := s.ea a i
    if t.toNat % 4 ≠ 0 then fault .misaligned t else .ok ((s.xset d (s.me.pc + 4)).jump t)) s

/-- TRAP: the record resumes after the word (R113). -/
def execTrap (a : Reg) (c : BitVec 16) (s : State) : Result :=
  if s.me.stalled [a] then .next s
  else .next (s.takeTrap { kind := .softwareTrap, addr := s.xget a, detail := c.toNat } (s.me.pc + 4) false 0)

/-! ## Shape (R26, R32) -/

/-- A recorded grant or a pending NREG differs from the shape in force (R103). -/
def Strand.reshapes (t : Strand) : Bool := t.pend || t.recd ≠ t.cur || t.pendNreg ≠ vtypeNreg t.ctl.vtype

/-- Registers and bytes that cease to exist go, those that come into existence read as zero (R32); the skeins of lost
registers are dropped (R148). -/
def Strand.reshape (t : Strand) : Strand :=
  let vtype := setBits t.ctl.vtype 2 2 t.pendNreg
  let n := Nat.min (nregOf t.ctl.vtype) (nregOf vtype)
  let rb := Nat.min (regBytes t.cur t.ctl.vtype) (regBytes t.recd vtype)
  { t with vregs := t.vregs.filter (fun p => p.1 / 65536 < n && p.1 % 65536 < rb),
           skeins := t.skeins.filter (fun k => k.reg < n),
           ctl := { t.ctl with vtype := vtype }, cur := t.recd, pend := false, left := 0 }

/-- The applying step of SETVL, STRIP and VWHILE: it waits for earlier blocks only when the shape changes. -/
def Strand.applyShape (t : Strand) : Except Stop Strand :=
  if t.reshapes then (if t.queue = [] then .ok t.reshape.dropEarly else .error .wait) else .ok t

/-- MVL, then VL as the lesser of a count and MVL. -/
def Strand.grantVl (t : Strand) (count : Word) : Strand :=
  let mvl := mvlOf t.cur t.ctl.vtype
  { t with ctl := { t.ctl with mvl := BitVec.ofNat 64 mvl, vl := BitVec.ofNat 64 (Nat.min count.toNat mvl) } }

/-- SETVL (R103). -/
def execSetvl (d a : Reg) (e : BitVec 2) (s : State) : Result :=
  scalarStep [d, a] (fun s =>
    let n := s.xget a
    match s.me.applyShape with
    | .error w => .error w
    | .ok t =>
      -- the register contents move under the shape; EW moves no byte
      let t := { t with ctl := { t.ctl with vtype := setBits t.ctl.vtype 0 2 e.toNat } }
      let t := t.grantVl n
      .ok { s with me := t.xset d t.ctl.vl }.advance) s

/-- VCONF (R104). -/
def execVconf (n : BitVec 2) (s : State) : Result :=
  scalarStep [] (fun s => .ok { s with me := { s.me with pendNreg := n.toNat } }.advance) s

/-- Entries of STRIPCFG: pointer register and size code (R39). -/
def stripEntries (cfg : Word) : List (Reg × Nat) :=
  (List.range 4).map fun e => (BitVec.ofNat 5 (bits cfg.toNat (8 * e + 3) 5), bits cfg.toNat (8 * e) 3)

/-- Bytes that c elements take at a size code (R105). -/
def advBytes (sz c : Nat) : Nat := if sz = 4 then (c + 1) / 2 else c * 2 ^ sz

/-- The count, pointer and SBASE steps of STRIP and VWHILE (R105, R106). -/
def Strand.consume (t : Strand) (a : Reg) (c : Nat) : Strand :=
  let n := (t.xget a).toNat
  let t := t.xset a (BitVec.ofNat 64 (n - c))
  let t := (stripEntries t.ctl.stripcfg).foldl (fun t e =>
    if e.1 = 0 then t else t.xset e.1 (t.xget e.1 + BitVec.ofNat 64 (advBytes e.2 c))) t
  if bits t.ctl.stripcfg.toNat 32 1 = 1 then
    { t with ctl := { t.ctl with sbase := t.ctl.sbase + BitVec.ofNat 64 c } }
  else t

/-- Registers that a loop step reads or writes. -/
def State.stripRegs (s : State) : List Reg := (stripEntries s.me.ctl.stripcfg).map (·.1)

/-- Early work stands while the loop step has the outcome it assumed, and is cancelled otherwise (R215). -/
def Strand.keepEarly (was t : Strand) : Strand :=
  match t.early with
  | some e => if e.ctl = t.ctl && was.cur = t.cur && t.ctl.vl ≠ 0 then t else t.dropEarly
  | none => t

/-- STRIP (R105). -/
def execStrip (a b : Reg) (o : BitVec 16) (s : State) : Result :=
  if s.me.ctl.vl = 0 then scalarStep [a, b] (fun s => .ok s.advance) s
  else
    scalarStep (a :: b :: s.stripRegs) (fun s =>
      let t := s.me.consume a s.me.ctl.vl.toNat
      match t.applyShape with
      | .error w => .error w
      | .ok t =>
        let t := s.me.keepEarly (t.grantVl (t.xget a))
        let t := t.xset b t.ctl.vl
        let s := { s with me := t }
        .ok (if t.ctl.vl = 0 then s.advance else s.jump (s.branchTo o))) s

/-- The first zero element of vb below VL, VL if none (R106). -/
def firstZero (s : State) (c : VCtx) (r : BitVec 6) (vl : Nat) : Nat :=
  match (List.range vl).find? fun i => s.vget c r c.lew i = 0 with
  | some i => i
  | none => vl

/-- The strand's own control values as a scalar word sees them. -/
def State.ownCtx (s : State) : VCtx := { ctl := s.me.ctl, regs := s.me.x, addr := s.me.pc, convoy := s.nextSerial }

/-- VWHILE (R106). -/
def execVwhile (a b : Reg) (o : BitVec 16) (s : State) : Result :=
  if nregOf s.me.ctl.vtype ≤ b.toNat then
    scalarStep [a] (fun _ => fault .vregUndeclared (BitVec.ofNat 64 b.toNat)) s
  else if s.me.ctl.vl = 0 then scalarStep [a] (fun s => .ok s.advance) s
  else
    scalarStep (a :: s.stripRegs) (fun s =>
      match s.blocksDone with
      | .error w => .error w
      | .ok _ =>
        let vl := s.me.ctl.vl.toNat
        let k := firstZero s s.ownCtx (b.zeroExtend 6) vl
        let s := s.msetAll 0 ((List.range vl).map fun i => (i, decide (i < k)))
        let t := s.me.consume a k
        if k < vl then
          .ok { s with me := { t.dropEarly with ctl := { t.ctl with vl := BitVec.ofNat 64 k } } }.advance
        else
          match t.applyShape with
          | .error w => .error w
          | .ok t =>
            let t := s.me.keepEarly (t.grantVl (t.xget a))
            let s := { s with me := t }
            .ok (if t.ctl.vl = 0 then s.advance else s.jump (s.branchTo o))) s

/-! ## VFETCH (R73, R108, R206, R207) -/

/-- VFETCH. -/
def execVfetch (o : BitVec 21) (s : State) : Result :=
  scalarStep [] (fun s =>
    let target := s.jumpTo o
    if target.toNat % 8 ≠ 0 then s.illegal
    else if 8 ≤ s.me.queue.length then .error .wait
    else
      let (s, c) := s.scanned s.me.ctl.vtype target
      let direct := !c.ok || 16 < c.reads.length
      let wait := if direct then s.me.queue ≠ [] else c.reads.any fun r => s.me.pending r
      if wait then .error .wait
      else
        -- a direct block's registers can't change but by its own words, whose writes it doesn't see (R91)
        let caps := ((List.range 32).filter fun r => direct || c.reads.contains r).map fun r => (r, s.xget (BitVec.ofNat 5 r))
        -- early reads of this block under this outcome become its reads (R215)
        let early := match s.me.early with
          | some e => if e.target = target && e.ctl = s.me.ctl then e.reads else []
          | none => []
        let q : QEntry := { target := target, vpc := target, ctl := s.me.ctl, direct := direct,
                            caps := caps, writes := c.writes, work := c.work, early := early }
        let s := s.noteXlate s.me.ptroot target
        .ok { s with me := { s.me with queue := s.me.queue ++ [q], early := none } }.advance) s

/-! ## Control registers -/

/-- Armed counts of the instances that contain a core; all ones when none is armed (STOPCNT, R203). -/
def State.stopcnt (s : State) (core : Nat) : Word :=
  (s.armed.filter fun a => a.unit = unitOf a.scope core).foldl (fun m a => if a.count.toNat < m.toNat then a.count else m) allOnes

/-- GRANT (R300). -/
def Strand.grant (t : Strand) : Word :=
  BitVec.ofNat 64 (t.cur.toNat + 16 * t.recd.toNat +
    (if t.pend then 256 + 2 ^ 32 * Nat.min t.left (2 ^ 32 - 1) else 0))

/-- UNITS (R300). -/
def State.units (s : State) : Word := BitVec.ofNat 64 ((s.core s.me.core).unitsOfSlot s.me.slot)

/-- CR(selector) (R36, R203, R300, R364); none for an unassigned selector. -/
def State.crRead (s : State) (sel : Nat) : Option Word :=
  let t := s.me
  match sel with
  | 0x0001 => some t.ctl.vl
  | 0x0002 => some t.ctl.vtype
  | 0x0003 => some t.ctl.seed
  | 0x0004 => some t.ctl.sbase
  | 0x0005 => some t.ctl.stripcfg
  | 0x0006 => some t.wid
  | 0x0007 => some t.ctl.mvl
  | 0x0108 => some t.tcount
  | 0x0110 => some s.units
  | 0x0111 => some t.grant
  | 0x0200 => some (if t.priv then 1 else 0)
  | 0x0201 => some t.ptroot
  | 0x0202 => some (s.capture.zeroExtend 64)
  | 0x0203 => some (s.stopcnt t.core)
  | 0x0204 => some (s.core t.core).island
  | n => if 0x0100 ≤ n && n ≤ 0x0107 then some (BitVec.ofNat 64 (leNat ((t.trec.drop (8 * (n - 0x0100))).take 8))) else none

/-- Selectors that need privilege (R183, R203). -/
def privSel (sel : Nat) : Bool := 0x0201 ≤ sel && sel ≤ 0x02FF

/-- CRRD (R42). -/
def execCrrd (d : Reg) (sel : BitVec 16) (s : State) : Result :=
  scalarStep [d] (fun s =>
    match s.crRead sel.toNat with
    | none => s.illegal
    | some v => if privSel sel.toNat && !s.me.priv then fault .privilege s.me.pc else .ok (s.xset d v).advance) s

/-- A VTYPE value that CRWR accepts (R38). -/
def vtypeOk (v : Word) : Bool :=
  bits v.toNat 24 40 = 0 && bits v.toNat 4 4 = 0 && 4 ≤ vtypeSlc v && vtypeSlc v ≤ 8 && vtypeGrp v ≠ 3 && vtypeTcols v ≠ 3

/-- A STRIPCFG value that CRWR accepts (R39). -/
def stripcfgOk (v : Word) : Bool :=
  bits v.toNat 33 31 = 0 && (stripEntries v).all fun e => e.1 = 0 || e.2 ≤ 4

/-- An ISLAND value that CRWR accepts (R391). -/
def islandOk (v : Word) : Bool := (List.range 4).all fun k => bits v.toNat (16 * k + 2) 14 = 0

/-- A CAPTURE value that a write accepts (R203). -/
def captureOk (v : Word) : Bool := v.toNat < 3

/-- Selectors of the registers that software may write (R43, R203, R300, R364). -/
def crWritable (sel : Nat) : Bool :=
  sel = 0x0002 || sel = 0x0003 || sel = 0x0004 || sel = 0x0005 || sel = 0x0110 || sel = 0x0201 || sel = 0x0202 || sel = 0x0204

/-- The values that each writable selector accepts (R38, R39, R203, R300, R391). -/
def crAccepts (sel : Nat) (v : Word) : Bool :=
  match sel with
  | 0x0002 => vtypeOk v
  | 0x0003 | 0x0004 | 0x0201 => true
  | 0x0005 => stripcfgOk v
  | 0x0110 => bits v.toNat 21 43 = 0
  | 0x0202 => captureOk v
  | 0x0204 => islandOk v
  | _ => false

/-- A braid tile of the strand whose epoch is open (R172). -/
def State.openTile (s : State) (t : Strand) : Option Nat :=
  match s.braids.find? fun b => b.cluster = clusterOf t.core && b.open_ &&
      b.members.any fun m => m.index = t.core % 4 && m.slot = t.slot && !m.gone with
  | some b => some b.tile
  | none => none

/-- A write to UNITS (R300): after the earlier blocks, and after an open epoch if it releases the braid tile. -/
def State.writeUnits (s : State) (v : Word) : Except Stop State :=
  match s.blocksDone with
  | .error e => .error e
  | .ok _ =>
    let c := s.core s.me.core
    let drop := (c.units.filter fun e => e.2 = s.me.slot && !v.getLsbD e.1).map (·.1)
    match s.openTile s.me with
    | some t => if drop.contains t then .error .wait else .ok (s.setCore s.me.core (drop.foldl (fun c u => c.releaseUnit u) c))
    | none => .ok (s.setCore s.me.core (drop.foldl (fun c u => c.releaseUnit u) c))

/-- CR(selector) <- v, for an accepted value. -/
def State.crWrite (s : State) (sel : Nat) (v : Word) : Except Stop State :=
  let put := fun (c : Ctl) => Except.ok { s with me := { s.me with ctl := c } }
  match sel with
  | 0x0002 => put { s.me.ctl with vtype := setBits v 0 4 (bits s.me.ctl.vtype.toNat 0 4) }
  | 0x0003 => put { s.me.ctl with seed := v }
  | 0x0004 => put { s.me.ctl with sbase := v }
  | 0x0005 => put { s.me.ctl with stripcfg := v }
  | 0x0110 => s.writeUnits v
  | 0x0201 => .ok { s with me := { s.me with ptroot := v } }
  | 0x0202 => .ok { s with captureNext := some (v.truncate 2), captureBy := s.scc.toNat + 1024 }
  | _ => .ok (s.setCore s.me.core { s.core s.me.core with island := v })

/-- CRWR (R43): the selector and the value, as every ILLEGAL-ENCODING case ranks before privilege (R88), then the privilege
that the selector asks (R183). A write to CAPTURE waits for its SCC edge (CAPTURE_WRITE). -/
def execCrwr (a : Reg) (sel : BitVec 16) (s : State) : Result :=
  scalarStep [a] (fun s =>
    let v := s.xget a
    if !crWritable sel.toNat || !crAccepts sel.toNat v then s.illegal
    else if privSel sel.toNat && !s.me.priv then fault .privilege s.me.pc
    else match s.crWrite sel.toNat v with
      | .error e => .error e
      | .ok s => .ok s.advance) s

/-- UNITS_WRITE: the write alone (R300). -/
def execUnitsWrite (v : Word) (s : State) : Result :=
  match s.writeUnits v with
  | .ok t => .next t
  | .error _ => .next s

/-- CAPTURE_WRITE: a write takes effect in the whole module on one SCC edge: firmware's, or the one a strand made (R203). -/
def execCaptureWrite (firmware : Option Word) (s : State) : Result :=
  match firmware, s.captureNext with
  | some v, _ =>
    firmwareStep (fun s => if captureOk v then { s with capture := v.truncate 2, captureNext := none } else s) s
  | none, some c => .next { s with capture := c, captureNext := none }
  | none, none => .next s

end Sys2Proof.Machine
end

