-- ==== Sys2Proof/Machine/VectorCore.lean ====
section
/-! DEFINITION. The frame of a vector word (R78, R80, R88, R210): its context, how it stops, and the one-word convoy that it
makes by itself. Convoys of several words stand in Convoys.lean. -/
namespace Sys2Proof.Machine

/-- Why a vector word does not complete. -/
inductive VStop where
  | fault (f : FaultInfo)
  /-- It waits: a VWAIT with the elements satisfied so far (R152), or a word that the braid holds back (R171, R172). -/
  | wait (done : List Nat)
  deriving DecidableEq, Repr

/-- What a vector word does under a context; its convoy's retirement is not part of it. -/
abbrev VRun := VCtx → State → Except VStop State

/-- A fault of execution of a vector word (R137). -/
def vfault {α : Type} (k : FaultKind) (elem : Word := allOnes) (addr : Word := 0) (detail : Nat := 0) : Except VStop α :=
  .error (.fault { kind := k, elem := elem, addr := addr, detail := detail })

/-- Lifts the stop of a scalar check to an element of a vector word. -/
def vstop {α : Type} (elem : Word) : Except Stop α → Except VStop α
  | .ok a => .ok a
  | .error (.fault f) => .error (.fault { f with elem := elem })
  | .error .wait => .error (.wait [])

/-- A word that can't fault. -/
def vpure (f : VCtx → State → State) : VRun := fun c s => .ok (f c s)

/-- The context of the words of the convoy that issues next. -/
def State.vctx (s : State) : VCtx :=
  match s.me.queue with
  | q :: _ => { ctl := q.ctl, regs := capsOf q, addr := q.vpc, convoy := s.nextSerial }
  | [] => s.ownCtx

/-- The convoy has retired: VPC moves past its words. -/
def State.retire (s : State) (words : Nat) : State :=
  { s with me := { s.me.setVpc (s.vctx.addr + BitVec.ofNat 64 (8 * words)) with
                   issued := none, vwaitDone := [], vwaitAt := 0, timedOut := false,
                   parked := if s.me.parked = .vwait then .no else s.me.parked } }

/-- The convoy stays where it is, parked if it holds a VWAIT (R152). -/
def State.vpark (s : State) (done : List Nat) (vwait : Bool) : State :=
  { s with me := { s.me with vwaitDone := done, vwaitAt := s.vctx.addr,
                             parked := if vwait then .vwait else if s.me.parked = .vwait then .no else s.me.parked } }

/-- The convoy faults: its trap record names it and the word's index, and the sequencer halts before it (R80, R361). A convoy
that faults while a record already holds the strand is issued again later (R365). -/
def State.convoyTrap (s : State) (f : FaultInfo) (widx : Nat) : State :=
  let vpc := s.vctx.addr
  let u := { s with me := { s.me with issued := none, vwaitDone := [], vwaitAt := 0, disarms := [] } }
  if f.waits then s
  else if s.me.held ≠ .no then u
  else if (s.finishStrand s.me).unfinished s.me then { s.finishStrand s.me with me := s.me }
  else u.takeTrap f vpc true widx

/-- Memory work of words, by the keys of `workOf`. -/
def worksOf (ws : List Instr) : List Nat := ws.flatMap workOf

/-- Work of a convoy after a fence that waits for that fence's earlier side: under FENCE.C every access (R110), under FENCE.X
those of the second class and every release (R111, R235), under FVV the VEC ones, under FSV all that reach memory (R109). -/
def Debt.holds (d : Debt) (key : Nat) : Bool :=
  d.blocks = 0 &&
  ((d.all && key < 11) || (d.next.isSome && key = 12) || (key = 8 && d.next = some 3) || (key = 10 && d.next = some 1) ||
   (key = 9 && (d.next = some 0 || (d.vec && d.next.isNone))) || (d.fsv && 8 ≤ key && key ≤ 10))

/-- Before words that reach memory the stores of fences that only wait for them are performed. -/
def State.beforeWords (s : State) (ws : List Instr) : State := if worksOf ws = [] then s else s.payDebts

/-- A fence that is not complete holds the words back. -/
def State.fenceWaits (s : State) (ws : List Instr) : Bool := (worksOf ws).any fun k => s.me.debts.any fun d => d.holds k

/-- A vector word as a convoy of its own: decode checks, unit grants, execution, retirement. Units granted stay granted when
it faults or waits (R80). -/
def vectorStep (i : Instr) (run : VRun) (s : State) : Result :=
  let c := s.vctx
  match s.wordCheck c.ctl.vtype i c.addr with
  | some f => .next (s.convoyTrap f 0)
  | none =>
    let s := (s.grantUnits (instrUnits i)).beforeWords [i]
    if s.fenceWaits [i] then .next s
    else match run c s with
    | .ok t => .next (t.retire 1)
    | .error (.fault f) => .next (s.convoyTrap f 0)
    | .error (.wait done) => .next (s.vpark done (match i with | .vwait _ => true | _ => false))

/-! ## Scalar results (R91, R116) -/

/-- x[VD] of a word that writes a scalar register. -/
def State.vxset (s : State) (r : BitVec 6) (v : Word) : State :=
  { s with me := s.me.xset (r.truncate 5) v }

/-- A W-bit pattern as a scalar register's value: sign-extended for signed formats (R116). -/
def scalarOf (fmt v : Nat) : Word := if isSigned fmt then BitVec.ofInt 64 (sx v (ew fmt)) else BitVec.ofNat 64 v

end Sys2Proof.Machine
end

