-- ==== Sys2Proof/Machine/VectorArith.lean ====
section
/-! DEFINITION. The ARITH class (R114 to R127): floating-point and integer arithmetic, compares, moves, conversions and mask
logic. Each word reads every source before it writes (R11). -/
namespace Sys2Proof.Machine

/-! ## Operands (R114, R115) -/

/-- The source element that XL selects for element i; none where it delivers zero (R115). -/
def xlIndex (xl i vl : Nat) : Option Nat :=
  let d := 2 ^ bits xl 0 3
  let j : Option Nat :=
    match bits xl 3 2 with
    | 0 => some i
    | 1 => some (i ^^^ d)
    | 2 => if d ≤ i % (2 * d) then some (i - d) else none
    | _ => if i % (2 * d) < d then some (i + d) else none
  match j with
  | some j => if bits xl 3 2 = 0 || j < vl then some j else none
  | none => none

/-- XLSRC at a width (R115). -/
def State.xlsrc (s : State) (c : VCtx) (w : VWord) (W i : Nat) : Nat :=
  match xlIndex w.xl.toNat i c.vl with
  | some j => s.vget c w.va W j
  | none => 0

/-- The second source B(i) (R114). -/
def State.bsrc (s : State) (c : VCtx) (w : VWord) (W i : Nat) : Nat :=
  match w.bsel with
  | 0 => s.vget c w.vb W i
  | 1 => (c.x w.vb).toNat % 2 ^ W
  | _ => trunc (sx (w.fnBits 2 12) 12) W

/-- Writes v(i) into every element of VD below VL that is not masked, as its format holds it (R45). -/
def elementwise (w : VWord) (v : VCtx → State → Nat → Nat) : VRun :=
  vpure fun c s => s.esetAll c w.vd w.f ((s.active c w).map fun i => (i, v c s i))

/-- A mask-writing word (R117). -/
def maskwise (w : VWord) (b : VCtx → State → Nat → Bool) : VRun :=
  vpure fun c s => s.msetAll w.vd ((s.active c w).map fun i => (i, b c s i))

/-! ## Floating point (R118 to R120) -/

/-- One rounding of f(a, b, c) for each element (R118). -/
def floatRun (w : VWord) (f : Nat → FVal → FVal → FVal → FVal) : VRun :=
  elementwise w fun c s i =>
    let W := ew w.f
    let a := fpDecode w.f (s.xlsrc c w W i)
    let b := fpDecode w.f (s.bsrc c w W i)
    let x := fpDecode w.f (s.vget c w.vc W i)
    roundVal w.f (c.rm w) (c.sr i) (f (c.rm w) a b x)

/-- A pattern of a and b (R119). -/
def patRun (w : VWord) (f : Nat → Nat → Nat → Nat) : VRun :=
  elementwise w fun c s i => f w.f (s.xlsrc c w (ew w.f) i) (s.bsrc c w (ew w.f) i)

/-- a with its sign bit chosen from both signs; a NaN gives the canonical NaN (R119). -/
def signInject (g : Nat → Nat → Nat) (fmt a b : Nat) : Nat :=
  let n := ew fmt - 1
  if (fpDecode fmt a).isNaN then fpNaN fmt else a % 2 ^ n + g (bits a n 1) (bits b n 1) % 2 * 2 ^ n

/-- The exact value 1. -/
def fone : FVal := .fin false 1 0

/-! ## Integers (R121, R122) -/

/-- TRUNC of an exact integer function of a and b, signed by format. -/
def intRun (w : VWord) (f : Nat → Int → Int → Int) : VRun :=
  elementwise w fun c s i =>
    let W := ew w.f
    trunc (f W (readInt w.f (s.xlsrc c w W i)) (readInt w.f (s.bsrc c w W i))) W

/-- A function of the patterns of a and b. -/
def bitRun (w : VWord) (f : Nat → Nat → Nat → Nat) : VRun :=
  elementwise w fun c s i =>
    let W := ew w.f
    f W (s.xlsrc c w W i) (s.bsrc c w W i) % 2 ^ W

/-- A function of the pattern of a. -/
def unaryRun (w : VWord) (f : Nat → Nat → Nat) : VRun :=
  elementwise w fun c s i => f (ew w.f) (s.xlsrc c w (ew w.f) i) % 2 ^ ew w.f

/-- SAT into the format's range (R122). -/
def satRun (w : VWord) (f : Int → Int → Int) : VRun :=
  elementwise w fun c s i =>
    let W := ew w.f
    trunc (sat (f (readInt w.f (s.xlsrc c w W i)) (readInt w.f (s.bsrc c w W i))) (intLo w.f) (intHi w.f)) W

/-- Arithmetic modulo q = x[VC] at width W, 2^W for 0 (R122). -/
def modRun (w : VWord) (f : Int → Int → Int) : VRun :=
  elementwise w fun c s i =>
    let W := ew w.f
    let q0 := (c.x w.vc).toNat % 2 ^ W
    let q : Nat := if q0 = 0 then 2 ^ W else q0
    (f (s.xlsrc c w W i) (s.bsrc c w W i) % (q : Int)).toNat

/-- VDIV (R121). -/
def vdivVal (signed : Bool) (W : Nat) (a b : Int) : Int :=
  if signed then
    if b = 0 then (if 0 < a then 2 ^ (W - 1) - 1 else if a < 0 then -(2 ^ (W - 1)) else 0)
    else if a = -(2 ^ (W - 1)) && b = -1 then 2 ^ (W - 1) - 1
    else a.tdiv b
  else if b = 0 then (if 0 < a then 2 ^ W - 1 else 0)
  else a / b

/-- VREM (R121). -/
def vremVal (a b : Int) : Int := if b = 0 then 0 else a.tmod b

/-- Leading zero bits among the W bits. -/
def vclzVal (W a : Nat) : Nat := if a = 0 then W else W - 1 - Nat.log2 a

/-- Bits [lo + n - 1 : lo] of a register's image; bits past its RB bytes read 0 (R126). -/
def packedBits (m : Image) (rb r lo n : Nat) : Nat :=
  let b := lo / 8
  let at_ := fun k => if b + k < rb then (imgGet m (65536 * r + (b + k))).toNat else 0
  bits (((List.range 9).map fun k => at_ k * 256 ^ k).foldl (· + ·) 0) (lo % 8) n

/-! ## Floating-point words -/

/-- VFADD: a + b (R118). -/
def vfaddRun (w : VWord) : VRun := floatRun w fun rm a b _ => fsumExact rm [a, b]
/-- VFADD as a convoy of its own. -/
def execVfadd (w : VWord) (s : State) : Result := vectorStep (.vfadd w) (vfaddRun w) s

/-- VFSUB: a - b (R118). -/
def vfsubRun (w : VWord) : VRun := floatRun w fun rm a b _ => fsumExact rm [a, b.negate]
/-- VFSUB as a convoy of its own. -/
def execVfsub (w : VWord) (s : State) : Result := vectorStep (.vfsub w) (vfsubRun w) s

/-- VFMUL: a × b (R118). -/
def vfmulRun (w : VWord) : VRun := floatRun w fun _ a b _ => fmulExact a b
/-- VFMUL as a convoy of its own. -/
def execVfmul (w : VWord) (s : State) : Result := vectorStep (.vfmul w) (vfmulRun w) s

/-- VFDIV: a / b (R118). -/
def vfdivRun (w : VWord) : VRun := floatRun w fun _ a b _ => fdivExact a b
/-- VFDIV as a convoy of its own. -/
def execVfdiv (w : VWord) (s : State) : Result := vectorStep (.vfdiv w) (vfdivRun w) s

/-- VFSQRT: √a (R118). -/
def vfsqrtRun (w : VWord) : VRun := floatRun w fun _ a _ _ => fsqrtExact a
/-- VFSQRT as a convoy of its own. -/
def execVfsqrt (w : VWord) (s : State) : Result := vectorStep (.vfsqrt w) (vfsqrtRun w) s

/-- VFMA: a × b + c, rounded once (R118). -/
def vfmaRun (w : VWord) : VRun := floatRun w fun rm a b x => fsumExact rm [fmulExact a b, x]
/-- VFMA as a convoy of its own. -/
def execVfma (w : VWord) (s : State) : Result := vectorStep (.vfma w) (vfmaRun w) s

/-- VFMS: a × b - c (R118). -/
def vfmsRun (w : VWord) : VRun := floatRun w fun rm a b x => fsumExact rm [fmulExact a b, x.negate]
/-- VFMS as a convoy of its own. -/
def execVfms (w : VWord) (s : State) : Result := vectorStep (.vfms w) (vfmsRun w) s

/-- VFNMA: -(a × b) + c (R118). -/
def vfnmaRun (w : VWord) : VRun := floatRun w fun rm a b x => fsumExact rm [(fmulExact a b).negate, x]
/-- VFNMA as a convoy of its own. -/
def execVfnma (w : VWord) (s : State) : Result := vectorStep (.vfnma w) (vfnmaRun w) s

/-- VFNMS: -(a × b) - c (R118). -/
def vfnmsRun (w : VWord) : VRun := floatRun w fun rm a b x => fsumExact rm [(fmulExact a b).negate, x.negate]
/-- VFNMS as a convoy of its own. -/
def execVfnms (w : VWord) (s : State) : Result := vectorStep (.vfnms w) (vfnmsRun w) s

/-- VFMIN (R119). -/
def vfminRun (w : VWord) : VRun := patRun w fminPat
/-- VFMIN as a convoy of its own. -/
def execVfmin (w : VWord) (s : State) : Result := vectorStep (.vfmin w) (vfminRun w) s

/-- VFMAX (R119). -/
def vfmaxRun (w : VWord) : VRun := patRun w fmaxPat
/-- VFMAX as a convoy of its own. -/
def execVfmax (w : VWord) (s : State) : Result := vectorStep (.vfmax w) (vfmaxRun w) s

/-- VFSGNJ: the sign of b (R119). -/
def vfsgnjRun (w : VWord) : VRun := patRun w (signInject fun _ b => b)
/-- VFSGNJ as a convoy of its own. -/
def execVfsgnj (w : VWord) (s : State) : Result := vectorStep (.vfsgnj w) (vfsgnjRun w) s

/-- VFSGNJN: the inverted sign of b (R119). -/
def vfsgnjnRun (w : VWord) : VRun := patRun w (signInject fun _ b => 1 - b)
/-- VFSGNJN as a convoy of its own. -/
def execVfsgnjn (w : VWord) (s : State) : Result := vectorStep (.vfsgnjn w) (vfsgnjnRun w) s

/-- VFSGNJX: the exclusive or of both signs (R119). -/
def vfsgnjxRun (w : VWord) : VRun := patRun w (signInject fun a b => a + b)
/-- VFSGNJX as a convoy of its own. -/
def execVfsgnjx (w : VWord) (s : State) : Result := vectorStep (.vfsgnjx w) (vfsgnjxRun w) s

/-- VFCLASS: whether the class of a lies in SET (R119). -/
def vfclassRun (w : VWord) : VRun := maskwise w fun c s i => w.fnBits (fclass w.f (s.xlsrc c w (ew w.f) i)) 1 = 1
/-- VFCLASS as a convoy of its own. -/
def execVfclass (w : VWord) (s : State) : Result := vectorStep (.vfclass w) (vfclassRun w) s

/-- VFRECE: 1/a to 12 significant bits (R120). -/
def vfreceRun (w : VWord) : VRun :=
  elementwise w fun c s i => roundEstimate w.f (fdivExact fone (fpDecode w.f (s.xlsrc c w (ew w.f) i)))
/-- VFRECE as a convoy of its own. -/
def execVfrece (w : VWord) (s : State) : Result := vectorStep (.vfrece w) (vfreceRun w) s

/-- VFRSQE: 1/√a to 12 significant bits (R120). -/
def vfrsqeRun (w : VWord) : VRun :=
  elementwise w fun c s i => roundEstimate w.f (frsqExact (fpDecode w.f (s.xlsrc c w (ew w.f) i)))
/-- VFRSQE as a convoy of its own. -/
def execVfrsqe (w : VWord) (s : State) : Result := vectorStep (.vfrsqe w) (vfrsqeRun w) s

/-! ## Integer words -/

/-- VADD (R121). -/
def vaddRun (w : VWord) : VRun := intRun w fun _ a b => a + b
/-- VADD as a convoy of its own. -/
def execVadd (w : VWord) (s : State) : Result := vectorStep (.vadd w) (vaddRun w) s

/-- VSUB (R121). -/
def vsubRun (w : VWord) : VRun := intRun w fun _ a b => a - b
/-- VSUB as a convoy of its own. -/
def execVsub (w : VWord) (s : State) : Result := vectorStep (.vsub w) (vsubRun w) s

/-- VRSUB: b - a (R121). -/
def vrsubRun (w : VWord) : VRun := intRun w fun _ a b => b - a
/-- VRSUB as a convoy of its own. -/
def execVrsub (w : VWord) (s : State) : Result := vectorStep (.vrsub w) (vrsubRun w) s

/-- VMUL (R121). -/
def vmulRun (w : VWord) : VRun := intRun w fun _ a b => a * b
/-- VMUL as a convoy of its own. -/
def execVmul (w : VWord) (s : State) : Result := vectorStep (.vmul w) (vmulRun w) s

/-- VMULH: the high half (R121). -/
def vmulhRun (w : VWord) : VRun := intRun w fun W a b => a * b / 2 ^ W
/-- VMULH as a convoy of its own. -/
def execVmulh (w : VWord) (s : State) : Result := vectorStep (.vmulh w) (vmulhRun w) s

/-- VDIV (R121). -/
def vdivRun (w : VWord) : VRun := intRun w (vdivVal (isSigned w.f))
/-- VDIV as a convoy of its own. -/
def execVdiv (w : VWord) (s : State) : Result := vectorStep (.vdiv w) (vdivRun w) s

/-- VREM (R121). -/
def vremRun (w : VWord) : VRun := intRun w fun _ a b => vremVal a b
/-- VREM as a convoy of its own. -/
def execVrem (w : VWord) (s : State) : Result := vectorStep (.vrem w) (vremRun w) s

/-- VMIN (R121). -/
def vminRun (w : VWord) : VRun := intRun w fun _ a b => if b < a then b else a
/-- VMIN as a convoy of its own. -/
def execVmin (w : VWord) (s : State) : Result := vectorStep (.vmin w) (vminRun w) s

/-- VMAX (R121). -/
def vmaxRun (w : VWord) : VRun := intRun w fun _ a b => if a < b then b else a
/-- VMAX as a convoy of its own. -/
def execVmax (w : VWord) (s : State) : Result := vectorStep (.vmax w) (vmaxRun w) s

/-- VAND (R121). -/
def vandRun (w : VWord) : VRun := bitRun w fun _ a b => a &&& b
/-- VAND as a convoy of its own. -/
def execVand (w : VWord) (s : State) : Result := vectorStep (.vand w) (vandRun w) s

/-- VOR (R121). -/
def vorRun (w : VWord) : VRun := bitRun w fun _ a b => a ||| b
/-- VOR as a convoy of its own. -/
def execVor (w : VWord) (s : State) : Result := vectorStep (.vor w) (vorRun w) s

/-- VXOR (R121). -/
def vxorRun (w : VWord) : VRun := bitRun w fun _ a b => a ^^^ b
/-- VXOR as a convoy of its own. -/
def execVxor (w : VWord) (s : State) : Result := vectorStep (.vxor w) (vxorRun w) s

/-- VSLL: a << (b mod W) (R121). -/
def vsllRun (w : VWord) : VRun := bitRun w fun W a b => a * 2 ^ (b % W)
/-- VSLL as a convoy of its own. -/
def execVsll (w : VWord) (s : State) : Result := vectorStep (.vsll w) (vsllRun w) s

/-- VSRL (R121). -/
def vsrlRun (w : VWord) : VRun := bitRun w fun W a b => a / 2 ^ (b % W)
/-- VSRL as a convoy of its own. -/
def execVsrl (w : VWord) (s : State) : Result := vectorStep (.vsrl w) (vsrlRun w) s

/-- VSRA: reads a as signed in every format (R121). -/
def vsraRun (w : VWord) : VRun := bitRun w fun W a b => trunc (sx a W / 2 ^ (b % W)) W
/-- VSRA as a convoy of its own. -/
def execVsra (w : VWord) (s : State) : Result := vectorStep (.vsra w) (vsraRun w) s

/-- VMADD: a × b + c (R121). -/
def vmaddRun (w : VWord) : VRun := elementwise w fun c s i =>
    let W := ew w.f
    (s.xlsrc c w W i * s.bsrc c w W i + s.vget c w.vc W i) % 2 ^ W
/-- VMADD as a convoy of its own. -/
def execVmadd (w : VWord) (s : State) : Result := vectorStep (.vmadd w) (vmaddRun w) s

/-- VADDS (R122). -/
def vaddsRun (w : VWord) : VRun := satRun w fun a b => a + b
/-- VADDS as a convoy of its own. -/
def execVadds (w : VWord) (s : State) : Result := vectorStep (.vadds w) (vaddsRun w) s

/-- VSUBS (R122). -/
def vsubsRun (w : VWord) : VRun := satRun w fun a b => a - b
/-- VSUBS as a convoy of its own. -/
def execVsubs (w : VWord) (s : State) : Result := vectorStep (.vsubs w) (vsubsRun w) s

/-- VMULS (R122). -/
def vmulsRun (w : VWord) : VRun := satRun w fun a b => a * b
/-- VMULS as a convoy of its own. -/
def execVmuls (w : VWord) (s : State) : Result := vectorStep (.vmuls w) (vmulsRun w) s

/-- VABS: saturates (R122). -/
def vabsRun (w : VWord) : VRun := unaryRun w fun W a => trunc (sat (sx a W).natAbs 0 (2 ^ (W - 1) - 1)) W
/-- VABS as a convoy of its own. -/
def execVabs (w : VWord) (s : State) : Result := vectorStep (.vabs w) (vabsRun w) s

/-- VCLZ (R122). -/
def vclzRun (w : VWord) : VRun := unaryRun w vclzVal
/-- VCLZ as a convoy of its own. -/
def execVclz (w : VWord) (s : State) : Result := vectorStep (.vclz w) (vclzRun w) s

/-- VPOPC (R122). -/
def vpopcRun (w : VWord) : VRun := unaryRun w popc
/-- VPOPC as a convoy of its own. -/
def execVpopc (w : VWord) (s : State) : Result := vectorStep (.vpopc w) (vpopcRun w) s

/-- VADDM (R122). -/
def vaddmRun (w : VWord) : VRun := modRun w fun a b => a + b
/-- VADDM as a convoy of its own. -/
def execVaddm (w : VWord) (s : State) : Result := vectorStep (.vaddm w) (vaddmRun w) s

/-- VSUBM (R122). -/
def vsubmRun (w : VWord) : VRun := modRun w fun a b => a - b
/-- VSUBM as a convoy of its own. -/
def execVsubm (w : VWord) (s : State) : Result := vectorStep (.vsubm w) (vsubmRun w) s

/-- VMULM (R122). -/
def vmulmRun (w : VWord) : VRun := modRun w fun a b => a * b
/-- VMULM as a convoy of its own. -/
def execVmulm (w : VWord) (s : State) : Result := vectorStep (.vmulm w) (vmulmRun w) s

/-- VAVG: floor((a + b + 1) / 2) (R122). -/
def vavgRun (w : VWord) : VRun := intRun w fun _ a b => (a + b + 1) / 2
/-- VAVG as a convoy of its own. -/
def execVavg (w : VWord) (s : State) : Result := vectorStep (.vavg w) (vavgRun w) s

/-! ## Compares, moves, conversions and masks -/

/-- VCMP (R123). -/
def vcmpRun (w : VWord) : VRun := maskwise w fun c s i =>
    let W := ew w.f
    let a := s.xlsrc c w W i
    let b := s.bsrc c w W i
    if isInt w.f then icond (w.fnBits 2 4) (readInt w.f a) (readInt w.f b)
    else fcond (w.fnBits 2 4) (fpDecode w.f a) (fpDecode w.f b)
/-- VCMP as a convoy of its own. -/
def execVcmp (w : VWord) (s : State) : Result := vectorStep (.vcmp w) (vcmpRun w) s

/-- VMERGE: v0 selects; every element below VL is written (R124). -/
def vmergeRun (w : VWord) : VRun :=
  elementwise w fun c s i => if s.mbit 0 i then s.xlsrc c w (ew w.f) i else s.bsrc c w (ew w.f) i
/-- VMERGE as a convoy of its own. -/
def execVmerge (w : VWord) (s : State) : Result := vectorStep (.vmerge w) (vmergeRun w) s

/-- VMV (R124). -/
def vmvRun (w : VWord) : VRun := elementwise w fun c s i => s.xlsrc c w (ew w.f) i
/-- VMV as a convoy of its own. -/
def execVmv (w : VWord) (s : State) : Result := vectorStep (.vmv w) (vmvRun w) s

/-- VSPLAT of a scalar register (R124). -/
def vsplatRun (w : VWord) : VRun := elementwise w fun c _ _ => (c.x w.va).toNat % 2 ^ ew w.f
/-- VSPLAT of a scalar register as a convoy of its own. -/
def execVsplat (w : VWord) (s : State) : Result := vectorStep (.vsplat w) (vsplatRun w) s

/-- VSPLAT of an immediate (R124). -/
def vsplatImmRun (w : VWord) : VRun := elementwise w fun _ _ _ => trunc (sx (w.fnBits 1 13) 13) (ew w.f)
/-- VSPLAT of an immediate as a convoy of its own. -/
def execVsplatImm (w : VWord) (s : State) : Result := vectorStep (.vsplatImm w) (vsplatImmRun w) s

/-- VID: x[VA] + i (R124). -/
def vidRun (w : VWord) : VRun := elementwise w fun c _ i => ((c.x w.va).toNat + i) % 2 ^ ew w.f
/-- VID as a convoy of its own. -/
def execVid (w : VWord) (s : State) : Result := vectorStep (.vid w) (vidRun w) s

/-- VCVT: each operand at its own width (R125). -/
def vcvtRun (w : VWord) : VRun := elementwise w fun c s i =>
    let sf := w.fnBits 0 5
    convert w.f sf (c.rm w) (c.sr i) (w.fnBits 5 1 = 1) (s.xlsrc c w (ew sf) i)
/-- VCVT as a convoy of its own. -/
def execVcvt (w : VWord) (s : State) : Result := vectorStep (.vcvt w) (vcvtRun w) s

/-- VUNPACK: fields of w bits from bit x[VB] of the one register va; bits past it read 0 (R126). -/
def vunpackRun (w : VWord) : VRun := elementwise w fun c s i =>
    let n := w.fnBits 0 6 + 1
    let lo := (c.x w.vb).toNat + n * i
    let v := packedBits s.me.vregs (c.rb s) w.va.toNat lo n
    if w.fnBits 6 1 = 1 then trunc (sx v n) (ew w.f) else v
/-- VUNPACK as a convoy of its own. -/
def execVunpack (w : VWord) (s : State) : Result := vectorStep (.vunpack w) (vunpackRun w) s

/-- VMAND (R127). -/
def vmandRun (w : VWord) : VRun := maskwise w fun _ s i => s.mbit w.va i && s.mbit w.vb i
/-- VMAND as a convoy of its own. -/
def execVmand (w : VWord) (s : State) : Result := vectorStep (.vmand w) (vmandRun w) s

/-- VMOR (R127). -/
def vmorRun (w : VWord) : VRun := maskwise w fun _ s i => s.mbit w.va i || s.mbit w.vb i
/-- VMOR as a convoy of its own. -/
def execVmor (w : VWord) (s : State) : Result := vectorStep (.vmor w) (vmorRun w) s

/-- VMXOR (R127). -/
def vmxorRun (w : VWord) : VRun := maskwise w fun _ s i => s.mbit w.va i != s.mbit w.vb i
/-- VMXOR as a convoy of its own. -/
def execVmxor (w : VWord) (s : State) : Result := vectorStep (.vmxor w) (vmxorRun w) s

/-- VMANDN (R127). -/
def vmandnRun (w : VWord) : VRun := maskwise w fun _ s i => s.mbit w.va i && !s.mbit w.vb i
/-- VMANDN as a convoy of its own. -/
def execVmandn (w : VWord) (s : State) : Result := vectorStep (.vmandn w) (vmandnRun w) s

end Sys2Proof.Machine
end

