-- ==== Sys2Proof/Machine/VectorCross.lean ====
section
/-! DEFINITION. The CROSS class (R116, R128 to R133, R191, R192, R194): reductions, mask scans, compress and expand, lookups,
permutes, slides, expert routing and the index scratchpad. -/
namespace Sys2Proof.Machine

/-! ## Reductions (R128, R129) -/

/-- An integer reduction of the active elements and the scalar input; exact, so their order is irrelevant (R128). -/
def intReduce (w : VWord) (f : Int → Int → Int) : VRun :=
  vpure fun c s =>
    let W := ew w.f
    let r := (s.active c w).foldl (fun a i => f a (readInt w.f (s.vget c w.va W i)))
      (readInt w.f ((c.x w.vb).toNat % 2 ^ W))
    s.vxset w.vd (scalarOf w.f (trunc r W))

/-- A bitwise reduction (R128). -/
def bitReduce (w : VWord) (f : Nat → Nat → Nat) : VRun :=
  vpure fun c s =>
    let W := ew w.f
    let r := (s.active c w).foldl (fun a i => f a (s.vget c w.va W i)) ((c.x w.vb).toNat % 2 ^ W)
    s.vxset w.vd (scalarOf w.f (r % 2 ^ W))

/-- One level of the tree of R129: neighbours at distance w combine, the lower index keeping the result. `j` is the index of
the first entry of the list, which holds every w-th element. -/
def treeLevel (add : Nat → Nat → Nat → Nat) (w : Nat) : Nat → List (Option Nat) → List (Option Nat)
  | j, a :: b :: t =>
    (match a, b with
     | none, y => y
     | x, none => x
     | some x, some y => some (add (j + w) x y)) :: treeLevel add w (j + 2 * w) t
  | _, t => t

/-- The tree: `fuel` levels are enough when 2^fuel is at least the length. -/
def reduceTree (add : Nat → Nat → Nat → Nat) : (fuel w : Nat) → List (Option Nat) → Option Nat
  | 0, _, t => t.head?.join
  | n + 1, w, t => if t.length ≤ 1 then t.head?.join else reduceTree add n (2 * w) (treeLevel add w 0 t)

/-- One addition of VFREDSUM, at an element index (R129). -/
def redAdd (c : VCtx) (w : VWord) (i a b : Nat) : Nat :=
  roundVal w.f (c.rm w) (c.sr i) (fsumExact (c.rm w) [fpDecode w.f a, fpDecode w.f b])

/-- A floating-point minimum or maximum over the active elements (R129). -/
def patReduce (w : VWord) (f : Nat → Nat → Nat → Nat) : VRun :=
  vpure fun c s =>
    let W := ew w.f
    let r := (s.active c w).foldl (fun a i => f w.f a (s.vget c w.va W i)) ((c.x w.vb).toNat % 2 ^ W)
    s.vxset w.vd (BitVec.ofNat 64 r)

/-! ## Mask scans (R130) -/

/-- The elements with act(j). -/
def State.acts (s : State) (c : VCtx) (w : VWord) : List Nat := (s.active c w).filter fun j => s.mbit w.va j

/-! ## Slides and tables (R132, R133) -/

/-- Bits of the register or group of a field at width W (R28, R132). VROUTE's E uses it too: the model's choice (log 124), as R194 does
not say whether the register bytes of vc are RB of one register (R26) or those of the whole group where W exceeds LEW. -/
def groupBits (c : VCtx) (s : State) (W : Nat) : Nat := 8 * c.rb s * groupSize c.lew W

/-! ## The index scratchpad (R191, R192) -/

/-- SET(k): the exclusive or of the eight bytes of a key (R191). -/
def ixSet (k : Word) : Nat := (List.range 8).foldl (fun a j => a ^^^ bits k.toNat (8 * j) 8) 0

/-- Position and value of a key that is present. -/
def ixFind (l : List (Nat × Word × Word)) (k : Word) : Option (Nat × Word) :=
  (l.find? fun e => e.2.1 = k).map fun e => (e.1, e.2.2)

/-- The lowest free way of a key's set, as a position. -/
def ixFree (l : List (Nat × Word × Word)) (k : Word) : Option Nat :=
  ((List.range 16).map fun n => 16 * ixSet k + n).find? fun p => !l.any fun e => e.1 = p

/-- Puts an entry at a position, keeping positions ascending. -/
def ixPut (l : List (Nat × Word × Word)) (p : Nat) (k v : Word) : List (Nat × Word × Word) := assocSet l p (k, v)

/-- IXINS and IXACC of one element: the entries after it, and its mask bit (R192). -/
def ixUpdate (upd : Word → Word) (l : List (Nat × Word × Word)) (k b : Word) : List (Nat × Word × Word) × Bool :=
  match ixFind l k with
  | some (p, v) => (ixPut l p k (upd v), true)
  | none =>
    match ixFree l k with
    | some p => (ixPut l p k b, true)
    | none => (l, false)

def State.ix (s : State) : List (Nat × Word × Word) := (s.core s.me.core).ix
def State.setIx (s : State) (l : List (Nat × Word × Word)) : State :=
  s.setCore s.me.core { s.core s.me.core with ix := l }

/-- The shared loop of IXINS and IXACC: element by element, so a key or value that lies under VD is read as the lower elements
left it (R11, R192). -/
def ixRun (w : VWord) (upd : VCtx → Nat → Word → Word → Word) : VRun :=
  vpure fun c s =>
    let step := fun (a : List (Nat × Word × Word) × Image) (i : Nat) =>
      let b := BitVec.ofNat 64 (vreadImg a.2 (c.rb s) w.vb.toNat 64 i)
      let r := ixUpdate (fun v => upd c i v b) a.1 (BitVec.ofNat 64 (vreadImg a.2 (c.rb s) w.va.toNat 64 i)) b
      (r.1, setBitImg a.2 w.vd.toNat i r.2)
    let r := (s.active c w).foldl step (s.ix, s.me.vregs)
    (s.setIx r.1).setVregs r.2

/-- value + b of IXACC (R192). -/
def ixSum (w : VWord) (c : VCtx) (i : Nat) (v b : Word) : Word :=
  if w.f = 11 then
    BitVec.ofNat 64 (roundVal 11 (c.rm w) (c.sr i) (fsumExact (c.rm w) [fpDecode 11 v.toNat, fpDecode 11 b.toNat]))
  else v + b

/-- What IXDRAIN takes: at most n valid entries from a position, and the cursor after them. -/
def ixTake (l : List (Nat × Word × Word)) (n pos : Nat) : List (Nat × Word × Word) × Nat :=
  let es := (l.filter fun e => pos ≤ e.1).take n
  (es, if es.length < n || n = 0 then (if n = 0 then pos else Nat.max pos 4096) else
    match es.getLast? with
    | some e => e.1 + 1
    | none => pos)

/-! ## Expert routing (R194) -/

/-- One token of VROUTE over the registers as the tokens below it left them: its expert and the counter are read, then the
slot, the v0 bit and the counter are written (R11, R194). The mask is that from before the word. -/
def routeStep (c : VCtx) (w : VWord) (s : State) (m : Image) (i : Nat) : Image :=
  let W := ew w.f
  let rb := c.rb s
  let e := vreadImg m rb w.va.toNat W i
  if s.masked w i || groupBits c s W / W ≤ e then setBitImg m 0 i false
  else
    let k := vreadImg m rb w.vc.toNat W e
    let taken := if k < (c.x w.vb).toNat then setBitImg (vwriteImg m rb w.vd.toNat W i k) 0 i true else setBitImg m 0 i false
    vwriteImg taken rb w.vc.toNat W e (Nat.min (k + 1) (2 ^ W - 1))

/-! ## Scalar results -/

/-- VEXT: element x[VB], 0 at or past VL (R124). -/
def vextRun (w : VWord) : VRun := vpure fun c s =>
    let k := (c.x w.vb).toNat
    s.vxset w.vd (scalarOf w.f (if k < c.vl then s.eget c w.va w.f k else 0))
/-- VEXT as a convoy of its own. -/
def execVext (w : VWord) (s : State) : Result := vectorStep (.vext w) (vextRun w) s

/-- VREDSUM (R128). -/
def vredsumRun (w : VWord) : VRun := intReduce w (· + ·)
/-- VREDSUM as a convoy of its own. -/
def execVredsum (w : VWord) (s : State) : Result := vectorStep (.vredsum w) (vredsumRun w) s

/-- VREDMIN (R128). -/
def vredminRun (w : VWord) : VRun := intReduce w fun a b => if b < a then b else a
/-- VREDMIN as a convoy of its own. -/
def execVredmin (w : VWord) (s : State) : Result := vectorStep (.vredmin w) (vredminRun w) s

/-- VREDMAX (R128). -/
def vredmaxRun (w : VWord) : VRun := intReduce w fun a b => if a < b then b else a
/-- VREDMAX as a convoy of its own. -/
def execVredmax (w : VWord) (s : State) : Result := vectorStep (.vredmax w) (vredmaxRun w) s

/-- VREDAND (R128). -/
def vredandRun (w : VWord) : VRun := bitReduce w (· &&& ·)
/-- VREDAND as a convoy of its own. -/
def execVredand (w : VWord) (s : State) : Result := vectorStep (.vredand w) (vredandRun w) s

/-- VREDOR (R128). -/
def vredorRun (w : VWord) : VRun := bitReduce w (· ||| ·)
/-- VREDOR as a convoy of its own. -/
def execVredor (w : VWord) (s : State) : Result := vectorStep (.vredor w) (vredorRun w) s

/-- VREDXOR (R128). -/
def vredxorRun (w : VWord) : VRun := bitReduce w (· ^^^ ·)
/-- VREDXOR as a convoy of its own. -/
def execVredxor (w : VWord) (s : State) : Result := vectorStep (.vredxor w) (vredxorRun w) s

/-- VFREDSUM: the fixed tree, then the input at index 0 (R129). -/
def vfredsumRun (w : VWord) : VRun := vpure fun c s =>
    let W := ew w.f
    let t := (List.range c.vl).map fun i => if s.masked w i then none else some (s.vget c w.va W i)
    let x := (c.x w.vb).toNat % 2 ^ W
    let r := match reduceTree (redAdd c w) (Nat.log2 c.vl + 1) 1 t with
      | none => x
      | some v => redAdd c w 0 x v
    s.vxset w.vd (BitVec.ofNat 64 r)
/-- VFREDSUM as a convoy of its own. -/
def execVfredsum (w : VWord) (s : State) : Result := vectorStep (.vfredsum w) (vfredsumRun w) s

/-- VFREDMIN (R129). -/
def vfredminRun (w : VWord) : VRun := patReduce w fminPat
/-- VFREDMIN as a convoy of its own. -/
def execVfredmin (w : VWord) (s : State) : Result := vectorStep (.vfredmin w) (vfredminRun w) s

/-- VFREDMAX (R129). -/
def vfredmaxRun (w : VWord) : VRun := patReduce w fmaxPat
/-- VFREDMAX as a convoy of its own. -/
def execVfredmax (w : VWord) (s : State) : Result := vectorStep (.vfredmax w) (vfredmaxRun w) s

/-! ## Mask scans, compress and expand -/

/-- VMPOP (R130). -/
def vmpopRun (w : VWord) : VRun := vpure fun c s => s.vxset w.vd (BitVec.ofNat 64 (s.acts c w).length)
/-- VMPOP as a convoy of its own. -/
def execVmpop (w : VWord) (s : State) : Result := vectorStep (.vmpop w) (vmpopRun w) s

/-- VMFIRST: all ones if there is none (R130). -/
def vmfirstRun (w : VWord) : VRun := vpure fun c s =>
    s.vxset w.vd (match (s.acts c w).head? with | some j => BitVec.ofNat 64 j | none => allOnes)
/-- VMFIRST as a convoy of its own. -/
def execVmfirst (w : VWord) (s : State) : Result := vectorStep (.vmfirst w) (vmfirstRun w) s

/-- VIOTA (R130). -/
def viotaRun (w : VWord) : VRun := vpure fun c s =>
    let a := s.acts c w
    let step := fun (r : Nat × List (Nat × Nat)) (i : Nat) =>
      (if a.contains i then r.1 + 1 else r.1, if s.masked w i then r.2 else r.2 ++ [(i, r.1 % 2 ^ ew w.f)])
    s.vsetAll c w.vd (ew w.f) ((List.range c.vl).foldl step (0, [])).2
/-- VIOTA as a convoy of its own. -/
def execViota (w : VWord) (s : State) : Result := vectorStep (.viota w) (viotaRun w) s

/-- VCOMPRESS (R131). -/
def vcompressRun (w : VWord) : VRun := vpure fun c s =>
    let l := ((List.range c.vl).filter fun i => s.mbit 0 i).map fun i => s.vget c w.va (ew w.f) i
    s.esetAll c w.vd w.f (l.zipIdx.map fun e => (e.2, e.1))
/-- VCOMPRESS as a convoy of its own. -/
def execVcompress (w : VWord) (s : State) : Result := vectorStep (.vcompress w) (vcompressRun w) s

/-- VEXPAND (R131). -/
def vexpandRun (w : VWord) : VRun := vpure fun c s =>
    let l := (List.range c.vl).filter fun i => s.mbit 0 i
    s.esetAll c w.vd w.f (l.zipIdx.map fun e => (e.1, s.vget c w.va (ew w.f) e.2))
/-- VEXPAND as a convoy of its own. -/
def execVexpand (w : VWord) (s : State) : Result := vectorStep (.vexpand w) (vexpandRun w) s

/-! ## Lookups, permutes and slides -/

/-- VLUT: an entry past the table or past the register or group reads 0 (R132). -/
def vlutRun (w : VWord) : VRun := elementwise w fun c s i =>
    let W := ew w.f
    let k := s.vget c w.vb (ew (w.fnBits 0 5)) i
    if k < 2 ^ w.fnBits 5 4 && W * (k + 1) ≤ groupBits c s W then s.vget c w.va W k else 0
/-- VLUT as a convoy of its own. -/
def execVlut (w : VWord) (s : State) : Result := vectorStep (.vlut w) (vlutRun w) s

/-- VPERM: an index at or past VL reads 0 (R132). -/
def vpermRun (w : VWord) : VRun := elementwise w fun c s i =>
    let W := ew w.f
    let k := s.eget c w.vb w.f i
    if k < c.vl then s.vget c w.va W k else 0
/-- VPERM as a convoy of its own. -/
def execVperm (w : VWord) (s : State) : Result := vectorStep (.vperm w) (vpermRun w) s

/-- VSLUP: elements below the offset keep their values (R133). -/
def vslupRun (w : VWord) : VRun := vpure fun c s =>
    let o := (c.x w.vb).toNat
    s.esetAll c w.vd w.f (((s.active c w).filter fun i => o ≤ i).map fun i => (i, s.vget c w.va (ew w.f) (i - o)))
/-- VSLUP as a convoy of its own. -/
def execVslup (w : VWord) (s : State) : Result := vectorStep (.vslup w) (vslupRun w) s

/-- VSLDN (R133). -/
def vsldnRun (w : VWord) : VRun := elementwise w fun c s i =>
    let o := (c.x w.vb).toNat
    if i + o < c.vl then s.vget c w.va (ew w.f) (i + o) else 0
/-- VSLDN as a convoy of its own. -/
def execVsldn (w : VWord) (s : State) : Result := vectorStep (.vsldn w) (vsldnRun w) s

/-- VROUTE: counters are read and written token by token (R194). -/
def vrouteRun (w : VWord) : VRun := vpure fun c s =>
    s.setVregs ((List.range c.vl).foldl (routeStep c w s) s.me.vregs)
/-- VROUTE as a convoy of its own. -/
def execVroute (w : VWord) (s : State) : Result := vectorStep (.vroute w) (vrouteRun w) s

/-! ## The index scratchpad -/

/-- IXINS (R192). -/
def ixinsRun (w : VWord) : VRun := ixRun w fun _ _ _ b => b
/-- IXINS as a convoy of its own. -/
def execIxins (w : VWord) (s : State) : Result := vectorStep (.ixins w) (ixinsRun w) s

/-- IXLOOK, element by element: writes every v0 bit below VL; the mask is read first (R192). -/
def ixlookRun (w : VWord) : VRun := vpure fun c s =>
    let step := fun (m : Image) (i : Nat) =>
      let hit := if s.masked w i then none else ixFind s.ix (BitVec.ofNat 64 (vreadImg m (c.rb s) w.va.toNat 64 i))
      match hit with
      | some h => setBitImg (vwriteImg m (c.rb s) w.vd.toNat 64 i h.2.toNat) 0 i true
      | none => setBitImg m 0 i false
    s.setVregs ((List.range c.vl).foldl step s.me.vregs)
/-- IXLOOK as a convoy of its own. -/
def execIxlook (w : VWord) (s : State) : Result := vectorStep (.ixlook w) (ixlookRun w) s

/-- IXACC (R192). -/
def ixaccRun (w : VWord) : VRun := ixRun w (ixSum w)
/-- IXACC as a convoy of its own. -/
def execIxacc (w : VWord) (s : State) : Result := vectorStep (.ixacc w) (ixaccRun w) s

/-- IXDRAIN: keys to vd, values to vc, the cursor to x[VB] (R192). -/
def ixdrainRun (w : VWord) : VRun := vpure fun c s =>
    if c.vl = 0 then s
    else
      let (es, pos) := ixTake s.ix c.vl (c.x w.vb).toNat
      let s := if w.fnBits 0 1 = 1 then s.setIx (s.ix.filter fun e => !es.contains e) else s
      let s := s.vsetAll c w.vd 64 (es.zipIdx.map fun e => (e.2, e.1.2.1.toNat))
      let s := s.vsetAll c w.vc 64 (es.zipIdx.map fun e => (e.2, e.1.2.2.toNat))
      (s.msetAll 0 ((List.range c.vl).map fun i => (i, decide (i < es.length)))).vxset w.vb (BitVec.ofNat 64 pos)
/-- IXDRAIN as a convoy of its own. -/
def execIxdrain (w : VWord) (s : State) : Result := vectorStep (.ixdrain w) (ixdrainRun w) s

end Sys2Proof.Machine
end

