-- ==== Sys2Proof/Machine/VectorAccess.lean ====
section
/-! DEFINITION. How vector and MATRIX words reach memory (R134 to R143, R162, R255): the probe, read and commit phases, over
lists of accesses. -/
namespace Sys2Proof.Machine

/-- One access: the element (row, group, bundle) that a fault names, the virtual address, bytes, and the path unit that
makes it (R140, R162). -/
structure VAcc where
  elem : Nat
  va : Word
  n : Nat
  path : Nat
  /-- A write access that reads too: an atomic's (R224). -/
  reads : Bool := false
  deriving DecidableEq, Repr

/-- "No element" (R137). -/
def noElem : Nat := 2 ^ 64 - 1

/-- The path unit of the MAT path (R162). -/
def matPath : Nat := 4

/-- The lane slice that holds the lowest byte of element i of an operand at width W (R27, R28, R140). -/
def sliceAt (g : BitVec 4) (rb W i : Nat) : Nat :=
  let lane := W * i / 8 % rb / 4 % (16 * slicesOf g)
  (((List.range 4).filter fun k => g.getLsbD k)[lane / 16]?).getD 0

def State.slice (s : State) (c : VCtx) (W i : Nat) : Nat := sliceAt s.me.cur (c.rb s) W i

/-! ## The probe phase (R136, R137) -/

/-- Alignment, translation, memory type, tether chain, admission, and for a read the compare of R224. -/
def State.vprobe (s : State) (a : Acc) (x : VAcc) : Except VStop Probed :=
  let e := BitVec.ofNat 64 x.elem
  if x.va.toNat % x.n ≠ 0 then vfault .misaligned e x.va
  else
    match s.probe s.me.ptroot x.va a false with
    | .error f => .error (.fault { f with elem := e })
    | .ok p => if (a = .read || x.reads) && s.slotMismatch p.pa then vfault .schedule e x.va else .ok p

/-- Every access passes. -/
def State.probeAll (s : State) (a : Acc) : List VAcc → Option (List (VAcc × Probed))
  | [] => some []
  | x :: xs =>
    match s.vprobe a x, s.probeAll a xs with
    | .ok p, some ps => some ((x, p) :: ps)
    | _, _ => none

/-- The stages of R137 within one element: 0 alignment, 1 translation, 2 memory type, 3 TETHER-LONG, 4 TETHER-DANGLING, 5
REMOTE-DENIED (R338) and other checks of the word, 6 the compare of R224. `k` is the kind that an access raises. -/
def State.faultStage (s : State) (a : Acc) (x : VAcc) (k : FaultKind) : Nat :=
  if x.va.toNat % x.n ≠ 0 then 0
  else
    match s.xlate s.me.ptroot x.va a with
    | .error _ => 1
    | .ok l =>
      if l.device then 2
      else match k with
        | .tetherLong => 3
        | .tetherDangling => 4
        | .schedule => 6
        | _ => 5

/-- The fault reported for an element: of its accesses that fault, the first at the earliest stage (R136, R137). -/
def State.elemFault (s : State) (a : Acc) (xs : List VAcc) : Option VStop :=
  let bad := xs.filterMap fun x =>
    match s.vprobe a x with
    | .error (.fault f) => some (s.faultStage a x f.kind, VStop.fault f)
    | .error e => some (0, e)
    | .ok _ => none
  ((List.range 7).findSome? fun n => bad.find? fun b => b.1 = n).map (·.2)

/-- The probe of every access. The fault reported is that of the first element that has one, each element whole; the accesses
of an element stand together (R136, R137). -/
def State.vprobes (s : State) (a : Acc) (xs : List VAcc) : Except VStop (List (VAcc × Probed)) :=
  match s.probeAll a xs with
  | some ps => .ok ps
  | none =>
    match (xs.splitBy fun x y => x.elem = y.elem).findSome? (s.elemFault a) with
    | some f => .error f
    | none => .ok []

/-- The strand's TLB keeps the translations that a word used. -/
def State.noteAll (s : State) (l : List VAcc) : State :=
  ((l.map fun x => x.va.toNat / 65536).eraseDups).foldl
    (fun s pg => s.noteXlate s.me.ptroot (BitVec.ofNat 64 (pg * 65536))) s

/-! ## The read phase -/

/-- Poison (R136), and the wait for a module that can't be reached (R383), access by access. -/
def State.vchecksBy (s : State) (reach : Nat → Word → Except Stop Unit) : List (VAcc × Probed) → Except VStop Unit
  | [] => .ok ()
  | (x, p) :: ps =>
    let e := BitVec.ofNat 64 x.elem
    let pa := s.follow p.pa
    match s.poisonCheck pa x.va with
    | .error f => .error (.fault { f with elem := e })
    | .ok _ =>
      match vstop e (reach pa x.va) with
      | .error r => .error r
      | .ok _ => s.vchecksBy reach ps

def State.vchecks (s : State) (ps : List (VAcc × Probed)) : Except VStop Unit := s.vchecksBy s.reachCheck ps

/-- The same for atomics. -/
def State.vchecksAtomic (s : State) (ps : List (VAcc × Probed)) : Except VStop Unit :=
  s.vchecksBy (fun pa _ => s.reachAtomic pa) ps

/-- A path unit's access to a line waits behind its own write held there (R255). -/
def State.settlePath (s : State) (l : List (VAcc × Probed)) : State :=
  let hs := s.heldWrites.filter fun h => h.core = s.me.core && h.entry.slot = s.me.slot &&
    l.any fun e => lineOf e.2.pa = h.line && e.1.path = h.entry.path
  hs.foldl (fun s h => s.settleLine h.line) s

/-- Stores of the strand, not yet performed, that an access of a path unit sees: those of the same path unit (R140), and
those of earlier words of its own convoy (R78). -/
def State.ownStores (s : State) (c : VCtx) (path : Nat) : List StoreEntry :=
  (s.core s.me.core).squeue.filter fun e => e.slot = s.me.slot && (e.path = path || e.convoy = c.convoy)

/-- The bytes of each access. -/
def State.vbytes (s : State) (c : VCtx) (l : List (VAcc × Probed)) : List (List Byte) :=
  l.map fun e => s.bytesOver (s.ownStores c e.1.path) (s.follow e.2.pa) e.1.n

/-- MATRIX memory words are performed in program order among themselves: those stores of earlier ones come first (R162). -/
def State.settleMat (s : State) (l : List VAcc) : State :=
  if l.any fun x => x.path = matPath then
    s.drainSqueue s.me.core fun e => e.slot = s.me.slot && e.path = 4
  else s

/-- What the load buffer holds of the accesses of the LOAD word of this convoy, where they are the same (R215). -/
def State.earlyBytes (s : State) (l : List VAcc) : Option (List (List Byte)) :=
  match s.me.queue with
  | [] => none
  | q :: _ =>
    match q.early.find? fun e => e.vpc = q.vpc with
    | none => none
    | some e => if e.reads.map (fun r => (r.1, r.2.length)) = l.map (fun x => (x.va, x.n)) then some (e.reads.map (·.2)) else none

/-- Reads that matched an armed tag disarm it: with the word, or with the convoy that retires later (R224). -/
def State.disarmRead (s : State) (c : VCtx) (pas : List Nat) : State :=
  if c.later then
    let tags := (pas.filterMap s.slotTag).filter fun t => bits (s.natAt (t + 8) 8) 48 1 = 1
    { s with me := { s.me with disarms := s.me.disarms ++ tags } }
  else pas.foldl (fun s pa => s.disarm pa) s

/-- What a read leaves: tags disarmed (R224), the slow tier asked (R380), translations noted. -/
def State.readDone (s : State) (c : VCtx) (l : List VAcc) (ps : List (VAcc × Probed)) : State :=
  ((s.disarmRead c (ps.map fun e => s.follow e.2.pa)).askSlow (ps.map fun e => s.follow e.2.pa)).noteAll l

/-- A read waits: behind a write of its path unit that is held at its line (R255), and on the MAT path until every earlier MATRIX
store is performed (R162). -/
def State.readWaits (s : State) (ps : List (VAcc × Probed)) : Bool :=
  ps.any (fun e => s.ownHeldAt (s.follow e.2.pa) e.1.path) ||
  (ps.any (fun e => e.1.path = matPath) && s.stillHeld s.me.core s.me.slot fun o => o.path = 4)

/-- Probe and read of a list of accesses: the state after them (moves waited for, tags disarmed, translations noted) and the
bytes of each. -/
def State.vread (s : State) (c : VCtx) (l : List VAcc) : Except VStop (State × List (List Byte)) :=
  match s.vprobes .read l with
  | .error e => .error e
  | .ok ps =>
    let s := (s.settleMat l).settlePath ps
    match s.vchecks ps with
    | .error e => .error e
    | .ok _ =>
      if s.readWaits ps then .error (.wait [])
      else
        let bs := s.vbytes c ps
        .ok (s.readDone c l ps, bs)

/-- As vread, for a LOAD word: reads made early and confirmed are its reads; its probe is made again (R215, R224). -/
def State.vload (s : State) (c : VCtx) (l : List VAcc) : Except VStop (State × List (List Byte)) :=
  match s.earlyBytes l with
  | none => s.vread c l
  | some bs =>
    match s.vprobes .read l with
    | .error e => .error e
    | .ok ps => .ok (s.readDone c l ps, bs)

/-- As vload, each access as a little-endian number. -/
def State.vloadNat (s : State) (c : VCtx) (l : List VAcc) : Except VStop (State × List Nat) :=
  match s.vload c l with
  | .error e => .error e
  | .ok (s, bs) => .ok (s, bs.map leNat)

/-- As vread, each access as a little-endian number. -/
def State.vreadNat (s : State) (c : VCtx) (l : List VAcc) : Except VStop (State × List Nat) :=
  match s.vread c l with
  | .error e => .error e
  | .ok (s, bs) => .ok (s, bs.map leNat)

/-! ## The commit of a store -/

/-- One write of a store word. -/
structure VPut where
  acc : VAcc
  bytes : List (Byte × Byte)
  deriving DecidableEq, Repr

/-- The mask with which the writes of one word cover a byte. -/
def coverMask (ws : List (Nat × List (Byte × Byte))) (a : Nat) : Byte :=
  ws.foldl (fun m w => if w.1 ≤ a then (match w.2[a - w.1]? with | some e => m ||| e.2 | none => m) else m) 0

/-- The lines that the writes of one word cover whole (R141). -/
def wholeLines (ws : List (Nat × List (Byte × Byte))) : List Nat :=
  if (ws.map fun w => w.2.length).sum < 128 then []
  else ((ws.map fun w => lineOf w.1).eraseDups).filter fun l => (List.range 128).all fun j => coverMask ws (l + j) = 0xFF

/-- Probe of every write, then the writes enter the strand's store queues in order, in the word's colour (R142, R143).
`heals`: the word is one of those that clear poison (R141). -/
def State.vwrite (s : State) (c : VCtx) (colour : Nat) (l : List VPut) (heals : Bool := true) : Except VStop State :=
  match s.vprobes .write (l.map (·.acc)) with
  | .error e => .error e
  | .ok ps =>
    let (s, word) := s.fresh
    let heal := if !heals then [] else wholeLines ((ps.zip l).map fun e => (e.1.2.pa, e.2.bytes))
    let es := (ps.zip l).map fun e =>
      ({ slot := s.me.slot, path := e.1.1.path, pa := e.1.2.pa, bytes := e.2.bytes, colour := colour, via := e.1.2.via,
         word := word, heal := heal.contains (lineOf e.1.2.pa), convoy := c.convoy } : StoreEntry)
    let core := s.core s.me.core
    .ok ((s.setCore s.me.core { core with squeue := core.squeue ++ es }).noteAll (l.map (·.acc)))

/-- SLICE_STORE_QUEUE_DRAIN: the oldest store of a path unit of a core leaves its queue, if it may (R143). -/
def execSliceStoreQueueDrain (core path : Nat) (s : State) : Result :=
  match s.nextStore core path with
  | none => .next s
  | some (e, rest) => .next ((s.setCore core { s.core core with squeue := rest }).leave core e rest)

end Sys2Proof.Machine
end

