-- ==== Sys2Proof/Machine/VectorMem.lean ====
section
/-! DEFINITION. The LOAD and STORE classes (R134 to R158): contiguous, strided, segment and indexed words, skeins, vector
atomics, VWAIT, page grants, stack-engine gathers, vector moves and address compares. -/
namespace Sys2Proof.Machine

/-! ## Contiguous, strided and indexed addresses (R142, R145) -/

/-- EA(i) of the contiguous words; for a 4-bit format the byte of the nibble (R142, R143). -/
def VCtx.unitEA (c : VCtx) (w : VWord) (i : Nat) : Word :=
  c.base w + BitVec.ofNat 64 (if ew w.f = 4 then i / 2 else i * elemBytes w.f)

/-- EA(i) of the strided words. -/
def VCtx.strideEA (c : VCtx) (w : VWord) (i : Nat) : Word := c.base w + BitVec.ofNat 64 i * c.x w.vb

/-- EA(i) of the indexed words. -/
def State.indexEA (s : State) (c : VCtx) (w : VWord) (i : Nat) : Word := addOff (c.base w) (s.voff c w.vb i)

/-- One access per element at EA(i), made by the slice of element i. -/
def State.accs (s : State) (c : VCtx) (w : VWord) (ea : Nat → Word) (is : List Nat) : List VAcc :=
  is.map fun i => { elem := i, va := ea i, n := elemBytes w.f, path := s.slice c (ew w.f) i }

/-- The element in the bytes read: for a 4-bit format the nibble that `hi` names. -/
def pickNibble (fmt : Nat) (hi : Bool) (v : Nat) : Nat :=
  if ew fmt = 4 then bits v (if hi then 4 else 0) 4 else v

/-- The bytes of an element, masked to its nibble in a 4-bit format (R143). -/
def elemPut (fmt : Nat) (hi : Bool) (v : Nat) : List (Byte × Byte) :=
  if ew fmt = 4 then [if hi then (BitVec.ofNat 8 (v * 16), 0xF0) else (BitVec.ofNat 8 v, 0x0F)]
  else full (leBytes (ew fmt / 8) v)

/-- A load of the elements `is`; element i stands in the high nibble of its byte if `hi i`. -/
def loadElems (w : VWord) (c : VCtx) (s : State) (ea : Nat → Word) (hi : Nat → Bool) (is : List Nat) :
    Except VStop (State × List (Nat × Nat)) :=
  match s.vloadNat c (s.accs c w ea is) with
  | .error e => .error e
  | .ok (s, vs) => .ok (s, (is.zip vs).map fun e => (e.1, pickNibble w.f (hi e.1) e.2))

/-- Odd elements stand in the high nibble (R45, R143). -/
def oddNibble (i : Nat) : Bool := i % 2 = 1

/-- VLD, VLDS, VLDX: the active elements (R142). -/
def loadRun (w : VWord) (ea : VCtx → State → Nat → Word) : VRun := fun c s =>
  match loadElems w c s (ea c s) oddNibble (s.active c w) with
  | .error e => .error e
  | .ok (t, l) => .ok (t.esetAll c w.vd w.f l)

/-- VST, VSTS, VSTX: the active elements in ascending order, so of two that overlap the higher remains (R142, R146). -/
def storeRun (w : VWord) (ea : VCtx → State → Nat → Word) : VRun := fun c s =>
  let is := s.active c w
  s.vwrite c w.clr.toNat (((s.accs c w (ea c s) is).zip is).map fun e =>
    { acc := e.1, bytes := elemPut w.f (oddNibble e.2) (s.eget c w.vd w.f e.2) })

/-! ## Segments (R144) -/

/-- NF and MFMT. -/
def segN (w : VWord) : Nat := w.vb.toNat
def segFmt (w : VWord) : Nat := w.vc.toNat

/-- The register of field f. -/
def segReg (c : VCtx) (w : VWord) (f : Nat) : BitVec 6 := w.vd + BitVec.ofNat 6 (f * groupSize c.lew (ew w.f))

/-- (element, field) pairs in the order of R144. -/
def State.segPairs (s : State) (c : VCtx) (w : VWord) : List (Nat × Nat) :=
  (s.active c w).flatMap fun i => (List.range (segN w)).map fun f => (i, f)

/-- The access of a pair. -/
def State.segAcc (s : State) (c : VCtx) (w : VWord) (e : Nat × Nat) : VAcc :=
  let mb := ew (segFmt w) / 8
  { elem := e.1, va := c.base w + BitVec.ofNat 64 ((e.1 * segN w + e.2) * mb), n := mb, path := s.slice c (ew w.f) e.1 }

/-! ## Skeins (R147 to R149) -/

/-- The binding of a register. -/
def Strand.skein (t : Strand) (r : Nat) : Option Skein := t.skeins.find? fun k => k.reg = r

/-- Replaces or adds a binding. -/
def Strand.bind (t : Strand) (k : Skein) : Strand :=
  { t with skeins := if (t.skein k.reg).isSome then t.skeins.map fun u => if u.reg = k.reg then k else u
                     else t.skeins ++ [k] }

/-- The skein record (R147). -/
def skeinOf (reg : Nat) (b : List Byte) : Skein :=
  let v := leNat b
  { reg := reg, base := BitVec.ofNat 64 v, str0 := BitVec.ofNat 64 (bits v 64 64), str1 := BitVec.ofNat 64 (bits v 128 64),
    cnt0 := bits v 192 32, cnt1 := bits v 224 32, cursor := 0 }

/-- Address of element e of the stream. -/
def Skein.addr (k : Skein) (e : Nat) : Word :=
  k.base + BitVec.ofNat 64 (e / k.cnt0) * k.str1 + BitVec.ofNat 64 (e % k.cnt0) * k.str0

/-- Nibble position of element e in a 4-bit format (R149). -/
def Skein.nibble (k : Skein) (e : Nat) : Int :=
  2 * (k.base.toNat : Int) + 2 * (e / k.cnt0 : Nat) * k.str1.toInt + (e % k.cnt0 : Nat) * k.str0.toInt

/-- The byte that holds element e, and whether it is the high nibble of a 4-bit format (R149). -/
def Skein.ea (k : Skein) (fmt e : Nat) : Word := if ew fmt = 4 then BitVec.ofInt 64 (k.nibble e / 2) else k.addr e
def Skein.high (k : Skein) (e : Nat) : Bool := k.nibble e % 2 = 1

/-- Elements of VLDK that lie in the stream. -/
def Skein.inside (k : Skein) (is : List Nat) : List Nat := is.filter fun i => k.cursor + i < k.cnt0 * k.cnt1

/-- STR0 of a 4-bit format. -/
def Skein.nibbleOk (k : Skein) : Bool := k.str0 = 0 || k.str0 = 1 || k.str0 = allOnes

/-- Lines read ahead for a register go with its binding or its cursor (R228). -/
def State.dropReads (s : State) (r : Nat) : State :=
  let core := s.core s.me.core
  s.setCore s.me.core { core with stream := core.stream.filter fun e => !(e.slot = s.me.slot && e.reg = r) }

/-- A binding made or moved on. -/
def State.rebind (s : State) (k : Skein) : State :=
  let s := s.dropReads k.reg
  { s with me := s.me.bind k }

/-! ## Vector atomics (R150, R151) -/

/-- The lines of the accesses, after every move on them has committed. -/
def State.settleLines (s : State) (ps : List (VAcc × Probed)) : State :=
  ps.foldl (fun s e => (s.settle e.2.pa).1) s

/-- The strand's earlier stores that the atomic follows: those of its own path units to its bytes, those of its convoy, and
under RL every one on the VEC path (R140, R151). -/
def amoAfter (c : VCtx) (slot : Nat) (rl : Bool) (s : State) (ps : List (VAcc × Probed)) (e : StoreEntry) : Bool :=
  e.slot = slot && ((rl && e.path < 4) || ps.any fun p =>
    let a := s.follow p.2.pa
    let b := s.follow e.pa
    (e.path = p.1.path || e.convoy = c.convoy) && a < b + e.bytes.length && b < a + p.1.n)

/-- The AOP code at a format: MIN and MAX compare unsigned under N formats (R150). -/
def vaop (w : VWord) (aop : Nat) : Nat := if !isSigned w.f && (aop = 5 || aop = 6) then aop + 2 else aop

/-- Where a VEC access of the strand comes from. -/
def State.vorigin (s : State) (path colour : Nat) (via : List Nat) : Origin :=
  { core := some s.me.core, slot := s.me.slot, path := path, colour := colour, via := via }

/-- One element of the commit loop of R150: the state, and the old value. -/
def State.amoElem (s : State) (w : VWord) (aop : Nat) (e : VAcc × Probed) (b expected : Nat) : State × Nat :=
  let n := elemBytes w.f
  let pa := s.follow e.2.pa
  let old := s.oldAt pa n
  match amoNew (vaop w aop) n old b expected with
  | some v => (s.performAtomic pa (full (leBytes n v)) (s.vorigin e.1.path w.clr.toNat e.2.via), old)
  | none => (s, old)

/-- A line that an atomic would hold is still in transit, its move waiting for a module that can't be reached (R254, R383). -/
def State.anyInTransit (s : State) (ps : List (VAcc × Probed)) : Bool := ps.any fun e => s.tether (s.follow e.2.pa) = .inTransit

/-- What an atomic follows: moves on its lines, earlier stores to them, and under RL every VEC store of the strand, those held
at a line in transit too (R151, R235). -/
def State.beforeAmo (s : State) (c : VCtx) (rl : Bool) (ps : List (VAcc × Probed)) : State :=
  let s := s.settleLines ps
  let s := (s.drainSqueue s.me.core (amoAfter c s.me.slot rl s ps)).settlePath ps
  if rl then s.settleHeld s.me.core s.me.slot else s

/-- An atomic waits for a line that stays in transit, and under RL for VEC writes that are still held (R151, R383). -/
def State.amoWaits (s : State) (rl : Bool) (ps : List (VAcc × Probed)) : Bool :=
  s.anyInTransit ps || (rl && s.stillHeld s.me.core s.me.slot fun o => o.path < 4)

/-- VAMO. It reads and writes its lines, so the tag of a chamber slot is compared and disarmed as by a read (R224). What AQ
orders after it comes later in this model as it does in the program; the reach of SCP is log 3. -/
def amoRun (aop : Nat) (w : VWord) : VRun := fun c s =>
  let is := s.active c w
  let rl := w.fnBits 8 1 = 1
  let l := (s.accs c w (fun i => addOff (c.x w.va) (s.voff c w.vb i)) is).map fun x => { x with reads := true }
  match s.vprobes .write l with
  | .error e => .error e
  | .ok ps =>
    let s := s.beforeAmo c rl ps
    if s.amoWaits rl ps then .error (.wait [])
    else
      match s.vchecksAtomic ps with
      | .error e => .error e
      | .ok _ =>
        let W := ew w.f
        let step := fun (a : State × List (Nat × Nat)) (e : VAcc × Probed) =>
          let r := a.1.amoElem w aop e (s.vget c w.vc W e.1.elem) (s.vget c w.vd W e.1.elem)
          (r.1, a.2 ++ [(e.1.elem, r.2)])
        let r := ps.foldl step (s, [])
        .ok ((r.1.readDone c l ps).vsetAll c w.vd W r.2)

/-! ## VWAIT (R152) -/

/-- Elements that an earlier try of this VWAIT has satisfied. -/
def State.waitDone (s : State) (c : VCtx) : List Nat := if s.me.vwaitAt = c.addr then s.me.vwaitDone else []

/-- Where the accesses of a word end, for the chamber slots whose ARM becomes 0 with it (R224). -/
def State.readsEnd (s : State) (l : List VAcc) : List Nat :=
  match s.vprobes .read l with
  | .ok ps => ps.map fun e => s.follow e.2.pa
  | .error _ => []

/-- The reads of a VWAIT that can be made now: (element, value). An element whose read must wait is read again later, and stops no
other (R152, R383). -/
def State.waitReads (s : State) (c : VCtx) : List (VAcc × Probed) → Except VStop (List (Nat × Nat))
  | [] => .ok []
  | p :: ps =>
    match s.vchecks [p], s.waitReads c ps with
    | .error (.fault f), _ => .error (.fault f)
    | _, .error e => .error e
    | .error (.wait _), .ok l => .ok l
    | .ok _, .ok l => .ok (if s.readWaits [p] then l else (p.1.elem, leNat (s.vbytes c [p]).flatten) :: l)

/-- The comparison of element i with a value read. -/
def State.waitMet (s : State) (c : VCtx) (w : VWord) (i m : Nat) : Bool :=
  icond (w.fnBits 2 4) (readInt w.f m) (readInt w.f (s.vget c w.vc (ew w.f) i))

/-! ## Page grants (R153) -/

/-- The grants of VPGALLOC: (element, entry), the active elements taking the top entry down. -/
def pageGrants (is : List Nat) (top : Nat) : List (Nat × Nat) :=
  (is.take top).zipIdx.map fun e => (e.1, top - 1 - e.2)

/-! ## Stack-engine gathers (R154) -/

/-- The checks of one element of VSTK: source and destination addresses, physical. -/
def State.stkProbe (s : State) (n i : Nat) (sa da : Word) : Except VStop (Nat × Nat) :=
  let e := BitVec.ofNat 64 i
  let at_ := fun (f : FaultInfo) => (.error (.fault { f with elem := e }) : Except VStop (Nat × Nat))
  if sa.toNat % n ≠ 0 then vfault .misaligned e sa
  else if da.toNat % n ≠ 0 then vfault .misaligned e da
  else
    match s.xlate s.me.ptroot sa .read, s.xlate s.me.ptroot da .write with
    | .error f, _ => at_ f
    | _, .error f => at_ f
    | .ok x, .ok y =>
      if x.device then vfault .memType e sa
      else if y.device then vfault .memType e da
      else
        match s.region x.pa with
        | .hbm _ => .ok (x.pa, y.pa)
        | _ => vfault .stkRange e sa

def State.stkProbes (s : State) (n : Nat) : List (Nat × Word × Word) → Except VStop (List (Nat × Nat × Nat))
  | [] => .ok []
  | (i, sa, da) :: l =>
    match s.stkProbe n i sa da with
    | .error e => .error e
    | .ok p =>
      match s.stkProbes n l with
      | .error e => .error e
      | .ok ps => .ok ((i, p.1, p.2) :: ps)

/-! ## Vector moves (R156) -/

/-- The stages of R137 that come before the tether chain, over both addresses of an element: alignment, translation, memory
type. -/
def State.moveStages (s : State) (sa da : Word) : Except Stop Unit :=
  if sa.toNat % 128 ≠ 0 then fault .misaligned sa
  else if da.toNat % 128 ≠ 0 then fault .misaligned da
  else
    match s.xlate s.me.ptroot sa .write, s.xlate s.me.ptroot da .write with
    | .error f, _ => .error (.fault f)
    | _, .error f => .error (.fault f)
    | .ok x, .ok y =>
      if x.device then fault .memType sa else if y.device then fault .memType da else .ok ()

/-- Moves of others that the checks of an element waited for have committed in one state; they commit in the other. -/
def State.followMoves (s h : State) (word : Nat) : State :=
  (s.moves.filter fun n => n.word ≠ word && !h.moves.any fun m => m.line = n.line).foldl (fun s m => s.settleLine m.line) s

/-- The elements in ascending order: each is checked against the state `h` that the moves below it leave, and every destination
below it counts as held. In `s` the moves of the elements that have passed are begun. -/
def State.vmoves (s h : State) (colour word : Nat) : List (Nat × Word × Word) → List Nat → Except VStop (State × List Nat)
  | [], _ => .ok (s, [])
  | (i, sa, da) :: l, held =>
    match vstop (BitVec.ofNat 64 i) (h.moveStages sa da), vstop (BitVec.ofNat 64 i) (h.moveCheck sa da held) with
    | .error e, _ => .error e
    | _, .error e => .error e
    | .ok _, .ok (h, m) =>
      let s := (s.followMoves h word).beginMove m colour 0 word
      let h := h.beginMove m colour 0 word
      let h := (h.moves.getLast?.map h.finishMove).getD h
      match s.vmoves h colour word l (held ++ [m.dst]) with
      | .error e => .error e
      | .ok (s, ls) => .ok (s, m.src :: ls)

/-- Probe, then the moves in ascending order, each as far as it can commit now (R156). -/
def State.moveAll (s : State) (colour : Nat) (l : List (Nat × Word × Word)) : Except VStop State :=
  let (s, word) := s.fresh
  match s.vmoves s colour word l [] with
  | .error e => .error e
  | .ok (s, lines) => .ok (lines.foldl State.settleLine s)

/-! ## Address compares (R158) -/

/-- The pairs of addresses of each element, each resolved as a 1-byte read resolves it, and whether they end at one byte. -/
def State.vpairs (s : State) (l : List (Nat × Word × Word)) : Except VStop (List (Nat × Bool)) :=
  let acc := fun (i : Nat) (a : Word) => ({ elem := i, va := a, n := 1, path := 0 } : VAcc)
  match s.vprobes .read (l.flatMap fun e => [acc e.1 e.2.1, acc e.1 e.2.2]) with
  | .error e => .error e
  | .ok ps => .ok (l.zipIdx.map fun e =>
      (e.1.1, ((ps[2 * e.2]?).map fun p => p.2.pa) == (ps[2 * e.2 + 1]?).map fun p => p.2.pa))

/-- The two indexed addresses of each active element: b + off(vb, i) and b + off(vc, i). -/
def State.addrPairs (s : State) (c : VCtx) (w : VWord) : List (Nat × Word × Word) :=
  (s.active c w).map fun i => (i, addOff (c.base w) (s.voff c w.vb i), addOff (c.base w) (s.voff c w.vc i))

/-! ## Loads and stores -/

/-- VLD (R142). -/
def vldRun (w : VWord) : VRun := loadRun w fun c _ i => c.unitEA w i
/-- VLD as a convoy of its own. -/
def execVld (w : VWord) (s : State) : Result := vectorStep (.vld w) (vldRun w) s

/-- VST (R142, R143). -/
def vstRun (w : VWord) : VRun := storeRun w fun c _ i => c.unitEA w i
/-- VST as a convoy of its own. -/
def execVst (w : VWord) (s : State) : Result := vectorStep (.vst w) (vstRun w) s

/-- VLDS (R142). -/
def vldsRun (w : VWord) : VRun := loadRun w fun c _ i => c.strideEA w i
/-- VLDS as a convoy of its own. -/
def execVlds (w : VWord) (s : State) : Result := vectorStep (.vlds w) (vldsRun w) s

/-- VSTS (R142). -/
def vstsRun (w : VWord) : VRun := storeRun w fun c _ i => c.strideEA w i
/-- VSTS as a convoy of its own. -/
def execVsts (w : VWord) (s : State) : Result := vectorStep (.vsts w) (vstsRun w) s

/-- VLDSEG: each field converted from MFMT (R144). -/
def vldsegRun (w : VWord) : VRun := fun c s =>
  let ps := s.segPairs c w
  match s.vloadNat c (ps.map (s.segAcc c w)) with
  | .error e => .error e
  | .ok (t, vs) => .ok ((ps.zip vs).foldl (fun t e =>
      t.vset c (segReg c w e.1.2) (ew w.f) e.1.1 (convert w.f (segFmt w) (c.rm w) (c.sr e.1.1) false e.2)) t)
/-- VLDSEG as a convoy of its own. -/
def execVldseg (w : VWord) (s : State) : Result := vectorStep (.vldseg w) (vldsegRun w) s

/-- VSTSEG: each field converted to MFMT (R144). -/
def vstsegRun (w : VWord) : VRun := fun c s =>
  s.vwrite c w.clr.toNat ((s.segPairs c w).map fun e =>
    let v := convert (segFmt w) w.f (c.rm w) (c.sr e.1) false (s.vget c (segReg c w e.2) (ew w.f) e.1)
    { acc := s.segAcc c w e, bytes := full (leBytes (ew (segFmt w) / 8) v) })
/-- VSTSEG as a convoy of its own. -/
def execVstseg (w : VWord) (s : State) : Result := vectorStep (.vstseg w) (vstsegRun w) s

/-- VLDX (R145). -/
def vldxRun (w : VWord) : VRun := loadRun w fun c s i => s.indexEA c w i
/-- VLDX as a convoy of its own. -/
def execVldx (w : VWord) (s : State) : Result := vectorStep (.vldx w) (vldxRun w) s

/-- Element i of VLDXB lies in its bounds (R145). -/
def State.inBounds (s : State) (c : VCtx) (w : VWord) (i : Nat) : Bool :=
  0 ≤ s.voff c w.vb i ∧ s.voff c w.vb i + elemBytes w.f ≤ (c.x w.vc).toNat

/-- VLDXB: an element out of bounds is not read and becomes zero (R145). -/
def vldxbRun (w : VWord) : VRun := fun c s =>
  let is := s.active c w
  match loadElems w c s (s.indexEA c w) oddNibble (is.filter (s.inBounds c w)) with
  | .error e => .error e
  | .ok (t, l) => .ok (t.esetAll c w.vd w.f (((is.filter fun i => !s.inBounds c w i).map fun i => (i, 0)) ++ l))
/-- VLDXB as a convoy of its own. -/
def execVldxb (w : VWord) (s : State) : Result := vectorStep (.vldxb w) (vldxbRun w) s

/-- VSTX (R145, R146). -/
def vstxRun (w : VWord) : VRun := storeRun w fun c s i => s.indexEA c w i
/-- VSTX as a convoy of its own. -/
def execVstx (w : VWord) (s : State) : Result := vectorStep (.vstx w) (vstxRun w) s

/-! ## Skein words -/

/-- The read of a skein record. -/
def skeinAccs (c : VCtx) (w : VWord) : List VAcc := [{ elem := noElem, va := c.base w, n := 32, path := noElem }]

/-- VSKEIN binds a copy of the record (R148): its form is checked as it is read, the room for a fifth binding as it would bind
(log 52). -/
def vskeinRun (w : VWord) : VRun := fun c s =>
  if c.vl = 0 then .ok s
  else
    let b := c.base w
    match s.vload c (skeinAccs c w) with
    | .error e => .error e
    | .ok (t, bs) =>
      let r := w.vd.toNat
      let k := skeinOf r bs.flatten
      if k.cnt0 = 0 || k.cnt1 = 0 then vfault .skeinForm allOnes b
      else if (s.me.skein r).isNone && 4 ≤ s.me.skeins.length then vfault .skeinLimit allOnes b
      else .ok (t.rebind k)
/-- VSKEIN binds a copy of the record as a convoy of its own. -/
def execVskein (w : VWord) (s : State) : Result := vectorStep (.vskein w) (vskeinRun w) s

/-- VSKEIN unbinds (R148). -/
def vskeinUnbindRun (w : VWord) : VRun := vpure fun c s =>
    if c.vl = 0 then s
    else { s with me := { s.me with skeins := s.me.skeins.filter fun k => k.reg ≠ w.vd.toNat } }
/-- VSKEIN unbinds as a convoy of its own. -/
def execVskeinUnbind (w : VWord) (s : State) : Result := vectorStep (.vskeinUnbind w) (vskeinUnbindRun w) s

/-- VLDK: past the end zero, the cursor advances by VL (R149). -/
def vldkRun (w : VWord) : VRun := fun c s =>
  if c.vl = 0 then .ok s
  else
    match s.me.skein w.vd.toNat with
    | none => vfault .skeinUnbound
    | some k =>
      if ew w.f = 4 && !k.nibbleOk then vfault .skeinForm
      else
        let tot := k.cnt0 * k.cnt1
        let is := s.active c w
        match loadElems w c s (fun i => k.ea w.f (k.cursor + i)) (fun i => k.high (k.cursor + i)) (k.inside is) with
        | .error e => .error e
        | .ok (t, l) =>
          let zeros := (is.filter fun i => tot ≤ k.cursor + i).map fun i => (i, 0)
          let t := t.esetAll c w.vd w.f (zeros ++ l)
          .ok (t.rebind { k with cursor := Nat.min (k.cursor + c.vl) tot })
/-- VLDK as a convoy of its own. -/
def execVldk (w : VWord) (s : State) : Result := vectorStep (.vldk w) (vldkRun w) s

/-! ## Vector atomics -/

/-- VAMOSWAP: AOP 0 (R150). -/
def vamoswapRun (w : VWord) : VRun := amoRun 0 w
/-- VAMOSWAP as a convoy of its own. -/
def execVamoswap (w : VWord) (s : State) : Result := vectorStep (.vamoswap w) (vamoswapRun w) s

/-- VAMOADD: AOP 1 (R150). -/
def vamoaddRun (w : VWord) : VRun := amoRun 1 w
/-- VAMOADD as a convoy of its own. -/
def execVamoadd (w : VWord) (s : State) : Result := vectorStep (.vamoadd w) (vamoaddRun w) s

/-- VAMOAND: AOP 2 (R150). -/
def vamoandRun (w : VWord) : VRun := amoRun 2 w
/-- VAMOAND as a convoy of its own. -/
def execVamoand (w : VWord) (s : State) : Result := vectorStep (.vamoand w) (vamoandRun w) s

/-- VAMOOR: AOP 3 (R150). -/
def vamoorRun (w : VWord) : VRun := amoRun 3 w
/-- VAMOOR as a convoy of its own. -/
def execVamoor (w : VWord) (s : State) : Result := vectorStep (.vamoor w) (vamoorRun w) s

/-- VAMOXOR: AOP 4 (R150). -/
def vamoxorRun (w : VWord) : VRun := amoRun 4 w
/-- VAMOXOR as a convoy of its own. -/
def execVamoxor (w : VWord) (s : State) : Result := vectorStep (.vamoxor w) (vamoxorRun w) s

/-- VAMOMIN: AOP 5 (R150). -/
def vamominRun (w : VWord) : VRun := amoRun 5 w
/-- VAMOMIN as a convoy of its own. -/
def execVamomin (w : VWord) (s : State) : Result := vectorStep (.vamomin w) (vamominRun w) s

/-- VAMOMAX: AOP 6 (R150). -/
def vamomaxRun (w : VWord) : VRun := amoRun 6 w
/-- VAMOMAX as a convoy of its own. -/
def execVamomax (w : VWord) (s : State) : Result := vectorStep (.vamomax w) (vamomaxRun w) s

/-- VAMOCAS: vd supplies the expected values (R150). -/
def vamocasRun (w : VWord) : VRun := amoRun 9 w
/-- VAMOCAS as a convoy of its own. -/
def execVamocas (w : VWord) (s : State) : Result := vectorStep (.vamocas w) (vamocasRun w) s

/-! ## Waits, grants, gathers, moves, compares -/

/-- VWAIT: elements satisfied stay satisfied (R152); with AQ every invalidation received before is applied (R225). -/
def vwaitRun (w : VWord) : VRun := fun c s =>
  let acc := fun i => ({ elem := i, va := addOff (c.x w.va) (s.voff c w.vb i), n := elemBytes w.f,
                         path := s.slice c (ew w.f) i } : VAcc)
  let is := s.active c w
  let left := is.filter fun i => !(s.waitDone c).contains i
  match s.vprobes .read (left.map acc) with
  | .error e => .error e
  | .ok ps =>
    let t := s.settlePath ps
    match t.waitReads c ps with
    | .error e => .error e
    | .ok vs =>
      let met := (vs.filter fun e => s.waitMet c w e.1 e.2).map (·.1)
      if met.length = left.length then
        let t := (t.readDone c (left.map acc) ps).disarmRead c (s.readsEnd (is.map acc))
        .ok (if w.fnBits 6 1 = 1 then t.applyInvals s.me.core else t)
      else .error (.wait (s.waitDone c ++ met))
/-- VWAIT as a convoy of its own. -/
def execVwait (w : VWord) (s : State) : Result := vectorStep (.vwait w) (vwaitRun w) s

/-- VPGALLOC: every v0 bit below VL is written (R153). The read of an entry is made by the slice of the element that takes it
(R140); the record and the entries compare the tags of their slots as reads do (R224). -/
def vpgallocRun (w : VWord) : VRun := fun c s =>
  if c.vl = 0 then .ok (s.vxset w.vc 0)
  else
    let r := c.x w.va
    let rec_ : List VAcc := [{ elem := noElem, va := r, n := 16, path := noElem, reads := true }]
    match s.vprobes .write rec_ with
    | .error e => .error e
    | .ok ps =>
      let s := s.settleLines ps
      let s := s.drainSqueue s.me.core fun e => e.slot = s.me.slot && e.convoy = c.convoy
      if s.anyInTransit ps then .error (.wait [])
      else
        match s.vchecksAtomic ps with
        | .error e => .error e
        | .ok _ =>
          let pa := (ps.map fun p => s.follow p.2.pa).headD 0
          let top := s.oldAt pa 8
          let arr := BitVec.ofNat 64 (s.oldAt (pa + 8) 8)
          if arr.toNat % 8 ≠ 0 then vfault .misaligned allOnes arr
          else
            let gs := pageGrants (s.active c w) top
            let l := gs.map fun g =>
              ({ elem := g.1, va := arr + BitVec.ofNat 64 (8 * g.2), n := 8, path := s.slice c 64 g.1 } : VAcc)
            match s.vreadNat c l with
            | .error e => .error e
            | .ok (t, vs) =>
              let t := t.vsetAll c w.vd 64 ((gs.zip vs).map fun e => (e.1.1, e.2))
              let t := t.msetAll 0 ((List.range c.vl).map fun i => (i, gs.any fun g => g.1 = i))
              let t := if gs = [] then t
                else t.performAtomic pa (full (leBytes 8 (top - gs.length))) (t.vorigin 0 w.clr.toNat [])
              .ok ((t.readDone c rec_ ps).vxset w.vc (BitVec.ofNat 64 gs.length))
/-- VPGALLOC as a convoy of its own. -/
def execVpgalloc (w : VWord) (s : State) : Result := vectorStep (.vpgalloc w) (vpgallocRun w) s

/-- VSTK: the checks at issue, then the command waits for the stack engines (R154). -/
def vstkRun (w : VWord) : VRun := fun c s =>
  let n := elemBytes w.f
  let l := (s.active c w).map fun i =>
    (i, addOff (c.base w) (s.voff c w.vb i), c.x w.vc + BitVec.ofNat 64 (i * n))
  match s.stkProbes n l with
  | .error e => .error e
  | .ok els =>
    .ok (if els = [] then s
      else { s with stackq := s.stackq ++ [{ owner := s.me.owner, kind := .gather w.f els, recd := [], pages := [],
                                             colour := w.clr.toNat, step := s.free }] })
/-- VSTK as a convoy of its own. -/
def execVstk (w : VWord) (s : State) : Result := vectorStep (.vstk w) (vstkRun w) s

/-- VTMOVE (R156). -/
def vtmoveRun (w : VWord) : VRun := fun c s => s.moveAll w.clr.toNat (s.addrPairs c w)
/-- VTMOVE as a convoy of its own. -/
def execVtmove (w : VWord) (s : State) : Result := vectorStep (.vtmove w) (vtmoveRun w) s

/-- VADDR.EQ (R158). -/
def vaddrEqRun (w : VWord) : VRun := fun c s =>
  match s.vpairs (s.addrPairs c w) with
  | .error e => .error e
  | .ok l => .ok (s.msetAll w.vd l)
/-- VADDR.EQ as a convoy of its own. -/
def execVaddrEq (w : VWord) (s : State) : Result := vectorStep (.vaddrEq w) (vaddrEqRun w) s

end Sys2Proof.Machine
end

