-- ==== Sys2Proof/Machine/Matrix.lean ====
section
/-! DEFINITION. The MATRIX class without braids (R159 to R170, R175 to R181): outer products, tile moves and readouts, the
sorted-difference unit and stack-engine products. -/
namespace Sys2Proof.Machine

/-! ## The frame of a MATRIX word (R160, R172) -/

/-- At VL = 0 nothing happens (R160); a word that names the strand's braid tile waits while the epoch is open (R172). -/
def matrixRun (tile : Option Nat) (run : VRun) : VRun := fun c s =>
  if c.vl = 0 then .ok s
  else if tile.isSome && s.openTile s.me = tile then .error (.wait [])
  else run c s

/-- A source element: zero at and above VL (R160). -/
def State.msrc (s : State) (c : VCtx) (r : BitVec 6) (W i : Nat) : Nat := if i < c.vl then s.vget c r W i else 0

/-- Element i of the single register v1 at width W; past its bytes zero (R161). -/
def State.v1 (s : State) (c : VCtx) (W i : Nat) : Nat :=
  if (i + 1) * (W / 8) ≤ c.rb s then imgNat s.me.vregs (65536 + i * (W / 8)) (W / 8) else 0

/-! ## Tiles (R33, R163) -/

/-- Bytes of a cell in the view of a format, columns of a row, and columns that TCOLS selects. -/
def cellBytes (fmt : Nat) : Nat := if fmt = 11 then 8 else 4
def rowWidthOf (fmt : Nat) : Nat := if fmt = 11 then 64 else 128
def VCtx.tcols (c : VCtx) : Nat := 32 * 2 ^ vtypeTcols c.ctl.vtype
def VCtx.cols (c : VCtx) (fmt : Nat) : Nat := if fmt = 11 then c.tcols / 2 else c.tcols

/-- Key of cell (r, col) of a tile in the view of a format. -/
def cellKey (fmt tile r col : Nat) : Nat := 32768 * tile + cellBytes fmt * (rowWidthOf fmt * r + col)

/-- t(r, col) in the tile image of a core. -/
def cellGet (m : Image) (fmt tile r col : Nat) : Nat := imgNat m (cellKey fmt tile r col) (cellBytes fmt)

def State.cell (s : State) (fmt tile r col : Nat) : Nat := cellGet (s.core s.me.core).tiles fmt tile r col

/-- Writes cells ((r, col), value) of a tile of a core. -/
def Core.setCells (k : Core) (fmt tile : Nat) (l : List ((Nat × Nat) × Nat)) : Core :=
  { k with tiles := l.foldl (fun m e => imgPut m (cellKey fmt tile e.1.1 e.1.2) (leBytes (cellBytes fmt) e.2)) k.tiles }

def State.setCells (s : State) (fmt tile : Nat) (l : List ((Nat × Nat) × Nat)) : State :=
  s.setCore s.me.core ((s.core s.me.core).setCells fmt tile l)

/-- The rows that the mask doesn't exclude. -/
def State.rows (s : State) (w : VWord) : List Nat := (List.range 64).filter fun r => !s.masked w r

/-- (row, column) of every cell that a word moves or updates. -/
def State.cells (s : State) (c : VCtx) (w : VWord) (fmt : Nat) : List (Nat × Nat) :=
  (s.rows w).flatMap fun r => (List.range (c.cols fmt)).map fun col => (r, col)

/-! ## Outer products (R163 to R167) -/

/-- The depth K of a format. -/
def depthOf (fmt : Nat) : Nat :=
  match fmt with
  | 0 | 1 | 12 | 13 | 15 | 19 => 2
  | 14 => 4
  | _ => 1

/-- KIX. -/
def kixOf (w : VWord) : Nat := w.fnBits 0 7

/-- The operands of one cell: the K pairs of patterns (A(k, r), B(k, c)), and the descriptor of the asymmetric formats. -/
structure Terms where
  pairs : List (Nat × Nat)
  desc : Nat
  deriving DecidableEq, Repr

/-- p of R164 and R166 as exact values, negated for TOPSUB. The model's choice (log 103): where the integer sum of an asymmetric
product is 0, R57 does not say which zero the product is; it takes the sign of SCL. -/
def Terms.values (t : Terms) (fmt slc : Nat) (sub : Bool) : List FVal :=
  let sgn := fun (v : FVal) => if sub then v.negate else v
  if fmt = 11 then t.pairs.map fun e => sgn (split64 slc e.1 e.2)
  else if fmt = 14 || fmt = 15 then
    let z : Int := if fmt = 14 then bits t.desc 16 4 else bits t.desc 16 8
    let sum : Int := t.pairs.foldl (fun a e => a + sx e.1 8 * ((e.2 : Int) - z)) 0
    [sgn (fmulExact (fpDecode 8 (bits t.desc 0 16)) (FVal.ofDyadic false ⟨sum, 0⟩))]
  else t.pairs.map fun e => sgn (fmulExact (fpDecode fmt e.1) (fpDecode fmt e.2))

/-- The new value of a cell (R164). -/
def newCell (fmt rm sr slc : Nat) (sub : Bool) (old : Nat) (t : Terms) : Nat :=
  if isInt fmt then
    let p : Int := t.pairs.foldl (fun a e => a + readInt fmt e.1 * readInt fmt e.2) 0
    trunc (if sub then (old : Int) - p else old + p) 32
  else
    let f := if fmt = 11 then 11 else 10
    roundVal f rm sr (fsumExact rm (fpDecode f old :: t.values fmt slc sub))

/-- B(k, c): the column operand. -/
def State.colOperand (s : State) (c : VCtx) (w : VWord) (k col : Nat) : Nat :=
  s.msrc c w.vb (ew w.f) ((kixOf w * depthOf w.f + k) * rowWidthOf w.f + col)

/-- The terms of cell (r, col), given the row operand A(k, r). -/
def State.terms (s : State) (c : VCtx) (w : VWord) (row : Nat → Nat → Nat) (r col : Nat) : Terms :=
  let K := depthOf w.f
  let g := kixOf w * K / grpSize (vtypeGrp c.ctl.vtype)
  { pairs := (List.range K).map fun k => (row k r, s.colOperand c w k col),
    desc := if w.f = 14 || w.f = 15 then s.v1 c 32 (128 * g + col) else 0 }

/-- The cells of an outer product onto a tile image. -/
def State.outer (s : State) (c : VCtx) (w : VWord) (m : Image) (tile : Nat) (sub : Bool) (row : Nat → Nat → Nat) :
    List ((Nat × Nat) × Nat) :=
  (s.cells c w w.f).map fun e =>
    (e, newCell w.f (c.rm w) (c.sr (rowWidthOf w.f * e.1 + e.2)) (vtypeSlc c.ctl.vtype) sub (cellGet m w.f tile e.1 e.2)
      (s.terms c w row e.1 e.2))

/-- An outer product of the strand's own core. -/
def outerRun (w : VWord) (sub : Bool) (row : VCtx → State → Nat → Nat → Nat) : VRun :=
  matrixRun (some w.vd.toNat) (vpure fun c s =>
    s.setCells w.f w.vd.toNat (s.outer c w (s.core s.me.core).tiles w.vd.toNat sub (row c s)))

/-- The row operand of TOPADD and TOPSUB (R164): I8 under the asymmetric formats. -/
def State.rowOperand (s : State) (c : VCtx) (w : VWord) (k r : Nat) : Nat :=
  s.msrc c w.va (rowWidth w.f) ((kixOf w * depthOf w.f + k) * 64 + r)

/-! ## Tile moves and readouts (R168, R170) -/

/-- CV (R168). -/
def tileCv (fmt rm sr cell : Nat) : Nat :=
  if fmt = 0 then trunc (sat (sx cell 32) (-128) 127) 8
  else if isTileRound fmt then roundVal fmt rm sr (fpDecode 10 cell)
  else cell

/-- The access of cell (r, col): row r at the base plus r times the stride. -/
def VCtx.tileAcc (c : VCtx) (w : VWord) (e : Nat × Nat) : VAcc :=
  let m := ew w.f / 8
  { elem := e.1, va := c.base w + BitVec.ofNat 64 e.1 * c.x w.vb + BitVec.ofNat 64 (e.2 * m), n := m, path := matPath }

/-- j = ZX(x[VB], 64), or TILE-INDEX (R170). -/
def tileIndex (c : VCtx) (w : VWord) (bound : Nat) : Except VStop Nat :=
  let j := (c.x w.vb).toNat
  if j < bound then .ok j else vfault .tileIndex allOnes (c.x w.vb)

/-- A readout: `at_ i` names the cell of element i, none past the tile. -/
def readoutRun (w : VWord) (bound : Nat) (at_ : Nat → Nat → Option (Nat × Nat)) : VRun :=
  matrixRun (some w.va.toNat) fun c s =>
    match tileIndex c w bound with
    | .error e => .error e
    | .ok j =>
      .ok (s.vsetAll c w.vd (ew w.f) ((s.active c w).map fun i =>
        (i, match at_ j i with
            | some e => tileCv w.f (c.rm w) (c.sr i) (s.cell w.f w.va.toNat e.1 e.2)
            | none => 0)))

/-! ## Sorted-difference words (R175 to R180) -/

/-- B and S (R61). -/
def VCtx.bun (c : VCtx) : Nat := 2 ^ vtypeBun c.ctl.vtype
def VCtx.bundle (c : VCtx) : Nat := 20 + 18 * c.bun

/-- Accesses of single bytes on the MAT path: SDSORT, PTLD, PTST, SDSCAN and SDDOT need no alignment (R162). -/
def byteAccs (elem n : Nat) (va : Word) : List VAcc :=
  (List.range n).map fun j => { elem := elem, va := va + BitVec.ofNat 64 j, n := 1, path := matPath }

/-- The single-byte writes of a run of bytes. -/
def bytePuts (elem : Nat) (va : Word) (bs : List Byte) : List VPut :=
  ((byteAccs elem bs.length va).zip bs).map fun e => { acc := e.1, bytes := [(e.2, 0xFF)] }

/-- The read phase of runs of n bytes (element, address) whose accesses have passed the probe: the first that a test refuses
gives SD-FORM with its element and address. -/
def State.readRuns (s : State) (c : VCtx) (n : Nat) (ok : Nat → Bool) :
    List (Nat × Word) → List (VAcc × Probed) → Except VStop (List Nat)
  | [], _ => .ok []
  | (j, va) :: l, ps =>
    match s.vchecks (ps.take n) with
    | .error e => .error e
    | .ok _ =>
      let v := leNat (s.vbytes c (ps.take n)).flatten
      if !ok v then vfault .sdForm (BitVec.ofNat 64 j) va
      else
        match s.readRuns c n ok l (ps.drop n) with
        | .error e => .error e
        | .ok vs => .ok (v :: vs)

/-- Probes every run before any is read (R136, R137), and reads them as little-endian numbers. -/
def State.readTables (s : State) (c : VCtx) (n : Nat) (ok : Nat → Bool) (l : List (Nat × Word)) :
    Except VStop (State × List Nat) :=
  let accs := l.flatMap fun e => byteAccs e.1 n e.2
  match s.vprobes .read accs with
  | .error e => .error e
  | .ok ps =>
    let s := (s.settleMat accs).settlePath ps
    match s.readRuns c n ok l ps with
    | .error e => .error e
    | .ok vs => if s.readWaits ps then .error (.wait []) else .ok (s.readDone c accs ps, vs)

/-- Addresses of P permutations: inside bundles, or packed (R176). -/
def VCtx.permAddrs (c : VCtx) (base : Word) (packed : Bool) (count : Nat) : List (Nat × Word) :=
  (List.range count).map fun j => (j, base + BitVec.ofNat 64 (j * (if packed then 20 else c.bundle)))

/-- Permutation j of a p-register. -/
def State.permOf (s : State) (p j : Nat) : Nat := imgNat (s.core s.me.core).pregs (1280 * p + 20 * j) 20

/-- Inserts an index before the first one with a greater key. -/
def insertBy (key : Nat → Int) (q : Nat) : List Nat → List Nat
  | [] => [q]
  | p :: l => if key q < key p then q :: p :: l else p :: insertBy key q l

/-- 0 to 31 by ascending key, equal keys by ascending index (R175). -/
def sortBy (key : Nat → Int) : List Nat := (List.range 32).foldl (fun l q => insertBy key q l) []

/-- The codes of one row for k = 2 to 32, with the error carried forward (R175). -/
def sdCodes (many : Bool) : Int → List Int → List Nat
  | _, [] => []
  | cur, t :: ts =>
    let code := sdNearest many (t - cur)
    code :: sdCodes many (cur + sdStep many code) ts

/-- The 18 bytes of one row (R60). -/
def sdRow (many : Bool) (scl : Nat) (ws : List Int) : Nat :=
  match ws with
  | [] => 0
  | base :: ts =>
    scl % 512 + trunc base 8 * 2 ^ 12 +
      ((sdCodes many base ts).zipIdx.map fun e => e.1 * 2 ^ (4 * (e.2 + 2) + 12)).sum

/-- The bytes of one bundle of weights (R61, R175). -/
def sdBundle (b : Nat) (scl : Nat → Nat) (weight : Nat → Nat → Int) : List Byte :=
  let perm := sortBy fun q => (List.range b).foldl (fun a r => a + weight r q) 0
  leBytes 20 ((perm.zipIdx.map fun e => e.1 * 2 ^ (5 * e.2)).sum) ++
    (List.range b).flatMap fun r => leBytes 18 (sdRow (1 < b) (scl r) (perm.map fun q => weight r q))

/-- Suffix sums T(1) to T(32) of permuted activations. -/
def suffixSums : List Int → List Int
  | [] => []
  | x :: xs =>
    match suffixSums xs with
    | [] => [x]
    | t :: ts => (x + t) :: t :: ts

/-- SDSCAN's effect on an s-register for the tables of its groups (R177). -/
def State.scanGroups (s : State) (c : VCtx) (w : VWord) (perms : List Nat) : State :=
  let k := s.core s.me.core
  let sums := perms.zipIdx.map fun e =>
    (e.2, suffixSums ((List.range 32).map fun n => sx (s.vget c w.va 8 (32 * e.2 + permEntry e.1 n)) 8))
  let m := sums.foldl (fun m e => imgPut m (8192 * w.vd.toNat + 128 * e.1)
    (e.2.flatMap fun t => leBytes 4 (trunc t 32))) k.sregs
  s.setCore s.me.core { k with sregs := m }

/-- T(k) of group j in an s-register. -/
def State.sumOf (s : State) (reg j k : Nat) : Int :=
  sx (imgNat (s.core s.me.core).sregs (8192 * reg + 4 * (32 * j + k - 1)) 4) 32

/-- The value of row `row` of group j (R178). -/
def State.sdValue (s : State) (c : VCtx) (w : VWord) (j row : Nat) : Nat :=
  let acc := sx (trunc (sdAcc (1 < c.bun) row fun k => s.sumOf w.vb.toNat j k) 32) 32
  sdScaled acc (rowScale row) (fpDecode 10 (s.v1 c 32 j))

/-! ## Stack-engine products (R181) -/

/-- The range of addresses of one operand of SEMV or of a copy-engine command: first byte and length. -/
structure Span where
  first : Word
  len : Nat
  acc : Acc
  deriving DecidableEq, Repr

/-- The first address that a range touches in each 4 KB. -/
def Span.granules (r : Span) : List Word :=
  if r.len = 0 then []
  else
    let o := r.first.toNat % 4096
    (List.range ((o + r.len + 4095) / 4096)).map fun k =>
      if k = 0 then r.first else r.first + BitVec.ofNat 64 (4096 * k - o)

/-- Translation and memory type of every page of a command's range: (64 KB page of the virtual address, physical page). -/
def State.granulePages (s : State) (a : Acc) : List Word → Except FaultInfo (List (Nat × Nat))
  | [] => .ok []
  | va :: l =>
    match s.xlate s.me.ptroot va a with
    | .error f => .error f
    | .ok x =>
      if x.device then .error { kind := .memType, addr := va }
      else
        match s.granulePages a l with
        | .error f => .error f
        | .ok ps => .ok ((va.toNat / 65536, x.pa - va.toNat % 65536) :: ps)

def State.spanPages (s : State) (r : Span) : Except FaultInfo (List (Nat × Nat)) :=
  match s.granulePages r.acc r.granules with
  | .error f => .error f
  | .ok ps => .ok ps.eraseDups

def State.pagesOf (s : State) : List Span → Except FaultInfo (List (Nat × Nat))
  | [] => .ok []
  | r :: rs =>
    match s.spanPages r with
    | .error f => .error f
    | .ok p =>
      match s.pagesOf rs with
      | .error f => .error f
      | .ok ps => .ok ((p ++ ps).eraseDups)

/-- The physical address that pages found give for a virtual one. -/
def pageAt (pages : List (Nat × Nat)) (va : Word) : Nat := assocGet 0 pages (va.toNat / 65536) + va.toNat % 65536

/-- The compare of R224 for every chamber slot that the ranges read. -/
def State.spanSchedule (s : State) (pages : List (Nat × Nat)) (rs : List Span) : Option FaultInfo :=
  (((rs.filter fun r => r.acc = .read).flatMap fun r => r.granules).find? fun va => s.slotMismatch (pageAt pages va)).map
    fun va => { kind := .schedule, addr := va }

/-- The checks of a command's ranges at issue: pages, then the compare of R224. The model's choice (log 118): of several pages that
fault, all of no element, the first in the order of `rs` is reported. -/
def State.spansPages (s : State) (rs : List Span) : Except FaultInfo (List (Nat × Nat)) :=
  match s.pagesOf rs with
  | .error f => .error f
  | .ok ps =>
    match s.spanSchedule ps rs with
    | some f => .error f
    | none => .ok ps

/-- Addresses in the chamber slots that the ranges of a command read. -/
def readGranules (pages : List (Nat × Nat)) (rs : List Span) : List Nat :=
  (rs.filter fun r => r.acc = .read).flatMap fun r => r.granules.map (pageAt pages)

/-- What issuing a command leaves: the translations of its pages are noted (R316). -/
def State.noteSpans (s : State) (rs : List Span) : State :=
  rs.foldl (fun s r => r.granules.foldl (fun s va => s.noteXlate s.me.ptroot va) s) s

/-- As a scalar word issues it, ARM becomes 0 with it for every chamber slot that its ranges read (R224). -/
def State.touchSpans (s : State) (pages : List (Nat × Nat)) (rs : List Span) : State :=
  ((readGranules pages rs).foldl (fun s pa => s.disarm pa) s).noteSpans rs

/-- A SEMV record that R181 refuses. -/
def semvBad (r : List Byte) : Bool :=
  recField r 323 189 ≠ 0 || recField r 288 32 = 0 || recField r 288 32 % 2 ^ recField r 320 2 ≠ 0 || recField r 256 32 = 0

/-- Its ranges: weights, activations, scales, outputs. -/
def semvSpans (r : List Byte) : List Span :=
  let rs := semvRanges r
  let out := rs.drop 3
  (rs.take 3).map (fun e => ⟨e.1, e.2, .read⟩) ++ out.map (fun e => ⟨e.1, e.2, .write⟩) ++
    if recField r 322 1 = 1 then out.map fun e => ⟨e.1, e.2, .read⟩ else []

/-- The stack that holds a page whole; none outside HBM. -/
def State.stackOf (s : State) (pa : Nat) : Option Nat :=
  match s.region pa with
  | .hbm k => some k
  | _ => none

/-! ## Outer-product words -/

/-- TOPADD (R164, R166, R167). -/
def topaddRun (w : VWord) : VRun := outerRun w false fun c s => s.rowOperand c w
/-- TOPADD as a convoy of its own. -/
def execTopadd (w : VWord) (s : State) : Result := vectorStep (.topadd w) (topaddRun w) s

/-- TOPSUB (R164). -/
def topsubRun (w : VWord) : VRun := outerRun w true fun c s => s.rowOperand c w
/-- TOPSUB as a convoy of its own. -/
def execTopsub (w : VWord) (s : State) : Result := vectorStep (.topsub w) (topsubRun w) s

/-- TOPSLD: the row operand slides by STR (R165). -/
def topsldRun (w : VWord) : VRun := outerRun w false fun c s k r =>
    s.msrc c w.va (ew w.f) (r * (w.fnBits 7 2 + 1) + kixOf w * depthOf w.f + k)
/-- TOPSLD as a convoy of its own. -/
def execTopsld (w : VWord) (s : State) : Result := vectorStep (.topsld w) (topsldRun w) s

/-! ## Tile moves and readouts -/

/-- TLD (R168). -/
def tldRun (w : VWord) : VRun := matrixRun (some w.vd.toNat) fun c s =>
    let es := s.cells c w w.f
    match s.vreadNat c (es.map (c.tileAcc w)) with
    | .error e => .error e
    | .ok (t, vs) => .ok (t.setCells w.f w.vd.toNat (es.zip vs))
/-- TLD as a convoy of its own. -/
def execTld (w : VWord) (s : State) : Result := vectorStep (.tld w) (tldRun w) s

/-- TST, in ascending row, then column (R168). -/
def tstRun (w : VWord) : VRun := matrixRun (some w.vd.toNat) fun c s =>
    s.vwrite c w.clr.toNat ((s.cells c w w.f).map fun e =>
      let v := tileCv w.f (c.rm w) (c.sr (128 * e.1 + e.2)) (s.cell w.f w.vd.toNat e.1 e.2)
      { acc := c.tileAcc w e, bytes := full (leBytes (ew w.f / 8) v) })
/-- TST, in ascending row, then column as a convoy of its own. -/
def execTst (w : VWord) (s : State) : Result := vectorStep (.tst w) (tstRun w) s

/-- TFILL: every cell, whatever TCOLS holds (R169). -/
def tfillRun (w : VWord) : VRun := matrixRun (some w.vd.toNat) (vpure fun c s =>
    let v := (c.x w.va).toNat % 2 ^ 32
    s.setCells 10 w.vd.toNat ((List.range 64).flatMap fun r => (List.range 128).map fun col => ((r, col), v)))
/-- TFILL as a convoy of its own. -/
def execTfill (w : VWord) (s : State) : Result := vectorStep (.tfill w) (tfillRun w) s

/-- TRDROW (R170). -/
def trdrowRun (w : VWord) : VRun := readoutRun w 64 fun j i => if i < rowWidthOf w.f then some (j, i) else none
/-- TRDROW as a convoy of its own. -/
def execTrdrow (w : VWord) (s : State) : Result := vectorStep (.trdrow w) (trdrowRun w) s

/-- TRDCOL (R170). -/
def trdcolRun (w : VWord) : VRun := readoutRun w (rowWidthOf w.f) fun j i => if i < 64 then some (i, j) else none
/-- TRDCOL as a convoy of its own. -/
def execTrdcol (w : VWord) (s : State) : Result := vectorStep (.trdcol w) (trdcolRun w) s

/-- TWRROW (R170). -/
def twrrowRun (w : VWord) : VRun := matrixRun (some w.vd.toNat) fun c s =>
    match tileIndex c w 64 with
    | .error e => .error e
    | .ok j =>
      .ok (s.setCells w.f w.vd.toNat (((s.active c w).filter fun i => i < rowWidthOf w.f).map fun i =>
        ((j, i), s.vget c w.va (ew w.f) i)))
/-- TWRROW as a convoy of its own. -/
def execTwrrow (w : VWord) (s : State) : Result := vectorStep (.twrrow w) (twrrowRun w) s

/-! ## Sorted-difference words -/

/-- SDSORT (R175). -/
def sdsortRun (w : VWord) : VRun := matrixRun none fun c s =>
    let b := c.bun
    s.vwrite c w.clr.toNat ((List.range (c.vl / (32 * b))).flatMap fun g =>
      bytePuts g (c.base w + BitVec.ofNat 64 (g * c.bundle))
        (sdBundle b (fun r => s.v1 c 16 (g * b + r)) fun r q => sx (s.vget c w.vb 8 ((g * b + r) * 32 + q)) 8))
/-- SDSORT as a convoy of its own. -/
def execSdsort (w : VWord) (s : State) : Result := vectorStep (.sdsort w) (sdsortRun w) s

/-- PTLD: SD-FORM for the first table that is no permutation (R176). -/
def ptldRun (w : VWord) : VRun := matrixRun none fun c s =>
    match s.readTables c 20 isPerm (c.permAddrs (c.base w) (w.vb = 1) (Nat.min c.vl 64)) with
    | .error e => .error e
    | .ok (t, vs) =>
      let k := t.core t.me.core
      .ok (t.setCore t.me.core { k with
        pregs := vs.zipIdx.foldl (fun m e => imgPut m (1280 * w.vd.toNat + 20 * e.2) (leBytes 20 e.1)) k.pregs })
/-- PTLD as a convoy of its own. -/
def execPtld (w : VWord) (s : State) : Result := vectorStep (.ptld w) (ptldRun w) s

/-- PTST (R176). It is none of the words whose writes clear poison (R141). -/
def ptstRun (w : VWord) : VRun := matrixRun none fun c s =>
    s.vwrite c w.clr.toNat ((c.permAddrs (c.base w) (w.vb = 1) (Nat.min c.vl 64)).flatMap fun e =>
      bytePuts e.1 e.2 (leBytes 20 (s.permOf w.vd.toNat e.1))) false
/-- PTST as a convoy of its own. -/
def execPtst (w : VWord) (s : State) : Result := vectorStep (.ptst w) (ptstRun w) s

/-- SDSCAN from a p-register (R177). -/
def sdscanRun (w : VWord) : VRun := matrixRun none (vpure fun c s =>
    s.scanGroups c w ((List.range (Nat.min (c.vl / 32) 64)).map fun j => s.permOf w.vb.toNat j))
/-- SDSCAN from a p-register as a convoy of its own. -/
def execSdscan (w : VWord) (s : State) : Result := vectorStep (.sdscan w) (sdscanRun w) s

/-- SDSCAN from tables in memory (R177). -/
def sdscanMemRun (w : VWord) : VRun := matrixRun none fun c s =>
    match s.readTables c 20 isPerm (c.permAddrs (c.x w.vc) (w.fnBits 12 1 = 1) (Nat.min (c.vl / 32) 64)) with
    | .error e => .error e
    | .ok (t, vs) => .ok (t.scanGroups c w vs)
/-- SDSCAN from tables in memory as a convoy of its own. -/
def execSdscanMem (w : VWord) (s : State) : Result := vectorStep (.sdscanMem w) (sdscanMemRun w) s

/-- SDDOT (R178). -/
def sddotRun (w : VWord) : VRun := matrixRun none fun c s =>
    let b := c.bun
    let l := (List.range (Nat.min (c.vl / b) 64)).flatMap fun j => (List.range b).map fun r =>
      (j, c.base w + BitVec.ofNat 64 (j * c.bundle + 20 + 18 * r))
    match s.readTables c 18 (fun _ => true) l with
    | .error e => .error e
    | .ok (t, vs) =>
      .ok (t.vsetAll c w.vd 32 (vs.zipIdx.map fun e => (e.2, s.sdValue c w (e.2 / b) e.1)))
/-- SDDOT as a convoy of its own. -/
def execSddot (w : VWord) (s : State) : Result := vectorStep (.sddot w) (sddotRun w) s

/-- SDFIN: all of va is read first (R179). -/
def sdfinRun (w : VWord) : VRun := matrixRun none (vpure fun c s =>
    let b := c.bun
    s.vsetAll c w.vd 32 ((List.range (Nat.min b c.vl)).map fun r =>
      (r, (List.range (c.vl / b)).foldl (fun a j => f32Add a (s.vget c w.va 32 (j * b + r))) (s.vget c w.vd 32 r))))
/-- SDFIN as a convoy of its own. -/
def execSdfin (w : VWord) (s : State) : Result := vectorStep (.sdfin w) (sdfinRun w) s

/-- SLD (R180). -/
def sldRun (w : VWord) : VRun := matrixRun none fun c s =>
    let l := (List.range (Nat.min c.vl 2048)).map fun i =>
      ({ elem := i, va := c.base w + BitVec.ofNat 64 (4 * i), n := 4, path := matPath } : VAcc)
    match s.vread c l with
    | .error e => .error e
    | .ok (t, bs) =>
      let k := t.core t.me.core
      .ok (t.setCore t.me.core { k with sregs := imgPut k.sregs (8192 * w.vd.toNat) bs.flatten })
/-- SLD as a convoy of its own. -/
def execSld (w : VWord) (s : State) : Result := vectorStep (.sld w) (sldRun w) s

/-- SST (R180). -/
def sstRun (w : VWord) : VRun := matrixRun none fun c s =>
    s.vwrite c w.clr.toNat ((List.range (Nat.min c.vl 2048)).map fun i =>
      { acc := { elem := i, va := c.base w + BitVec.ofNat 64 (4 * i), n := 4, path := matPath },
        bytes := full (imgBytes (s.core s.me.core).sregs (8192 * w.vd.toNat + 4 * i) 4) })
/-- SST as a convoy of its own. -/
def execSst (w : VWord) (s : State) : Result := vectorStep (.sst w) (sstRun w) s

/-! ## SEMV -/

/-- SEMV: the record and every range are checked, then the stack engine holds the command (R181). The model's choices (log 107):
the record is read on the MAT path; an OUT or ASC that is no multiple of 4 raises MISALIGNED of no element, OUT first, after the
record's form. -/
def semvRun (w : VWord) : VRun := matrixRun none fun c s =>
    let b := c.base w
    match s.vread c [{ elem := noElem, va := b, n := 64, path := matPath }] with
    | .error e => .error e
    | .ok (t, bs) =>
      let r := bs.flatten
      if semvBad r then vfault .semvForm allOnes b
      else if (recWord r 192).toNat % 4 ≠ 0 then vfault .misaligned allOnes (recWord r 192)
      else if (recWord r 128).toNat % 4 ≠ 0 then vfault .misaligned allOnes (recWord r 128)
      else
        match t.spansPages (semvSpans r), t.spanPages ((semvSpans r).headD ⟨0, 0, .read⟩) with
        | .error f, _ => .error (.fault f)
        | _, .error f => .error (.fault f)
        | .ok ps, .ok ws =>
          let st := (ws.map fun p => t.stackOf p.2).eraseDups
          if st.length ≠ 1 || st = [none] then vfault .stkRange allOnes (recWord r 0)
          else
            let t := (t.disarmRead c (readGranules ps (semvSpans r))).noteSpans (semvSpans r)
            .ok { t with stackq := t.stackq ++ [{ owner := t.me.owner, kind := .semv, recd := r, pages := ps,
                                                    colour := w.clr.toNat, step := t.free }] }
/-- SEMV as a convoy of its own. -/
def execSemv (w : VWord) (s : State) : Result := vectorStep (.semv w) (semvRun w) s

end Sys2Proof.Machine
end

