-- ==== Sys2Proof/Machine/Braid.lean ====
section
/-! DEFINITION. Braids (R171 to R174, R187, R279, R309): BRFORM, BRWAIT, BRLEAVE, BRTOPADD, and what a save or an end does to
a braid. -/
namespace Sys2Proof.Machine

/-! ## Braids of a cluster -/

/-- Core index of a core within its cluster. -/
def indexOf (core : Nat) : Nat := core % 4

/-- A member of a strand that stands. -/
def BraidMember.isOf (m : BraidMember) (t : Strand) : Bool := m.index = indexOf t.core && m.slot = t.slot && !m.gone

/-- The braid that a strand's BRFORM belongs to. -/
def State.braidOf (s : State) (t : Strand) : Option Braid :=
  s.braids.find? fun b => b.cluster = clusterOf t.core && b.members.any fun m => m.isOf t

/-- A core whose strands hold a pending or active braid (R187). -/
def State.coreBraided (s : State) (core : Nat) : Bool :=
  s.braids.any fun b => b.cluster = clusterOf core && b.members.any fun m => m.index = indexOf core

/-- Two entries are the same braid: its cluster and the cores and tile that its member word names. -/
def Braid.same (a b : Braid) : Bool := a.cluster = b.cluster && a.cores = b.cores && a.tile = b.tile

def State.setBraid (s : State) (b : Braid) : State :=
  { s with braids := s.braids.map fun c => if c.same b then b else c }

def State.dropBraid (s : State) (b : Braid) : State := { s with braids := s.braids.filter fun c => !c.same b }

/-- Physical core of a member. -/
def Braid.core (b : Braid) (m : BraidMember) : Nat := 4 * b.cluster + m.index

/-- Member number (R171): its place in BRFORM's order. -/
def Braid.number (b : Braid) (index : Nat) : Nat := (b.cores.idxOf? index).getD 0

def Braid.isLeader (b : Braid) (index : Nat) : Bool := b.number index = 0

/-- Every member but the leader is marked ready. -/
def Braid.allReady (b : Braid) : Bool := b.members.all fun m => b.isLeader m.index || m.ready

/-- The completion record (R174). -/
def brRecord (epoch : Nat) (abt : Bool) (flt n : Nat) : Word :=
  BitVec.ofNat 64 (epoch * 2 ^ 32 + (if abt then 2 ^ 16 else 0) + flt * 2 ^ 8 + (n - 1) * 2 ^ 4 + (2 ^ n - 1))

/-- FLT bits of the open epoch. -/
def Braid.flt (b : Braid) : Nat :=
  (b.members.filter fun m => m.fault.isSome).foldl (fun a m => a + 2 ^ b.number m.index) 0

/-! ## Records at the braid barriers (R174, R279) -/

def State.setBraidRec (s : State) (core : Nat) (r : Option Word) : State :=
  s.setCore core { s.core core with braidRec := r }

/-- A waiting BRWAIT returns a record. -/
def Strand.brTake (t : Strand) (d : Reg) (r : Word) : Strand := { t.xset d r with pc := t.pc + 4, parked := .no }

/-- A BRWAIT that was given its record during a halt returns. -/
def Strand.brDone (t : Strand) : Strand :=
  match t.parked with
  | .brreturn d r => t.brTake d r
  | _ => t

/-- A waiting BRWAIT is given a record: it returns, on a core that a cut halts only once it may issue again (R201, R310). -/
def State.brGive (s : State) (t : Strand) (d : Reg) (r : Word) : State :=
  s.setStrand (if s.halted t.core then { t with parked := .brreturn d r } else t.brTake d r)

/-- The XD of the BRWAIT in which the strand of a member waits. -/
def State.brWaiting (s : State) (b : Braid) (m : BraidMember) : Option (Strand × Reg) :=
  match s.strandAt (b.core m) m.slot with
  | some t => match t.parked with | .brwait d => some (t, d) | _ => none
  | none => none

/-- A record reaches a member: a BRWAIT that waits returns it, else it stands at the barrier of a member other than the leader
(R174, R279). -/
def State.deliver (s : State) (b : Braid) (r : Word) (m : BraidMember) : State :=
  if m.gone then s
  else
    match s.brWaiting b m with
    | some (t, d) => s.brGive t d r
    | none => if b.isLeader m.index then s else s.setBraidRec (b.core m) (some r)

/-- The record is multicast. The leader waits in no BRWAIT then but one that an abort leaves to be issued again. -/
def State.multicast (s : State) (b : Braid) (r : Word) : State :=
  (b.members.filter fun m => !b.isLeader m.index).foldl (fun s m => s.deliver b r m) s

/-- The braid dissolves: a BRWAIT of another member that still waits returns a record with ABT = 1, untaken records are
discarded (R171, R279, R309). `leaver` is the core index of the member that leaves. -/
def State.dissolve (s : State) (b : Braid) (leaver : Option Nat) : State :=
  let r := brRecord b.epoch true 0 b.cores.length
  let s := b.members.foldl (fun s m =>
    (if leaver = some m.index then s else s.deliver b r m).setBraidRec (b.core m) none) s
  s.dropBraid b

/-! ## Epochs (R171) -/

/-- The bytes of a tile. -/
def tileBytes (m : Image) (tile : Nat) : Image :=
  (m.filter fun p => 32768 * tile ≤ p.1 && p.1 < 32768 * (tile + 1)).map fun p => (p.1 - 32768 * tile, p.2)

/-- A tile image with one tile replaced. -/
def withTile (m : Image) (tile : Nat) (t : Image) : Image :=
  (m.filter fun p => p.1 < 32768 * tile) ++ t.map (fun p => (p.1 + 32768 * tile, p.2)) ++
    m.filter fun p => 32768 * (tile + 1) ≤ p.1

/-- The epoch opens: each member copies its tile to the restore buffer, ready marks and faults are cleared. -/
def State.openEpoch (s : State) (b : Braid) : State :=
  let s := b.members.foldl (fun s m =>
    let k := s.core (b.core m)
    s.setCore (b.core m) { k with restore := tileBytes k.tiles b.tile }) s
  s.setBraid { b with open_ := true, members := b.members.map fun m => { m with ready := false, fault := none } }

/-- A member's tile takes its value from before the epoch. -/
def State.restoreTile (s : State) (b : Braid) (m : BraidMember) : State :=
  let k := s.core (b.core m)
  s.setCore (b.core m) { k with tiles := withTile k.tiles b.tile k.restore }

/-- The tile of a member whose strand ended during the epoch is released. -/
def State.releaseGone (s : State) (b : Braid) : State :=
  (b.members.filter fun m => m.gone).foldl (fun s m =>
    s.setCore (b.core m) ((s.core (b.core m)).releaseUnit b.tile)) s

/-- The epoch completes: faulted tiles are restored, EPOCH counts on, the record is multicast; a member that ended during
the epoch then leaves (R171). -/
def State.completeEpoch (s : State) (b : Braid) : State :=
  let s := (b.members.filter fun m => m.fault.isSome).foldl (fun s m => s.restoreTile b m) s
  let r := brRecord (b.epoch + 1) false b.flt b.cores.length
  let n := { b with open_ := false, epoch := b.epoch + 1, last := r,
                    members := b.members.map fun m => { m with fault := none } }
  let s := (s.multicast b r).setBraid n
  if b.members.any fun m => m.gone then (s.releaseGone b).dissolve n none else s

/-- The epoch is aborted: every tile is restored, a record with ABT = 1 and every FLT bit set is multicast (R171). -/
def State.abortEpoch (s : State) (b : Braid) : State :=
  let s := b.members.foldl (fun s m => s.restoreTile b m) s
  let r := brRecord b.epoch true (2 ^ b.cores.length - 1) b.cores.length
  let n := { b with open_ := false, last := r, members := b.members.map fun m => { m with fault := none } }
  (s.releaseGone b |>.multicast b r).setBraid n

/-- BRLEAVE of a strand of a braid with no epoch open (R171). -/
def State.leaveBraid (s : State) (t : Strand) : State :=
  match s.braidOf t with
  | none => s
  | some b =>
    if b.formed then s.dissolve b (some (indexOf t.core))
    else
      let ms := b.members.filter fun m => !m.isOf t
      if ms = [] then s.dropBraid b else s.setBraid { b with members := ms }

/-- The braid of a strand has an epoch open. -/
def State.epochOpen (s : State) (t : Strand) : Bool :=
  match s.braidOf t with
  | some b => b.open_
  | none => false

/-- What a save does to the strand's braid before its image is written; none while it must wait (R171, R309). -/
def State.saveBraid (s : State) (t : Strand) (forced : Bool) : Option State :=
  match s.braidOf t with
  | none => some s
  | some b =>
    if !b.open_ then some (s.leaveBraid t)
    else if forced && b.isLeader (indexOf t.core) then some ((s.abortEpoch b).leaveBraid t)
    else none

/-- What the end of a strand by TRET action 1 does to its braid (R171, R363). -/
def State.endBraid (s : State) (t : Strand) : State :=
  match s.braidOf t with
  | none => s
  | some b =>
    if !b.open_ then s.leaveBraid t
    else if b.isLeader (indexOf t.core) then (s.abortEpoch b).leaveBraid t
    else s.setBraid { b with members := b.members.map fun m => if m.isOf t then { m with gone := true } else m }

/-! ## BRFORM (R187) -/

/-- Fields of a member word. -/
def brCount (v : Word) : Nat := bits v.toNat 32 2 + 1
def brTile (v : Word) : Nat := bits v.toNat 36 3
def brField (v : Word) (m : Nat) : Nat := bits v.toNat (8 * m) 8
def brCores (v : Word) : List Nat := (List.range (brCount v)).map (brField v)

/-- A member word that raises BRAID-FORM on a core. -/
def brBad (v : Word) (core : Nat) : Bool :=
  bits v.toNat 39 25 ≠ 0 || bits v.toNat 34 2 ≠ 0 || brCount v = 1 ||
  ((List.range 4).any fun m => brCount v ≤ m && brField v m ≠ 0) ||
  (brCores v).any (fun c => 3 < c) || (brCores v).eraseDups.length ≠ (brCores v).length ||
  !(brCores v).contains (indexOf core)

/-- The BRFORM of the executing strand stands; the last one that matches forms the braid (R171). -/
def State.standBraid (s : State) (v : Word) : State :=
  let t := s.me
  let m : BraidMember := { index := indexOf t.core, slot := t.slot, word := v, ready := false, fault := none, gone := false,
                           logical := t.logical, req := t.req }
  let cores := brCores v
  let new : Braid := { cluster := clusterOf t.core, formed := false, open_ := false, epoch := 0, members := [m],
                       cores := cores, tile := brTile v, last := brRecord 0 false 0 cores.length }
  match s.braids.find? fun b => b.same new with
  | none => { s with braids := s.braids ++ [new] }
  | some b =>
    let ms := b.members ++ [m]
    let formed := ms.length = cores.length
    let n := { b with formed := formed, epoch := 0,
                      members := if formed then ms.map fun m => { m with ready := !b.isLeader m.index } else ms }
    let s := s.setBraid n
    -- a BRWAIT of the leader that waited for the braid to form returns (R187)
    match ms.find? fun m => formed && b.isLeader m.index with
    | some m => s.deliver n n.last m
    | none => s

/-- BRFORM: BRAID-FORM, BRAID-STATE, UNIT-UNHELD, in that order; the tile is granted only when all pass. -/
def execBrform (d a : Reg) (s : State) : Result :=
  scalarStep [d, a] (fun s =>
    match s.blocksDone with
    | .error e => .error e
    | .ok _ =>
      let v := s.xget a
      if brBad v s.me.core then fault .braidForm v
      else if s.coreBraided s.me.core then fault .braidState 0
      else
        match unheld (s.core s.me.core) s.me.slot [brTile v] with
        | some u => fault .unitUnheld (BitVec.ofNat 64 (unitCode u))
        | none =>
          let s := ((s.grantUnits [brTile v]).setBraidRec s.me.core none).standBraid v
          .ok (s.xset d (BitVec.ofNat 64 (((brCores v).idxOf? (indexOf s.me.core)).getD 0))).advance) s

/-! ## BRWAIT and BRLEAVE (R171, R187, R279) -/

/-- The member of a strand is marked ready. -/
def State.markReady (s : State) (b : Braid) : State :=
  s.setBraid { b with members := b.members.map fun m => if m.isOf s.me then { m with ready := true } else m }

/-- BRWAIT gives a record and goes on; a record at the barrier is taken. -/
def State.brReturn (s : State) (d : Reg) (r : Word) (take : Bool) : State :=
  let s := if take then s.setBraidRec s.me.core none else s
  { s with me := s.me.brTake d r }

def State.brPark (s : State) (d : Reg) : State := { s with me := { s.me with parked := .brwait d } }

/-- The strand waits in BRWAIT; the next completion ends the wait (`State.deliver`). -/
def Strand.inBrwait (t : Strand) : Bool := match t.parked with | .brwait _ => true | _ => false

/-- BRWAIT. A waiting strand stays parked and the word is issued again. -/
def execBrwait (d : Reg) (s : State) : Result :=
  scalarStep [d] (fun s =>
    match s.blocksDone, s.me.parked with
    | .error e, _ => .error e
    | .ok _, .brreturn _ _ => .ok { s with me := s.me.brDone }
    | .ok _, _ =>
      match s.braidOf s.me with
      | none => fault .braidState 0
      | some b =>
        match (s.core s.me.core).braidRec with
        | some r => .ok ((s.markReady b).brReturn d r true)
        | none =>
          if !b.formed then .ok (s.brPark d)
          else if b.isLeader (indexOf s.me.core) then
            .ok (if b.open_ then s.brPark d else s.brReturn d b.last false)
          else .ok (if s.me.inBrwait then s else (s.markReady b).brPark d)) s

/-- BRLEAVE: waits while the epoch is open. -/
def execBrleave (s : State) : Result :=
  scalarStep [] (fun s =>
    match s.blocksDone with
    | .error e => .error e
    | .ok _ =>
      match s.braidOf s.me with
      | none => fault .braidState 0
      | some b => if b.open_ then .error .wait else .ok (s.leaveBraid s.me).advance) s

/-! ## BRTOPADD (R173) -/

/-- Bytes of the share that a word reads: first and length. -/
def shareSpan (w : VWord) (o : Nat) : Nat × Nat :=
  let j := kixOf w * depthOf w.f * 64
  let n := depthOf w.f * 64
  if ew w.f = 4 then (o + j / 2, n / 2) else (o + j * (ew w.f / 8), n * (ew w.f / 8))

/-- The share of every member lies in its niche and is aligned. -/
def shareOk (w : VWord) (o : Word) : Bool :=
  o.toNat % elemBytes w.f = 0 && (shareSpan w o.toNat).1 + (shareSpan w o.toNat).2 ≤ 0x40000

/-- Element A(k, r) of a member's share, by physical address. -/
def State.shareElem (s : State) (w : VWord) (core o k r : Nat) : Nat :=
  let j := (kixOf w * depthOf w.f + k) * 64 + r
  let niche := nicheBase + 0x40000 * core
  if ew w.f = 4 then bits (s.natAt (niche + o + j / 2) 1) (4 * (j % 2)) 4
  else s.natAt (niche + o + j * (ew w.f / 8)) (ew w.f / 8)

/-- An uncorrectable error in a share. The model's choice (log 106): R173 does not say whether bytes of rows that the mask leaves
out count as read; the whole share does. -/
def State.sharePoisoned (s : State) (w : VWord) (core o : Nat) : Bool :=
  let (a, n) := shareSpan w o
  (List.range n).any fun k => s.poisoned (nicheBase + 0x40000 * core + a + k)

/-- The BRAID-SHARE notice of a member (R361); on a core that a cut halts it waits for the release (R365). -/
def State.shareRecord (s : State) (b : Braid) (m : BraidMember) (cause : Nat) : State :=
  let r : TrapRec := { kind := .braidShare, detail := b.number m.index + cause * 256 + (b.epoch + 1) * 2 ^ 64,
                       req := m.req, unit := m.logical, slot := m.slot }
  if s.halted (b.core m) then s.deferRecord (b.core m) r
  else
    match s.strandAt (b.core m) m.slot with
    | some t => if m.gone then (s.postTrap m.logical r).1 else s.trapStrand t r
    | none => (s.postTrap m.logical r).1

/-- A member's share of one word: it succeeds or fails whole. The model's choice (log 123): where a member has released its braid
tile through UNITS while no epoch was open, R173 does not say what its shares of the next epoch do; they still go to that tile of its
core, whoever holds it. -/
def State.share (s : State) (c : VCtx) (w : VWord) (o : Nat) (b : Braid) (m : BraidMember) : State × BraidMember :=
  if m.fault.isSome then (s, m)
  else
    let core := b.core m
    let cause := if m.gone then some 0x04 else if s.sharePoisoned w core o then some 0x10 else none
    match cause with
    | some k => (s.shareRecord b m k, { m with fault := some k })
    | none =>
      let k := s.core core
      (s.setCore core (k.setCells w.f b.tile (s.outer c w k.tiles b.tile false (s.shareElem w core o))), m)

/-- Every member's share. -/
def State.shares (s : State) (c : VCtx) (w : VWord) (o : Nat) (b : Braid) : State :=
  let r := b.members.foldl (fun (a : State × List BraidMember) m =>
    let p := a.1.share c w o b m
    (p.1, a.2 ++ [p.2])) (s, [])
  r.1.setBraid { b with members := r.2 }

/-- BRTOPADD: the checks at the leader's issue, the wait for every member, the shares, and under FIN the completion. -/
def brtopaddRun (w : VWord) : VRun := fun c s =>
  if c.vl = 0 then .ok s
  else
    match s.braidOf s.me with
    | none => vfault .braidState
    | some b =>
      let o := c.x w.va
      if !b.formed || !b.isLeader (indexOf s.me.core) || b.tile ≠ w.vd.toNat then vfault .braidState
      else if !shareOk w o then vfault .braidRange allOnes o
      else if !b.open_ && !b.allReady then .error (.wait [])
      else
        let s := if b.open_ then s else s.openEpoch b
        let s := s.shares c w o.toNat ((s.braidOf s.me).getD b)
        .ok (if w.fnBits 7 1 = 1 then s.completeEpoch ((s.braidOf s.me).getD b) else s)

/-- BRTOPADD as a convoy of its own. -/
def execBrtopadd (w : VWord) (s : State) : Result := vectorStep (.brtopadd w) (brtopaddRun w) s

end Sys2Proof.Machine
end

