-- ==== Sys2Proof/Machine/Convoys.lean ====
section
/-! DEFINITION. Convoys of several words (R77 to R80, R210), the end of a block (R74), early work (R107, R214), reading ahead
(R228), and the events of a sequencer. -/
namespace Sys2Proof.Machine

/-! ## The words of a convoy -/

/-- What a vector word does; nothing for what is no vector word. -/
def runWord : Instr → VRun
  | .vfadd w => vfaddRun w
  | .vfsub w => vfsubRun w
  | .vfmul w => vfmulRun w
  | .vfdiv w => vfdivRun w
  | .vfsqrt w => vfsqrtRun w
  | .vfma w => vfmaRun w
  | .vfms w => vfmsRun w
  | .vfnma w => vfnmaRun w
  | .vfnms w => vfnmsRun w
  | .vfmin w => vfminRun w
  | .vfmax w => vfmaxRun w
  | .vfsgnj w => vfsgnjRun w
  | .vfsgnjn w => vfsgnjnRun w
  | .vfsgnjx w => vfsgnjxRun w
  | .vfclass w => vfclassRun w
  | .vfrece w => vfreceRun w
  | .vfrsqe w => vfrsqeRun w
  | .vadd w => vaddRun w
  | .vsub w => vsubRun w
  | .vrsub w => vrsubRun w
  | .vmul w => vmulRun w
  | .vmulh w => vmulhRun w
  | .vdiv w => vdivRun w
  | .vrem w => vremRun w
  | .vmin w => vminRun w
  | .vmax w => vmaxRun w
  | .vand w => vandRun w
  | .vor w => vorRun w
  | .vxor w => vxorRun w
  | .vsll w => vsllRun w
  | .vsrl w => vsrlRun w
  | .vsra w => vsraRun w
  | .vmadd w => vmaddRun w
  | .vadds w => vaddsRun w
  | .vsubs w => vsubsRun w
  | .vmuls w => vmulsRun w
  | .vabs w => vabsRun w
  | .vclz w => vclzRun w
  | .vpopc w => vpopcRun w
  | .vaddm w => vaddmRun w
  | .vsubm w => vsubmRun w
  | .vmulm w => vmulmRun w
  | .vavg w => vavgRun w
  | .vcmp w => vcmpRun w
  | .vmerge w => vmergeRun w
  | .vmv w => vmvRun w
  | .vsplat w => vsplatRun w
  | .vsplatImm w => vsplatImmRun w
  | .vcvt w => vcvtRun w
  | .vunpack w => vunpackRun w
  | .vid w => vidRun w
  | .vmand w => vmandRun w
  | .vmor w => vmorRun w
  | .vmxor w => vmxorRun w
  | .vmandn w => vmandnRun w
  | .vext w => vextRun w
  | .vredsum w => vredsumRun w
  | .vredmin w => vredminRun w
  | .vredmax w => vredmaxRun w
  | .vredand w => vredandRun w
  | .vredor w => vredorRun w
  | .vredxor w => vredxorRun w
  | .vfredsum w => vfredsumRun w
  | .vfredmin w => vfredminRun w
  | .vfredmax w => vfredmaxRun w
  | .vmpop w => vmpopRun w
  | .vmfirst w => vmfirstRun w
  | .viota w => viotaRun w
  | .vcompress w => vcompressRun w
  | .vexpand w => vexpandRun w
  | .vlut w => vlutRun w
  | .vperm w => vpermRun w
  | .vslup w => vslupRun w
  | .vsldn w => vsldnRun w
  | .vroute w => vrouteRun w
  | .ixins w => ixinsRun w
  | .ixlook w => ixlookRun w
  | .ixacc w => ixaccRun w
  | .ixdrain w => ixdrainRun w
  | .vld w => vldRun w
  | .vst w => vstRun w
  | .vlds w => vldsRun w
  | .vsts w => vstsRun w
  | .vldseg w => vldsegRun w
  | .vstseg w => vstsegRun w
  | .vldx w => vldxRun w
  | .vldxb w => vldxbRun w
  | .vstx w => vstxRun w
  | .vskein w => vskeinRun w
  | .vskeinUnbind w => vskeinUnbindRun w
  | .vldk w => vldkRun w
  | .vamoswap w => vamoswapRun w
  | .vamoadd w => vamoaddRun w
  | .vamoand w => vamoandRun w
  | .vamoor w => vamoorRun w
  | .vamoxor w => vamoxorRun w
  | .vamomin w => vamominRun w
  | .vamomax w => vamomaxRun w
  | .vamocas w => vamocasRun w
  | .vwait w => vwaitRun w
  | .vpgalloc w => vpgallocRun w
  | .vstk w => vstkRun w
  | .vtmove w => vtmoveRun w
  | .vaddrEq w => vaddrEqRun w
  | .topadd w => topaddRun w
  | .topsub w => topsubRun w
  | .topsld w => topsldRun w
  | .brtopadd w => brtopaddRun w
  | .tld w => tldRun w
  | .tst w => tstRun w
  | .tfill w => tfillRun w
  | .trdrow w => trdrowRun w
  | .trdcol w => trdcolRun w
  | .twrrow w => twrrowRun w
  | .sdsort w => sdsortRun w
  | .ptld w => ptldRun w
  | .ptst w => ptstRun w
  | .sdscan w => sdscanRun w
  | .sdscanMem w => sdscanMemRun w
  | .sddot w => sddotRun w
  | .sdfin w => sdfinRun w
  | .sld w => sldRun w
  | .sst w => sstRun w
  | .semv w => semvRun w
  | _ => vpure fun _ s => s

/-- What stops a convoy: the state with the grants made so far, the fault, the index of the word. -/
structure ConvoyStop where
  state : State
  stop : VStop
  word : Nat
  deriving DecidableEq, Repr

/-- Fetches and checks a convoy word by word; a word that passes is granted its units (R80, R88). -/
def State.gather (s : State) (vtype : Word) : Nat → List Instr → Word → Except ConvoyStop (State × List Instr)
  | 0, ws, _ => .ok (s, ws)
  | n + 1, ws, va =>
    let bad := fun (f : FaultInfo) => (.error ⟨s, .fault f, ws.length⟩ : Except ConvoyStop (State × List Instr))
    match s.fetchVector va with
    | .error f => bad f
    | .ok i =>
      if convoyBad vtype ws i then bad { kind := .illegalEncoding, addr := va }
      else
        match s.wordCheck vtype i va with
        | some f => bad f
        | none =>
          let s := s.grantUnits (instrUnits i)
          if isLast i then .ok (s, ws ++ [i]) else s.gather vtype n (ws ++ [i]) (va + 8)

/-- The convoy that issues next. -/
def State.headConvoy (s : State) : Except ConvoyStop (State × List Instr) :=
  s.gather s.vctx.ctl.vtype 4 [] s.vctx.addr

/-- The words one after another, each over all its elements (R78). `n` is the index of the first. -/
def runWords (c : VCtx) : Nat → List Instr → State → Except (VStop × Nat) State
  | _, [], s => .ok s
  | n, i :: is, s =>
    match runWord i c s with
    | .error e => .error (e, n)
    | .ok s => runWords c (n + 1) is s

/-- The state that a VWAIT of the convoy sees: that after the words before it, of which one that faults does nothing. -/
def beforeWait (c : VCtx) : List Instr → State → State
  | [], s => s
  | i :: is, s =>
    match runWord i c s with
    | .error _ => beforeWait c is s
    | .ok s => beforeWait c is s

def isVwait : Instr → Bool
  | .vwait _ => true
  | _ => false

/-- Elements of the convoy's VWAIT that have to be satisfied. -/
def waitElems (c : VCtx) (ws : List Instr) (s : State) : List Nat :=
  match ws.find? isVwait with
  | some (.vwait w) => s.active c w
  | _ => []

/-- The first word of several, run in order, that faults; words that wait are passed over. -/
def firstFault (c : VCtx) : Nat → List Instr → State → Option (VStop × Nat)
  | _, [], _ => none
  | n, i :: is, s =>
    match runWord i c s with
    | .error (.fault f) => some (.fault f, n)
    | .error (.wait _) => firstFault c (n + 1) is s
    | .ok s => firstFault c (n + 1) is s

/-- The VWAIT of the convoy comes before issue, and so does its fault (R210); an earlier word's fault is reported first (R88). -/
def waitFirst (c : VCtx) (ws : List Instr) (s : State) : Option (VStop × Nat) :=
  match ws.findIdx? isVwait with
  | none => none
  | some k =>
    let p := beforeWait c (ws.take k) s
    match (ws[k]?).map fun i => runWord i c p with
    | some (.error (.wait d)) => some (.wait d, k)
    | some (.error (.fault _)) => firstFault c 0 (ws.take (k + 1)) s
    | _ => none

/-! ## Issue and retirement (R80, R210) -/

/-- The end of a convoy that doesn't complete. -/
def State.stopConvoy (s : State) (c : VCtx) (ws : List Instr) (e : VStop) (n : Nat) : State :=
  match e with
  | .fault f => s.convoyTrap f n
  | .wait done =>
    let onWait := match ws[n]? with | some i => isVwait i | none => false
    s.vpark (if onWait then done else waitElems c ws s) onWait

/-- The sequencer of the executing strand may issue: a block is queued, no convoy is under way, the strand is not held. -/
def State.mayIssue (s : State) : Bool := s.me.placed && s.me.held = .no && s.me.queue ≠ [] && s.me.issued = none

/-- The block ends: its entry frees, and the fences that waited for it act (R74, R108 to R111). -/
def State.endBlock (s : State) : State :=
  let ds := s.me.debts.map fun d => { d with blocks := d.blocks - 1, before := if d.blocks = 1 then s.free else d.before }
  State.payDebts { s with me := { s.me with queue := s.me.queue.drop 1, issued := none, debts := ds } }

/-- VSTOP (R74). -/
def execVstop (s : State) : Result := if s.me.queue = [] then .next s else .next s.endBlock

/-- The convoy has issued: every word has passed its checks and taken its effect, which nothing can take back (R80, R210). -/
def State.hasIssued (s : State) (next : Word) : State :=
  { s with me := { s.me with issued := some next, vwaitDone := [], vwaitAt := 0, timedOut := false,
                             parked := if s.me.parked = .vwait then .no else s.me.parked } }

/-- CONVOY_ISSUE: decode checks and grants, fences that hold the words, a VWAIT's probe and reads, every other check that can
fault, the wait for a braid; then the convoy issues. -/
def execConvoyIssue (s : State) : Result :=
  if !s.mayIssue then .next s
  else
    let c := { s.vctx with later := true }
    match s.headConvoy with
    | .error e => .next (e.state.stopConvoy c [] e.stop e.word)
    | .ok (s, ws) =>
      if ws = [.vstop] then .next s.endBlock
      else
        let s := s.beforeWords ws
        if s.fenceWaits ws then .next s
        else
          match waitFirst c ws s, runWords c 0 ws s with
          | some (e, n), _ => .next (s.stopConvoy c ws e n)
          | none, .error (e, n) => .next (s.stopConvoy c ws e n)
          | none, .ok t => .next (t.hasIssued (c.addr + BitVec.ofNat 64 (8 * ws.length)))

/-- CONVOY_RETIRE: VPC moves past the convoy, its scalar results are no longer pending (R207), and the tags that its reads matched
are disarmed (R224). -/
def execConvoyRetire (s : State) : Result :=
  if s.me.placed && s.me.issued.isSome then .next { s.disarmAll s.me.disarms with me := s.me.completed } else .next s

/-- VWAIT_SATISFIED: the parked convoy reads its elements again, and issues once every one is satisfied (R152, R210). -/
def execVwaitSatisfied (s : State) : Result := if s.me.parked = .vwait then execConvoyIssue s else .next s

/-- The next convoy issues and retires. -/
def execConvoy (s : State) : Result :=
  match execConvoyIssue s with
  | .next t => execConvoyRetire t
  | r => r

/-! ## Braid events (R171) -/

/-- The strand of a slot acts. -/
def State.onStrand (s : State) (core slot : Nat) (f : State → State) : State :=
  let t := f (s.focus core slot)
  if s.me.placed then t.focus s.me.core s.me.slot else t

/-- The leader's next convoy holds a BRTOPADD that a test accepts. -/
def State.leaderIssues (s : State) (p : VWord → Bool) : Bool :=
  match s.headConvoy with
  | .ok (_, ws) => s.me.held = .no && s.me.queue ≠ [] &&
      ws.any fun i => match i with | .brtopadd w => p w && s.vctx.vl ≠ 0 | _ => false
  | .error _ => false

/-- Acts on the leaders of a cluster's formed braids. -/
def State.onLeaders (s : State) (cluster : Nat) (f : Braid → State → State) : State :=
  (s.braids.filter fun b => b.cluster = cluster && b.formed).foldl (fun s b =>
    match b.members.find? fun m => b.isLeader m.index with
    | some m => s.onStrand (b.core m) m.slot (f b)
    | none => s) s

/-- BRAID_EPOCH_OPEN: every member is ready and the leader issues BRTOPADD. A leader that may not issue, at a cut or due for its
forced save, does not (R303, R310). -/
def execBraidEpochOpen (cluster : Nat) (s : State) : Result :=
  .next (s.onLeaders cluster fun b s =>
    if s.runs && !b.open_ && b.allReady && s.leaderIssues (fun w => w.vd.toNat = b.tile && shareOk w (s.vctx.x w.va))
    then s.openEpoch b else s)

/-- BRAID_EPOCH_COMPLETE: the leader's BRTOPADD with FIN = 1 issues and retires. -/
def execBraidEpochComplete (cluster : Nat) (s : State) : Result :=
  .next (s.onLeaders cluster fun b s =>
    if s.runs && b.open_ && s.leaderIssues (fun w => w.fnBits 7 1 = 1) then
      match execConvoy s with
      | .next t => t
      | _ => s
    else s)

/-! ## Early work (R107, R214, R215) -/

/-- The accesses of a LOAD word. -/
def loadAccs (i : Instr) (c : VCtx) (s : State) : List VAcc :=
  match i with
  | .vld w => s.accs c w (fun i => c.unitEA w i) (s.active c w)
  | .vlds w => s.accs c w (fun i => c.strideEA w i) (s.active c w)
  | .vldx w => s.accs c w (s.indexEA c w) (s.active c w)
  | .vldxb w => s.accs c w (s.indexEA c w) ((s.active c w).filter (s.inBounds c w))
  | .vldseg w => (s.segPairs c w).map (s.segAcc c w)
  | .vskein w => if c.vl = 0 then [] else skeinAccs c w
  | .vldk w =>
    match s.me.skein w.vd.toNat with
    | some k => if c.vl = 0 then [] else s.accs c w (fun i => k.ea w.f (k.cursor + i)) (k.inside (s.active c w))
    | none => []
  | _ => []

/-- The loop step that waits: assumed control values and registers of the next strip, and where its block begins. The model's choice
(log 116): while the count of a STRIP is pending, min(count, MVL) is unknown, and the VL in force is assumed to stay. -/
def State.assumed (s : State) : Option (Word × Ctl × Strand) :=
  match s.fetch s.me.core s.me.ptroot s.me.pc 4 with
  | .error _ => none
  | .ok n =>
    let step : Option (Reg × Option Reg × BitVec 16) :=
      match decodeScalar (BitVec.ofNat 32 n) with
      | .ok (.strip a b o) => if s.me.pending a.toNat then some (a, some b, o) else none
      | .ok (.vwhile a _ o) => if s.me.queue ≠ [] then some (a, none, o) else none
      | _ => none
    match step with
    | none => none
    | some (a, b, o) =>
      let target := s.branchTo o
      match s.fetch s.me.core s.me.ptroot target 4 with
      | .error _ => none
      | .ok m =>
        match decodeScalar (BitVec.ofNat 32 m) with
        | .ok (.vfetch f) =>
          let t := s.me.consume a s.me.ctl.vl.toNat
          let t := if s.me.pending a.toNat then t else t.grantVl (t.xget a)
          let t := match b with | some b => t.xset b t.ctl.vl | none => t
          some (target + 4 * f.signExtend 64, t.ctl, t)
        | _ => none

/-- A MATRIX word that stores to memory. -/
def storesMat : Instr → Bool
  | .tst _ | .ptst _ | .sst _ | .sdsort _ => true
  | _ => false

/-- A word behind which no load may be read early, as it may have to see what that word stores (R78): a VWAIT, a vector or MATRIX
store or an atomic, the end of the block. -/
def stopsEarly (i : Instr) : Bool := isVwait i || i = .vstop || storesMat i || (workOf i).any fun k => k < 8

/-- LOAD words of the first convoys of a block with the VPC of their convoys. -/
def State.earlyLoads (s : State) : (convoys words : Nat) → (vpc va : Word) → List (Word × Instr)
  | 0, _, _, _ => []
  | _, 0, _, _ => []
  | k + 1, n + 1, vpc, va =>
    match s.fetchVector va with
    | .error _ => []
    | .ok i =>
      if stopsEarly i then []
      else (if classOf i = .load then [(vpc, i)] else []) ++
        (if isLast i then s.earlyLoads k n (va + 8) (va + 8) else s.earlyLoads (k + 1) n vpc (va + 8))

/-- Fences and acquires that bind the strand allow a vector load of the next block now: no fence is open and no queued block
still has a VEC access to make (R214; log 12). -/
def State.earlyAllowed (s : State) : Bool :=
  s.me.debts = [] && !s.me.queue.any fun q => q.direct || q.hasWork 9

/-- The early probe and reads of one LOAD word: what the load buffer then holds, and the lines passed. A fault or a wait gives
nothing: it is dropped without a record (R215). -/
def State.readEarly (s : State) (c : VCtx) (vpc : Word) (l : List VAcc) : Option (EarlyRead × List Nat) :=
  match s.vprobes .read l, s.vread c l with
  | .ok ps, .ok (_, bs) => some ({ vpc := vpc, reads := (l.map (·.va)).zip bs }, ps.flatMap fun p => p.2.via)
  | _, _ => none

/-- EARLY_WORK_START: the probe and reads of the LOAD words of the next block's first two convoys, under the assumed outcome.
Nothing is written (R107). -/
def execEarlyWorkStart (s : State) : Result :=
  if !s.me.placed || s.me.held ≠ .no || !s.earlyAllowed then .next s
  else
    match s.assumed with
    | none => .next s
    | some (target, ctl, t) =>
      let got := (s.earlyLoads 2 8 target target).filterMap fun e =>
        let c : VCtx := { ctl := ctl, regs := t.x, addr := e.1, convoy := s.nextSerial }
        s.readEarly c e.1 (loadAccs e.2 c s)
      let early : EarlyWork :=
        { target := target, ctl := ctl, reads := got.map (·.1), lines := (got.flatMap (·.2)).eraseDups }
      .next { s with me := { s.me with early := some early } }

/-! ## Reading ahead (R228) -/

/-- The line that a stream element lies in, with the lines passed, if the unit may read it: not device memory, no fault, no
poison, ARM 0. -/
def State.streamLine (s : State) (va : Word) : Option (Nat × List Nat) :=
  match s.probe s.me.ptroot va .read false with
  | .error _ => none
  | .ok p =>
    let armed := match s.slotTag p.pa with
      | some t => bits (s.natAt (t + 8) 8) 48 1 = 1
      | none => false
    if armed || s.poisoned p.pa then none else some (lineOf p.pa, p.via)

/-- Lines read in order until one can't be, at most n. -/
def State.streamLines (s : State) (k : Skein) : Nat → Nat → List (Nat × List Nat)
  | 0, _ => []
  | n + 1, e =>
    if k.cnt0 * k.cnt1 ≤ e then []
    else
      match s.streamLine (k.addr e) with
      | none => []
      | some l => l :: s.streamLines k n (e + 1)

/-- READ_AHEAD: the stream-load unit takes lines of a bound skein into its buffer of 16 KB a core, 4 KB a binding. -/
def execReadAhead (v lines : Nat) (s : State) : Result :=
  match s.me.skein v with
  | none => .next s
  | some k =>
    let c := s.core s.me.core
    let others := c.stream.filter fun e => !(e.slot = s.me.slot && e.reg = v)
    let room := Nat.min (Nat.min lines 32) (128 - others.length)
    let ls := ((s.streamLines k 4096 k.cursor).eraseDups).take room
    .next (if s.me.placed then
      s.setCore s.me.core { c with stream := others ++ ls.map fun l => { slot := s.me.slot, reg := v, line := l.1, via := l.2 } } else s)

end Sys2Proof.Machine
end

