-- ==== Sys2Proof/Machine/System.lean ====
section
/-! DEFINITION. The system words (R182 to R201): EXIT, BARRIER, LAUNCH, TIMERD, TICKWAIT, TRACE, STOPAT, IXCLR, XUNFOLD and
XTRANS, and the events that complete what they start. Collectives stand in Collect.lean. -/
namespace Sys2Proof.Machine

/-! ## The end of a strand (R184, R363) -/

/-- The strand leaves its slot. -/
def State.removeStrand (s : State) (t : Strand) : State :=
  if s.me.placed && s.me.core = t.core && s.me.slot = t.slot then { s with me := Strand.absent }
  else { s with strands := s.strands.filter fun u => !(u.core = t.core && u.slot = t.slot) }

/-- Slot number under which the tile of a braid member whose strand has ended is kept: no strand's (R171). -/
def goneSlot : Nat := 255

/-- Units of a slot are released; the tile to keep passes to the braid. -/
def Core.releaseSlot (c : Core) (slot : Nat) (keep : Option Nat) : Core :=
  (c.units.filter fun e => e.2 = slot).foldl (fun c e =>
    if keep = some e.1 then { c with units := c.units.map fun u => if u.1 = e.1 then (u.1, goneSlot) else u }
    else c.releaseUnit e.1) c

/-- The tile that a member keeps for the epoch that is open when its strand ends (R171). -/
def State.keptTile (s : State) (t : Strand) : Option Nat :=
  match s.braidOf t with
  | some b => if b.open_ && !b.isLeader (indexOf t.core) then some b.tile else none
  | none => none

/-- What the slot held goes: units, and lines read ahead (R35, R228). -/
def State.freeSlot (s : State) (t : Strand) (keep : Option Nat) : State :=
  let c := s.core t.core
  (s.setCore t.core { c.releaseSlot t.slot keep with stream := c.stream.filter fun e => e.slot ≠ t.slot }).removeStrand t

/-- Collectives of a strand that has ended run on, and no one takes their status (R184). -/
def State.orphan (s : State) (t : Strand) : State :=
  { s with collectives := (s.collectives.filter fun c => !(c.owner = t.owner && c.status.isSome)).map fun c =>
      if c.owner = t.owner then { c with owner := { c.owner with serial := 0 } } else c }

/-- The launch counts a strand as finished (R184, R289). -/
def State.countEnd (s : State) (t : Strand) (failed : Bool) : State :=
  { s with launches := s.launches.map fun l =>
      if some l.key = t.launch then { l with ended := l.ended + 1, failed := l.failed || failed } else l }

/-- The strand ends: by EXIT, or as a failed request (R184, R363). -/
def State.endStrand (s : State) (t : Strand) (failed : Bool) : State :=
  let keep := s.keptTile t
  (((s.endBraid t).freeSlot t keep).orphan t).countEnd t failed

/-- Before the checks of EXIT, BARRIER and LAUNCH: once the blocks have retired, every access of the strand is performed
(R184). -/
def State.beforeExit (s : State) : State := if s.me.queue = [] then (s.finishStrand s.me).payDebts else s

/-- EXIT, BARRIER and LAUNCH wait for the blocks, for fences that are not complete, and for writes that are held at a line or
a port and moves that have not committed (R184 to R186, R235, R258, R383). Work of the engines is not waited for (R184). -/
def State.allPerformed (s : State) : Except Stop Unit :=
  match s.blocksDone, s.releaseOpen with
  | .error e, _ => .error e
  | _, .error e => .error e
  | .ok _, .ok _ => if s.unfinished s.me then .error .wait else .ok ()

/-- A fault that an engine posted, in the order STK, CPY. -/
def State.postedCheck (s : State) : Except Stop Unit :=
  match s.me.postedStk, s.me.postedCpy with
  | p :: _, _ => .error (.fault (postedFault .stkElement p))
  | [], p :: _ => .error (.fault (postedFault .cpyElement p))
  | [], [] => .ok ()

/-- EXIT (R184). -/
def execExit (s : State) : Result :=
  scalarAfter [] State.beforeExit (fun s =>
    match s.allPerformed with
    | .error e => .error e
    | .ok _ =>
      match s.postedCheck with
      | .error e => .error e
      | .ok _ =>
        if s.epochOpen s.me then .ok { s with me := { s.me with parked := .exit } } else .ok (s.endStrand s.me false)) s

/-! ## BARRIER (R185) -/

/-- Barriers completed in a scope instance by the strands of one launch. The model's choice (log 83): R185 does not say whether
the count is kept for each launch, nor whether it goes on over a launch's firings; it is, and it does. -/
def State.barrierGen (s : State) (key : Option LaunchKey) (scope unit : Nat) : Nat :=
  match s.barriers.find? fun b => b.key = key && b.scope = scope && b.unit = unit with
  | some b => b.gen
  | none => 0

def State.setBarrierGen (s : State) (key : Option LaunchKey) (scope unit gen : Nat) : State :=
  { s with barriers := { key := key, scope := scope, unit := unit, gen := gen } ::
      s.barriers.filter fun b => !(b.key = key && b.scope = scope && b.unit = unit) }

/-- A strand that waits at this barrier. -/
def Strand.arrivedAt (t : Strand) (scope unit gen : Nat) : Bool := t.arrival = some ⟨scope, unit, gen⟩

/-- A participant of the instance: placed in it, and not a restored strand that still waits at the barrier of another
instance (R185). -/
def Strand.participates (t : Strand) (key : Option LaunchKey) (scope unit : Nat) : Bool :=
  t.placed && t.launch = key && unitOf scope t.core = unit &&
  match t.arrival with
  | some a => unitOf a.scope t.core = a.unit
  | none => true

/-- The barrier completes: someone waits for this generation, and every participant has arrived. -/
def State.barrierFull (s : State) (key : Option LaunchKey) (scope unit : Nat) : Bool :=
  let g := s.barrierGen key scope unit + 1
  s.all.any (fun t => t.launch = key && t.arrivedAt scope unit g) &&
  s.all.all fun t => !t.participates key scope unit || t.arrivedAt scope unit g

def State.tryBarrier (s : State) (key : Option LaunchKey) (scope unit : Nat) : State :=
  if s.barrierFull key scope unit then s.setBarrierGen key scope unit (s.barrierGen key scope unit + 1) else s

/-- A parked word returns a value and the strand goes on. -/
def Strand.returns (t : Strand) (d : Reg) (v : Word) : Strand := { t.xset d v with pc := t.pc + 4, parked := .no }

/-- A parked BARRIER whose generation is complete returns its number. -/
def State.barrierReturn (s : State) (t : Strand) : Strand :=
  match t.parked, t.arrival with
  | .barrier d, some a =>
    if a.gen ≤ s.barrierGen t.launch a.scope a.unit && !s.halted t.core then
      { t.returns d (BitVec.ofNat 64 a.gen) with arrival := none }
    else t
  | _, _ => t

/-- The arrival of the executing strand: a new one, or the one it has kept (R185). -/
def State.arrive (s : State) (scope : Nat) : State × Arrival :=
  match s.me.arrival with
  | some a => (s, a)
  | none =>
    let unit := unitOf scope s.me.core
    let a : Arrival := ⟨scope, unit, s.barrierGen s.me.launch scope unit + 1⟩
    ({ s with me := { s.me with arrival := some a } }, a)

/-- BARRIER: every earlier access is performed, the strand arrives, and parks until the generation completes. -/
def execBarrier (d : Reg) (scope : BitVec 5) (s : State) : Result :=
  scalarAfter [d] State.beforeExit (fun s =>
    match s.allPerformed with
    | .error e => .error e
    | .ok _ =>
      let (s, a) := s.arrive scope.toNat
      let s := s.tryBarrier s.me.launch a.scope a.unit
      let s := { s with me := { s.me with parked := .barrier d } }
      .ok { s.applyInvals s.me.core with me := s.barrierReturn s.me }) s

/-- BARRIER_COMPLETE: every participant has arrived, and every waiting BARRIER of the instance returns, invalidations received
before it applied (R225). -/
def execBarrierComplete (key : LaunchKey) (scope unit : Nat) (s : State) : Result :=
  let s := s.tryBarrier (some key) scope unit
  let waits := fun (t : Strand) =>
    t.placed && t.launch = some key && t.arrival.any fun a => a.scope = scope && a.unit = unit
  let s := (s.all.filter waits).foldl (fun s t => s.applyInvals t.core) s
  .next (s.mapStrands fun t => if waits t then s.barrierReturn t else t)

/-! ## LAUNCH (R186) -/

/-- Words of 8 bytes that a system word reads from an address: the probe and poison checks of a scalar read, where each ends
and its bytes. -/
def State.blockWords (s : State) : Nat → Word → Except Stop (List (Nat × List Byte))
  | 0, _ => .ok []
  | k + 1, va =>
    match s.probeRead s.me.ptroot va true with
    | .error f => .error (.fault f)
    | .ok p =>
      if !s.tagOk p.pa 1 then fault .memType va
      else
        match s.poisonCheck p.pa va, s.reachCheck p.pa va with
        | .error f, _ => .error (.fault f)
        | _, .error e => .error e
        | .ok _, .ok _ =>
          match s.blockWords k (va + 8) with
          | .error e => .error e
          | .ok ws => .ok ((p.pa, s.bytesOver s.ownSbuf p.pa 8) :: ws)

/-- The words read, with what reading leaves: ARM cleared (R224), translations noted (R316). -/
def State.blockRead (s : State) (k : Nat) (va : Word) : Except Stop (State × List Byte) :=
  match s.blockWords k va with
  | .error e => .error e
  | .ok ws =>
    let t := ws.foldl (fun t w => t.disarm w.1) s
    .ok ((List.range k).foldl (fun t j => t.noteXlate t.me.ptroot (va + BitVec.ofNat 64 (8 * j))) t, ws.flatMap (·.2))

/-- Where a write of a system word ends, with the lines it passed. -/
def State.blockDest (s : State) (va : Word) : Except Stop Resolved :=
  match s.probe s.me.ptroot va .write true with
  | .error f => .error (.fault f)
  | .ok p => if s.tagOk p.pa 1 then .ok ⟨p.pa, p.via⟩ else fault .memType va

/-- Copies 256 bytes line by line. The model's choice (log 117): the copy covers each line whole and clears its poison, as a word's
own writes do, though R141's list does not name LAUNCH. -/
def State.copySlot (s : State) (va : Word) (bs : List Byte) : Except Stop State :=
  match s.blockDest va, s.blockDest (va + 128) with
  | .error e, _ => .error e
  | _, .error e => .error e
  | .ok a, .ok b =>
    .ok ((s.sendNow a.pa (full (bs.take 128)) true { s.scalarOrigin with via := a.via }).sendNow b.pa (full (bs.drop 128)) true
      { s.scalarOrigin with via := b.via })

/-- TAIL takes its new value, and LAUNCH goes on. -/
def State.finishLaunch (s : State) (d : Reg) (tail : Nat) (v : Word) : State :=
  let s := s.sendNow tail (full (leBytes 8 v.toNat)) false s.scalarOrigin
  ({ s with me := { s.me with parked := .no } }.xset d v).advance

/-- Another strand's LAUNCH holds this record's line while its copy is on its way (R186). -/
def State.launchHeld (s : State) (tail : Nat) : Bool :=
  s.all.any fun t => !(t.core = s.me.core && t.slot = s.me.slot) &&
    match t.parked with | .launch a _ => lineOf a = lineOf tail | _ => false

/-- The log is full (R186): N is 0, or TAIL − HEAD, exactly, is N or more. -/
def logFull (n tail head : Nat) : Bool := n = 0 || (head ≤ tail && n ≤ tail - head)

/-- The append once the record is read: x[XD] is 0 for a full log, t + 1 otherwise. TAIL changes once the copy is performed; while it
is on its way the strand is parked, holding the record's line. -/
def State.appendLaunch (s : State) (d : Reg) (rec_ header : Word) (r : List Byte) : Except Stop State :=
  let base := recWord r 0
  let tail := recWord r 64
  let n := recField r 320 32
  if base.toNat % 256 ≠ 0 then fault .misaligned base
  else if logFull n tail.toNat (recWord r 128).toNat then .ok (s.xset d 0).advance
  else
    match s.blockRead 32 header with
    | .error e => .error e
    | .ok (s, h) =>
      match s.blockDest (rec_ + 8) with
      | .error e => .error e
      | .ok t =>
        if s.launchHeld t.pa then .error .wait
        else
          let slot := base + BitVec.ofNat 64 (256 * (tail.toNat % n))
          match s.copySlot slot h with
          | .error e => .error e
          | .ok s =>
            let s := s.noteXlate s.me.ptroot slot
            .ok (if s.unfinished s.me then { s with me := { s.me with parked := .launch t.pa (tail + 1) } }
                 else s.finishLaunch d t.pa (tail + 1))

/-- LAUNCH: after the blocks and every access of the strand, one indivisible append. Parked, it waits for its copy. -/
def execLaunch (d a b : Reg) (s : State) : Result :=
  scalarAfter [d, a, b] State.beforeExit (fun s =>
    match s.allPerformed with
    | .error e => .error e
    | .ok _ =>
      match s.me.parked with
      | .launch tail v => .ok (s.finishLaunch d tail v)
      | _ =>
        let r := s.xget a
        let h := s.xget b
        if r.toNat % 64 ≠ 0 then fault .misaligned r
        else if h.toNat % 256 ≠ 0 then fault .misaligned h
        else
          match s.blockRead 8 r with
          | .error e => .error e
          | .ok (s, bs) => s.appendLaunch d r h bs) s

/-! ## Time and trace (R198 to R200) -/

/-- CLKSTAT (R198). -/
def State.clkstat (s : State) : Word := BitVec.ofNat 64 ((if s.lock then 1 else 0) + if s.me.stepped then 2 else 0)

/-- TIMERD. -/
def execTimerd (d : Reg) (c : BitVec 5) (s : State) : Result :=
  scalarStep [d] (fun s =>
    match c.toNat with
    | 0 => .ok ({ s with me := { s.me with frac := s.ptpFrac } }.xset d s.ptpNs).advance
    | 1 => .ok (s.xset d (s.me.frac.zeroExtend 64)).advance
    | 2 => .ok (s.xset d s.scc).advance
    | 3 => .ok ({ s with me := { s.me with stepped := false } }.xset d s.clkstat).advance
    | _ => s.illegal) s

/-- TICKWAIT: returns at once for a time that has passed, else parks and is issued again. -/
def execTickwait (d a : Reg) (s : State) : Result :=
  scalarStep [d, a] (fun s =>
    let t := s.xget a
    if t.toNat ≤ s.ptpNs.toNat then .ok { s with me := s.me.returns d s.ptpNs }
    else .ok { s with me := { s.me with parked := .tickwait t d } }) s

/-- TICKWAIT_WAKE: the count has reached the time; not while a cut halts the core (R310). -/
def execTickwaitWake (core slot : Nat) (s : State) : Result :=
  match s.strandAt core slot with
  | none => .next s
  | some t =>
    match t.parked with
    | .tickwait u d =>
      if u.toNat ≤ s.ptpNs.toNat && !s.halted core then .next (s.setStrand (t.returns d s.ptpNs)) else .next s
    | _ => .next s

/-- TRACE: code bits [14:0]; a full ring drops its oldest records (R200, R334). -/
def execTrace (a b : Reg) (s : State) : Result :=
  scalarStep [a, b] (fun s =>
    let r := s.traceNow (s.xget b) ((s.xget a).toNat % 2 ^ 15) s.me.logical s.me.slot s.me.req
    .ok (s.appendTrace (.core s.me.logical) r).advance) s

/-! ## Cuts (R201, R240, R310) -/

/-- The first core of a scope instance. -/
def firstCore (scope unit : Nat) : Nat :=
  match scope with
  | 1 => unit
  | 2 => 4 * unit
  | 3 => 64 * unit
  | _ => 0

/-- A halt covers a whole instance. -/
def Armed.covers (h a : Armed) : Bool := a.scope ≤ h.scope && unitOf h.scope (firstCore a.scope a.unit) = h.unit

def Armed.at_ (a : Armed) (scope unit : Nat) : Bool := a.scope = scope && a.unit = unit

/-- Arms a count; the lesser stays (R201). -/
def State.arm (s : State) (scope unit : Nat) (count : Word) : State × Word :=
  let c := match s.armed.find? fun a => a.at_ scope unit with
    | some a => if a.count.toNat < count.toNat then a.count else count
    | none => count
  ({ s with armed := { scope := scope, unit := unit, count := c } :: s.armed.filter fun a => !a.at_ scope unit }, c)

/-- STOPAT: privilege for a scope wider than core (R183), then the margin of 4,096 cycles. -/
def execStopat (d a : Reg) (scope : BitVec 5) (s : State) : Result :=
  scalarStep [d, a] (fun s =>
    let n := s.xget a
    if 1 < scope.toNat && !s.me.priv then fault .privilege s.me.pc
    else if n.toNat < s.scc.toNat + 4096 then fault .stopatLate n
    else
      let (s, c) := s.arm scope.toNat (unitOf scope.toNat s.me.core) n
      .ok (s.xset d c).advance) s

/-- An armed count whose instance is not wholly halted already. -/
def State.armable (s : State) (a : Armed) : Bool := !s.halts.any fun h => h.covers a

/-- The SCC has reached the count. -/
def State.due (s : State) (a : Armed) : Bool := a.count.toNat ≤ s.scc.toNat && s.armable a

/-- A record of the strand in its slot, if one is there, else of the queue alone. -/
def State.recordAt (s : State) (core : Nat) (r : TrapRec) : State :=
  match s.strandAt core r.slot with
  | some t => s.trapStrand t r
  | none => (s.postTrap r.unit r).1

/-- Records that waited for the release of a core are written (R365). -/
def State.lateRecords (s : State) : State :=
  s.cores.foldl (fun s e =>
    if s.halted e.1 || e.2.lateRecs.isEmpty then s
    else e.2.lateRecs.foldl (fun s r => s.recordAt e.1 r) (s.setCore e.1 { s.core e.1 with lateRecs := [] })) s

/-- Work issued or accepted in an instance before its cut is not yet complete: a store of a strand, a command of an engine, a write
that waits (R240). Firmware observes the halt once none is left. -/
def State.cutOpen (s : State) (scope unit : Nat) : Bool :=
  let here := fun (core : Nat) => unitOf scope core = unit
  s.all.any (fun t => here t.core && s.unfinished t) ||
  s.copyq.any (fun q => q.2.any fun c => here c.owner.core) || s.stackq.any (fun c => here c.owner.core) ||
  s.heldWrites.any (fun h => h.core ≠ noCore && here h.core) || s.portHeld.any (fun w => w.origin.core.any here)

/-- Firmware may act on the halted strands of a core: no halt of it has work left (R240, R310). -/
def State.cutSettled (s : State) (core : Nat) : Bool :=
  !s.halts.any fun h => unitOf h.scope core = h.unit && s.cutOpen h.scope h.unit

/-- The data caches of an instance apply what they received: a strand that resumes sees the memory of the halt, and what firmware
wrote (R246). -/
def State.refresh (s : State) (scope unit : Nat) : State :=
  (s.cores.filter fun e => unitOf scope e.1 = unit).foldl (fun s e => s.applyInvals e.1) s

/-- HALT_RELEASE: the strands resume; a count inside that has passed meanwhile has no effect (R310). Not before the halt is complete
(R240). -/
def execHaltRelease (scope unit : Nat) (s : State) : Result :=
  firmwareStep (fun s =>
    match s.halts.find? fun h => h.at_ scope unit with
    | none => s
    | some h =>
      if s.cutOpen scope unit then s
      else
        let t := s.refresh scope unit
        State.lateRecords { t with halts := s.halts.filter (fun g => !g.at_ scope unit),
                                   armed := s.armed.filter fun a => !(h.covers a && a.count.toNat ≤ s.scc.toNat) }) s

/-! ## IXCLR (R193) -/

/-- IXCLR. -/
def execIxclr (s : State) : Result :=
  scalarStep [] (fun s =>
    match s.blocksDone with
    | .error e => .error e
    | .ok _ =>
      match unheld (s.core s.me.core) s.me.slot [20] with
      | some u => fault .unitUnheld (BitVec.ofNat 64 (unitCode u))
      | none => .ok ((s.grantUnits [20]).setIx []).advance) s

/-! ## The copy engine (R188 to R190) -/

/-- A value that must be a multiple of the element size. -/
def multOf (e v : Nat) : Bool := v % e = 0

/-- Least and greatest byte of a list of elements. -/
def extent (n : Nat) (l : List Word) : Option (Nat × Nat) :=
  l.foldl (fun a w =>
    let lo := w.toNat
    let hi := w.toNat + n - 1
    match a with
    | none => some (lo, hi)
    | some (x, y) => some (Nat.min x lo, Nat.max y hi)) none

/-- Source and destination ranges of a command overlap. -/
def overlaps (n : Nat) (es : List Element) : Bool :=
  match extent n (es.filterMap fun e => e.src), extent n (es.map fun e => e.dst) with
  | some a, some b => a.1 ≤ b.2 && b.1 ≤ a.2
  | _, _ => false

/-- An XUNFOLD record that raises XCMD-FORM whatever its ranges (R189). -/
def unfoldBad (r : List Byte) : Bool :=
  let e := 2 ^ recField r 174 2
  recField r 0 174 ≠ 0 || !multOf e (recField r 448 64) || !multOf e (recField r 384 64) || !multOf e (recField r 352 32) ||
  !multOf e (recField r 320 32) || !multOf e (recField r 288 32) ||
  recField r 272 16 = 0 || recField r 256 16 = 0 || recField r 240 16 = 0 || recField r 224 16 = 0 || recField r 208 16 = 0 ||
  recField r 288 32 < (recField r 204 4 + 1) * (recField r 200 4 + 1) * recField r 240 16 * e

/-- An XTRANS record that raises XCMD-FORM whatever its ranges (R190). -/
def transBad (r : List Byte) : Bool :=
  let e := 2 ^ recField r 246 2
  let nd := transNdim r
  let ps := (List.range nd).map (transPerm r)
  recField r 0 246 ≠ 0 || !multOf e (recField r 448 64) || !multOf e (recField r 384 64) || nd = 0 ||
  (List.range 7).any (fun j => if j < nd then transDim r j = 0 else transDim r j ≠ 0 || transPerm r j ≠ 0) ||
  ps.any (fun p => nd ≤ p) || ps.eraseDups.length ≠ nd

/-- What a command reads and writes, element by element. The order is the model's choice (log 118): of several pages that fault in the
probe at issue, that of the least element is reported, and in it the source's before the destination's. -/
def copySpans (c : Command) : List Span :=
  let n := copyUnit c
  (copyElements c).flatMap fun e =>
    (match e.src with
     | some a => [⟨a, n, .read⟩]
     | none => []) ++ [⟨e.dst, n, .write⟩]

/-- XUNFOLD and XTRANS: the record is read and checked, every page probed, and the command enters the queue (R188). -/
def copyWord (kind : CmdKind) (bad : List Byte → Bool) (a : Reg) (s : State) : Result :=
  memStep [a] (fun s =>
    let q := s.copyQueue (clusterOf s.me.core)
    let va := s.xget a
    match s.classOpen 2 with
    | .error e => .error e
    | .ok _ =>
      if 16 ≤ q.length then .error .wait
      else if va.toNat % 64 ≠ 0 then fault .misaligned va
      else
        match s.blockRead 8 va with
        | .error e => .error e
        | .ok (t, r) =>
          let c : Command := { owner := t.me.owner, kind := kind, recd := r, pages := [], colour := t.colour, step := t.free }
          if bad r || overlaps (copyUnit c) (copyElements c) then fault .xcmdForm va
          else
            match t.spansPages (copySpans c) with
            | .error f => .error (.fault f)
            | .ok ps =>
              let t := t.touchSpans ps (copySpans c)
              .ok { t with copyq := assocSet t.copyq (clusterOf t.me.core) (q ++ [{ c with pages := ps }]) }.advance) s

/-- XUNFOLD. -/
def execXunfold (a : Reg) (s : State) : Result := copyWord .xunfold unfoldBad a s

/-- XTRANS. -/
def execXtrans (a : Reg) (s : State) : Result := copyWord .xtrans transBad a s

/-- COPY_ENGINE_RUN: the oldest command of a cluster's copy engine runs. -/
def execCopyEngineRun (cluster : Nat) (s : State) : Result := .next (s.stepCopy cluster)

/-- Whether the k-th command of the stack engines is a product. -/
def State.stackIsSemv (s : State) (k : Nat) : Bool :=
  match s.stackq[k]? with
  | some c => c.kind = .semv
  | none => false

/-- STACK_GATHER_RUN: a gather runs (R154). -/
def execStackGatherRun (k : Nat) (s : State) : Result := .next (if s.stackIsSemv k then s else s.stepStack k)

/-- STACK_SEMV_RUN: a product runs (R181). -/
def execStackSemvRun (k : Nat) (s : State) : Result := .next (if s.stackIsSemv k then s.stepStack k else s)

end Sys2Proof.Machine
end

