-- ==== Sys2Proof/Machine/Collect.lean ====
section
/-! DEFINITION. Collectives (R195 to R197): COLSTART, COLWAIT, and the work of the collective engine. -/
namespace Sys2Proof.Machine

/-! ## The record and its checks (R195) -/

def colSrc (r : List Byte) : Word := recWord r 448
def colDst (r : List Byte) : Word := recWord r 384
def colCount (r : List Byte) : Nat := recField r 288 32
def colTag (r : List Byte) : Nat := recField r 272 16
def colRank (r : List Byte) : Nat := recField r 264 8
def colOp (r : List Byte) : Nat := recField r 260 4
def colRed (r : List Byte) : Nat := recField r 258 2
def colFmt (r : List Byte) : Nat := recField r 253 5
def colEvt (r : List Byte) : Bool := recField r 252 1 = 1
/-- Bytes of an element. -/
def colUnit (r : List Byte) : Nat := ew (colFmt r) / 8

def colFmtOk (f : Nat) : Bool := f = 4 || f = 5 || f = 6 || f = 7 || f = 9 || f = 10 || f = 11

/-- A field of the record out of range. -/
def colBad (r : List Byte) : Bool :=
  recField r 0 252 ≠ 0 || !colFmtOk (colFmt r) || 4 < colOp r || colRed r = 3 ||
  (colRed r ≠ 0 && colOp r ≠ 0 && colOp r ≠ 2) || colCount r = 0 ||
  !multOf (colUnit r) (colSrc r).toNat || !multOf (colUnit r) (colDst r).toNat || recField r 320 64 % 8 ≠ 0

/-- What is wrong with the group table, for a participant on a die of this module. -/
def colTableBad (r : List Byte) (table : List Nat) (here : Nat) : Bool :=
  table.any (fun e => 256 ≤ e) || table.eraseDups.length ≠ table.length || table[colRank r]? ≠ some here ||
  ((colOp r = 2 || colOp r = 4) && colCount r % table.length ≠ 0)

/-- Elements that a participant of n receives. -/
def colOut (r : List Byte) (n : Nat) : Nat :=
  match colOp r with
  | 1 => n * colCount r
  | 2 => colCount r / n
  | _ => colCount r

def colSpans (r : List Byte) (n : Nat) : List Span :=
  [⟨colSrc r, colCount r * colUnit r, .read⟩, ⟨colDst r, colOut r n * colUnit r, .write⟩]

/-- 8-byte entries of a list of bytes. -/
def words8 (bs : List Byte) : List Nat := (List.range (bs.length / 8)).map fun j => leNat ((bs.drop (8 * j)).take 8)

/-- The fault that the lines of the ranges meet on their chains: TETHER-LONG before TETHER-DANGLING before REMOTE-DENIED, of each the
first (R137, R338). -/
def State.chainFault (s : State) (pages : List (Nat × Nat)) (rs : List Span) : Option FaultInfo :=
  let faults := (rs.flatMap fun r => (lineStarts r.first r.len).map fun va => (r.acc, va)).filterMap fun e =>
    match s.resolve (pageAt pages e.2) with
    | .error f => some { f with addr := e.2 }
    | .ok p =>
      match s.farTether p, s.refusing p e.1 e.1 with
      | some f, _ => some { f with addr := e.2 }
      | none, some _ => some { kind := .remoteDenied, addr := e.2, detail := paDetail (assocGet 0 pages (e.2.toNat / 65536)) }
      | none, none => none
  [FaultKind.tetherLong, .tetherDangling, .remoteDenied].findSome? fun k => faults.find? fun f => f.kind = k

/-- The probe checks of R136 for both ranges: pages, chains, and the compare of R224 (R195). -/
def State.colPages (s : State) (rs : List Span) : Except FaultInfo (List (Nat × Nat)) :=
  match s.pagesOf rs with
  | .error f => .error f
  | .ok ps =>
    match s.chainFault ps rs, s.spanSchedule ps rs with
    | some f, _ => .error f
    | none, some f => .error f
    | none, none => .ok ps

/-- The record, the table and both ranges, with the state after the reads. -/
def State.readCollective (s : State) (va : Word) : Except Stop (State × List Byte × List Nat × List (Nat × Nat)) :=
  if va.toNat % 64 ≠ 0 then fault .misaligned va
  else
    match s.blockRead 8 va with
    | .error e => .error e
    | .ok (s, r) =>
      if colBad r then fault .colForm va
      else
        match s.blockRead 1 (recWord r 320) with
        | .error e => .error e
        | .ok (s, nb) =>
          let n := leNat nb
          if n < 2 || 256 < n then fault .colForm va
          else
            match s.blockRead n (recWord r 320 + 8) with
            | .error e => .error e
            | .ok (s, tb) =>
              if colTableBad r (words8 tb) (4 * s.moduleNo + dieOf s.me.core) then fault .colForm va
              else
                match s.colPages (colSpans r n) with
                | .error f => .error (.fault f)
                | .ok ps => .ok (s.touchSpans ps (colSpans r n), r, words8 tb, ps)

/-- COLSTART: waits while the engine holds 32 collectives; the ticket word is the engine's choice (log 21). -/
def execColstart (d a : Reg) (s : State) : Result :=
  memStep [d, a] (fun s =>
    match s.classOpen 4 with
    | .error e => .error e
    | .ok _ =>
      if 32 ≤ s.collectives.length then .error .wait
      else
        match s.readCollective (s.xget a) with
        | .error e => .error e
        | .ok (s, r, table, ps) =>
          let c : Collective := { ticket := s.nextTicket, owner := s.me.owner, die := dieOf s.me.core, recd := r,
                                  table := table, pages := ps, colour := s.colour, req := s.me.req, status := none }
          let w := Config.ticketOf s.nextTicket
          let s := { s with collectives := s.collectives ++ [c], nextTicket := s.nextTicket + 1,
                            me := { s.me with tickets := s.me.tickets ++ [w.toNat] } }
          .ok (s.xset d w).advance) s

/-- COLWAIT (R197): a status is taken once. -/
def execColwait (d a : Reg) (s : State) : Result :=
  scalarStep [d, a] (fun s =>
    let w := s.xget a
    if !s.me.tickets.contains w.toNat then fault .colTicket w
    else
      match s.collectives.find? fun c => Config.ticketOf c.ticket = w && c.owner = s.me.owner with
      | none => fault .colTicket w
      | some c =>
        match c.status with
        | none => .ok { s with me := { s.me with parked := .colwait } }
        | some v =>
          let me := { s.me with tickets := s.me.tickets.erase w.toNat, parked := .no }
          .ok ({ s with collectives := s.collectives.erase c, me := me }.xset d (BitVec.ofNat 64 v)).advance) s

/-! ## The engine (R196, R197) -/

/-- A participant with what it brings: its elements, none where the source met poison or a tether fault. -/
structure Part where
  rank : Nat
  op : Nat
  red : Nat
  fmt : Nat
  count : Nat
  tag : Nat
  table : List Nat
  data : List (Option Nat)
  bad : Bool
  lost : Bool
  deriving DecidableEq, Repr

def Collective.cmd (c : Collective) : Command :=
  { owner := c.owner, kind := .xtrans, recd := c.recd, pages := c.pages, colour := c.colour }

/-- Only rank 0 of a broadcast is read (R195). -/
def readsSource (op rank : Nat) : Bool := op ≠ 3 || rank = 0

/-- The elements of a participant of this module. -/
def State.colData (s : State) (c : Collective) : List (Option Nat) :=
  let n := colUnit c.recd
  if readsSource (colOp c.recd) (colRank c.recd) then
    (List.range (colCount c.recd)).map fun i =>
      match s.engineRead c.cmd (colSrc c.recd + BitVec.ofNat 64 (n * i)) n with
      | .ok bs => some (leNat bs)
      | .error _ => none
  else []

def State.localPart (s : State) (c : Collective) : Part :=
  let r := c.recd
  let data := s.colData c
  { rank := colRank r, op := colOp r, red := colRed r, fmt := colFmt r, count := colCount r, tag := colTag r, table := c.table,
    data := data, bad := data.contains none, lost := false }

/-- A participant of another module: lost when the links lost it or firmware has declared its module lost (R383). -/
def State.remotePart (s : State) (r : RemotePart) : Part :=
  let n := ew r.fmt / 8
  { rank := r.rank, op := r.op, red := r.red, fmt := r.fmt, count := r.count, tag := r.tag, table := r.table,
    data := (List.range r.count).map (fun i => some (leNat ((r.data.drop (n * i)).take n))),
    bad := r.bad, lost := r.lost || s.lost.contains ((r.table.getD r.rank 0) / 4) }

/-- The collective that a ticket number names, if it has not finished. -/
def State.openCollective (s : State) (t : Nat) : Option Collective :=
  s.collectives.find? fun c => c.ticket = t && c.status = none

/-- The participants named; none where one of them is not there. -/
def State.parts (s : State) : List ColPart → Option (List Part)
  | [] => some []
  | .ticket t :: l =>
    match s.openCollective t, s.parts l with
    | some c, some ps => some (s.localPart c :: ps)
    | _, _ => none
  | .remote r :: l =>
    match s.parts l with
    | some ps => some (s.remotePart r :: ps)
    | none => none

/-- The number by which group tables name a participant (R195). -/
def Part.who (p : Part) : Nat := p.table.getD p.rank 256

/-- Everyone is there: one participant for each entry of the first one's table (log 108). -/
def partsWhole (ps : List Part) : Bool :=
  match ps with
  | [] => false
  | p :: _ => ps.length = p.table.length && p.table.all fun e => ps.any fun q => q.who = e

/-- The participants differ in what R197 names. -/
def partsDiffer (ps : List Part) : Bool :=
  match ps with
  | [] => false
  | p :: _ => ps.any fun q => q.op ≠ p.op || q.red ≠ p.red || q.fmt ≠ p.fmt || q.count ≠ p.count || q.tag ≠ p.tag ||
      q.table ≠ p.table

/-- The status of every participant (R197). The model's choice (log 119): a mismatch comes before a lost participant, and that before
a bad source, as R197 does not say which status stands when several apply. -/
def statusOf (ps : List Part) : Nat :=
  if partsDiffer ps then 1 else if ps.any fun p => p.lost then 2 else if ps.any fun p => p.bad then 3 else 0

/-- Two values combine (R119, R121, R196). -/
def colCombine (fmt red a b : Nat) : Nat :=
  if isInt fmt then
    let x := readInt fmt a
    let y := readInt fmt b
    trunc (match red with
      | 0 => x + y
      | 1 => if y < x then y else x
      | _ => if x < y then y else x) (ew fmt)
  else
    match red with
    | 0 => roundVal fmt 0 0 (fsumExact 0 [fpDecode fmt a, fpDecode fmt b])
    | 1 => fminPat fmt a b
    | _ => fmaxPat fmt a b

/-- Element i of the participant of a rank. -/
def elemOf (ps : List Part) (rank i : Nat) : Option Nat :=
  match ps.find? fun p => p.rank = rank with
  | some p => p.data.getD i none
  | none => none

/-- Element i reduced in ascending rank from rank 0. -/
def colReduce (ps : List Part) (fmt red i : Nat) : Option Nat :=
  (List.range (ps.length - 1)).foldl (fun a k =>
    match a, elemOf ps (k + 1) i with
    | some x, some y => some (colCombine fmt red x y)
    | _, _ => none) (elemOf ps 0 i)

/-- Element j that the participant of a rank receives (R196). -/
def colResult (ps : List Part) (p : Part) (j : Nat) : Option Nat :=
  let n := ps.length
  let blk := p.count / n
  match p.op with
  | 0 => colReduce ps p.fmt p.red j
  | 1 => elemOf ps (j / p.count) (j % p.count)
  | 2 => colReduce ps p.fmt p.red (p.rank * blk + j)
  | 3 => elemOf ps 0 j
  | _ => elemOf ps (j / blk) (p.rank * blk + j % blk)

/-- What the engine writes for a participant of this module: the elements that have a value, of which a collective that did
not complete leaves any it pleases as they were (log 22); and whether a destination met a tether fault. -/
def State.colWrites (s : State) (ps : List Part) (c : Collective) (status : Nat) : List (Resolved × List Byte) × Bool :=
  let p := s.localPart c
  let n := colUnit c.recd
  let one := fun j =>
    match colResult ps p j, s.engineDest .write (c.cmd.pa (colDst c.recd + BitVec.ofNat 64 (n * j))) with
    | some v, .ok d => if status ≠ 0 && Config.freeKeepOld (2 ^ 64 * s.free + 2 ^ 32 * p.rank + j) then [] else [(d, leBytes n v)]
    | _, _ => []
  let js := List.range (colOut c.recd ps.length)
  (js.flatMap one, js.any fun j =>
    match s.engineDest .write (c.cmd.pa (colDst c.recd + BitVec.ofNat 64 (n * j))) with
    | .ok _ => false
    | .error _ => true)

/-- The step records of a participant with EVT = 1; how many steps and with whom is the engine's choice (R333). -/
def State.colTrace (s : State) (c : Collective) (n : Nat) : State :=
  if !colEvt c.recd then s
  else
    let steps := 1 + Config.freeNat (2 ^ 64 * s.free + 2 * c.ticket) % 65535
    (List.range steps).foldl (fun s k =>
      let peer := Config.freeNat (2 ^ 64 * s.free + 2 ^ 32 * (k + 1) + 2 * c.ticket + 1) % n
      let w := BitVec.ofNat 64 (colTag c.recd + k * 2 ^ 16 + colRank c.recd * 2 ^ 32 + peer * 2 ^ 40)
      (s.appendTrace .hub (s.traceNow w 0x8010 0xF8 0 c.req)).appendTrace .hub (s.traceNow w 0x8011 0xF8 0 c.req)) s

/-- The collective of a participant has finished: its status stands until it is taken; that of a strand that has ended
is dropped (R184). -/
def State.finishCollective (s : State) (c : Collective) (status : Nat) : State :=
  { s with collectives :=
      if c.owner.serial = 0 then s.collectives.erase c
      else s.collectives.map fun d => if d.ticket = c.ticket then { d with status := some status } else d }

/-- The participants of this module. -/
def State.localCollectives (s : State) (l : List ColPart) : List Collective :=
  l.filterMap fun p => match p with
    | .ticket t => s.openCollective t
    | .remote _ => none

/-- Final lines that a collective reads or writes. -/
def State.colLines (s : State) (c : Collective) : List Nat :=
  s.rangeLines c.cmd ((colSpans c.recd c.table.length).map fun r => (r.first, r.len))

/-- A collective must wait for an earlier one of its strand that reaches one of its lines (R233; log 109). -/
def State.colMustFollow (s : State) (c : Collective) : Bool :=
  (s.collectives.filter fun d => d.owner = c.owner && d.status = none && d.ticket < c.ticket).any fun d =>
    (s.colLines d).any fun l => (s.colLines c).contains l

/-- A collective must wait for one of its reads. -/
def State.colDelayed (s : State) (c : Collective) : Bool :=
  readsSource (colOp c.recd) (colRank c.recd) &&
  (s.rangeLines c.cmd [(colSrc c.recd, colCount c.recd * colUnit c.recd)]).any fun l => s.readDelayed colPath l

/-- Every source is read, the results are formed, the destinations written, and the status recorded. -/
def State.runCollective (s : State) (l : List ColPart) : State :=
  let tickets := l.filterMap fun p => match p with | .ticket t => some t | .remote _ => none
  match s.parts l with
  | none => s
  | some ps =>
    let cs := s.localCollectives l
    if !partsWhole ps || tickets = [] || tickets.eraseDups.length ≠ tickets.length || cs.any s.colMustFollow || cs.any s.colDelayed then s
    else
      let st := statusOf ps
      if st = 1 then cs.foldl (fun s c => s.finishCollective c 1) s
      else
        let ws := cs.map fun c => (c, s.colWrites ps c st)
        ws.foldl (fun s e =>
          ((s.performCommand (e.1.owner.origin colPath e.1.colour) e.2.1).colTrace e.1 ps.length).finishCollective e.1 (if st = 0 && e.2.2 then 3 else st)) s

/-- COLLECTIVE_RUN. -/
def execCollectiveRun (l : List ColPart) (s : State) : Result := .next (s.runCollective l)

/-! ## The halt of a cut (R201, R240, R305) -/

/-- The participants of a collective among those started on this module: for each entry of its table one that the entry names, with
an equal table, or where there is no such group, with any table (R197; log 108). -/
def State.peers (s : State) (c : Collective) : Option (List ColPart) :=
  let group := fun (same : Collective → Bool) =>
    ((c.table.filter fun e => c.table[colRank c.recd]? ≠ some e).mapM fun e =>
      (s.collectives.find? fun d => d.status = none && same d && d.table[colRank d.recd]? = some e).map fun d =>
        ColPart.ticket d.ticket).map fun l => ColPart.ticket c.ticket :: l
  match group fun d => d.table = c.table with
  | some l => some l
  | none => group fun _ => true

/-- Collectives accepted in an instance complete where all their participants have started on this module (log 108). -/
def State.settleCollectives (s : State) (p : Owner → Bool) : State :=
  (s.collectives.filter fun c => c.status = none && p c.owner).foldl (fun s c =>
    match (s.openCollective c.ticket).bind s.peers with
    | some l => s.runCollective l
    | none => s) s

/-- Over and over, as one may wait for another (R233). -/
def State.settleCollectivesGo (p : Owner → Bool) : Nat → State → State
  | 0, s => s
  | n + 1, s => settleCollectivesGo p n (s.settleCollectives p)

/-- Every engine command accepted from strands of an instance completes, those of strands that have ended too. -/
def State.settleInstance (s : State) (p : Owner → Bool) : State :=
  let s := (s.copyq.map (·.1)).foldl (fun s k => s.settleCopies k fun c => p c.owner) s
  let s := s.settleStacksBy fun c => p c.owner
  State.settleCollectivesGo p s.collectives.length s

/-- A strand comes to the boundary that the cut leaves it at: issued convoys and stores complete, other work is dropped (R210). -/
def State.bringToCut (s : State) (t : Strand) : State :=
  ((if t.issued.isSome then s.disarmAll t.disarms else s).setStrand t.completed.dropWork).finishStrand t

/-- STOPAT_HALT: the instance stops at its count. What was issued and can't complete within this step goes on in the halt, which
firmware observes once it is complete (R240). -/
def execStopatHalt (scope unit : Nat) (s : State) : Result :=
  match s.armed.find? fun a => a.at_ scope unit && s.due a with
  | none => .next s
  | some a =>
    let ts := s.all.filter fun t => unitOf scope t.core = unit
    let s := ((ts.foldl State.bringToCut s).settleInstance fun o => unitOf scope o.core = unit).refresh scope unit
    .next { s with armed := s.armed.filter (fun b => !b.at_ scope unit), halts := s.halts ++ [a] }

end Sys2Proof.Machine
end

