-- ==== Sys2Proof/Machine/Contexts.lean ====
section
/-! DEFINITION. Contexts (R202, R303 to R309): the image, CTXSAVE, CTXLOAD, the forced save; TLBINV and TLBINVA; TRET. -/
namespace Sys2Proof.Machine

/-! ## The image (R306 to R308) -/

/-- Eight bytes. -/
def le8 (n : Nat) : List Byte := leBytes 8 n

/-- A list of bytes filled with zeros to a length. -/
def padTo (n : Nat) (bs : List Byte) : List Byte := bs ++ List.replicate (n - bs.length) 0

def ctlBytes (c : Ctl) : List Byte :=
  [c.vl, c.mvl, c.vtype, c.seed, c.sbase, c.stripcfg].flatMap fun w => le8 w.toNat

/-- The lowest logical core of an instance (R306). -/
def State.lowestLogical (s : State) (scope unit : Nat) : Nat :=
  ((List.range 240).find? fun l => unitOf scope (s.physOf l) = unit).getD 0

/-- SIZE of an image (R306). -/
def imageSize (units : Nat) (cur : BitVec 4) : Nat :=
  4096 + 65536 * slicesOf cur + 32768 * popc 8 (bits units 0 8) + 1280 * popc 8 (bits units 8 8) +
    8192 * popc 4 (bits units 16 4) + 66048 * bits units 20 1

/-- The first 8 bytes of the header (R307). -/
def imageHead (t : Strand) (units cause : Nat) : Nat :=
  1 + cause * 2 ^ 8 + t.slot * 2 ^ 22 + t.queue.length * 2 ^ 24 + t.skeins.length * 2 ^ 28 + t.recd.toNat * 2 ^ 31 +
    t.cur.toNat * 2 ^ 35 + units * 2 ^ 39

/-- A posted fault, the first of its kind: cause kind, then index (R306). -/
def postedBytes : Option Posted → List Byte
  | some p => le8 (p.cause % 256) ++ le8 p.index.toNat
  | none => le8 0 ++ le8 0

/-- A queue entry (R308). -/
def queueBytes (q : QEntry) : List Byte :=
  let mask := if q.direct then 2 ^ 32 else q.caps.foldl (fun a c => a + 2 ^ c.1) 0
  let vals := if q.direct then [] else q.caps.flatMap fun c => le8 c.2.toNat
  le8 q.target.toNat ++ le8 q.vpc.toNat ++ ctlBytes q.ctl ++ le8 mask ++ padTo 128 vals

/-- A skein binding. -/
def skeinBytes (k : Skein) : List Byte :=
  le8 k.reg ++ le8 k.cursor ++ le8 (k.cnt0 * k.cnt1) ++ le8 0 ++ le8 k.base.toNat ++ le8 k.str0.toNat ++ le8 k.str1.toNat ++
    leBytes 4 k.cnt0 ++ leBytes 4 k.cnt1

/-- The barrier arrival. -/
def State.arrivalBytes (s : State) (a : Option Arrival) : List Byte :=
  match a with
  | some a => le8 a.gen ++ le8 (a.scope + 256 * s.lowestLogical a.scope a.unit)
  | none => le8 0 ++ le8 0

/-- Bytes a to a + n of an image of a unit. -/
def unitBytes (m : Image) (a n : Nat) : List Byte := imgBytes m a n

/-- Register images one after another (R27, R306). -/
def vregBytes (t : Strand) : List Byte :=
  let rb := regBytes t.cur t.ctl.vtype
  (List.range (65536 * slicesOf t.cur)).map fun o => imgGet t.vregs (65536 * (o / rb) + o % rb)

/-- Keys and values of the index scratchpad, then its valid bits. -/
def ixBytes (l : List (Nat × Word × Word)) : List Byte :=
  (List.range 4096).flatMap fun n =>
    match l.find? fun e => e.1 = n with
    | some e => le8 e.2.1.toNat ++ le8 e.2.2.toNat
    | none => le8 0 ++ le8 0

def ixValid (l : List (Nat × Word × Word)) : List Byte := leBytes 512 (l.foldl (fun a e => a + 2 ^ e.1) 0)

/-- Sections of units held. -/
def unitSections (k : Core) (units : Nat) : List (Nat × List Byte) :=
  ((List.range 8).filter fun n => units.testBit n).map (fun n => (0x41000 + 0x8000 * n, unitBytes k.tiles (32768 * n) 32768)) ++
  ((List.range 8).filter fun n => units.testBit (8 + n)).map (fun n =>
    (0x81000 + 0x500 * n, unitBytes k.pregs (1280 * n) 1280)) ++
  ((List.range 4).filter fun n => units.testBit (16 + n)).map (fun n =>
    (0x84000 + 0x2000 * n, unitBytes k.sregs (8192 * n) 8192)) ++
  if units.testBit 20 then [(0x8C000, ixBytes k.ix), (0x9C000, ixValid k.ix)] else []

/-- The image of a strand: (offset, bytes) of each section. -/
def State.image (s : State) (t : Strand) (cause : Nat) : List (Nat × List Byte) :=
  let k := s.core t.core
  let units := k.unitsOfSlot t.slot
  [(0, le8 (imageHead t units cause) ++ le8 (imageSize units t.cur) ++ le8 t.req.toNat ++ le8 t.wid.toNat ++
      le8 t.header.toNat ++ le8 s.scc.toNat ++ le8 0 ++ le8 0),
   (0x40, le8 t.pc.toNat ++ (List.range 31).flatMap fun n => le8 (t.xget (BitVec.ofNat 5 (n + 1))).toNat),
   (0x140, ctlBytes t.ctl ++ le8 t.pendNreg ++ le8 t.ptroot.toNat ++ le8 units ++ le8 t.grant.toNat),
   (0x190, padTo 128 (t.trec ++ le8 t.tcount.toNat)),
   (0x210, postedBytes t.postedStk.head? ++ postedBytes t.postedCpy.head?),
   (0x230, le8 t.tickets.length ++ padTo 256 (t.tickets.flatMap le8)),
   (0x338, s.arrivalBytes t.arrival)] ++
  t.queue.zipIdx.map (fun e => (0x400 + 256 * e.2, queueBytes e.1)) ++
  t.skeins.zipIdx.map (fun e => (0xC00 + 64 * e.2, skeinBytes e.1)) ++
  [(0x1000, vregBytes t)] ++ unitSections k units

/-- Cuts a section at 128-byte lines. -/
def lineChunks (off : Nat) (bs : List Byte) : List (Nat × List Byte) :=
  (List.range ((off % 128 + bs.length + 127) / 128)).map fun k =>
    let a := Nat.max off ((off / 128 + k) * 128)
    (a, (bs.drop (a - off)).take ((off / 128 + k + 1) * 128 - a))

/-! ## Saving (R202, R303, R309) -/

/-- Issued work of the strand completes: its convoy, its stores and moves, its CPY and STK commands; early work goes. -/
def State.quiesce (s : State) (t : Strand) : State :=
  let s := s.bringToCut t
  s.settleEngines ((s.strandAt t.core t.slot).getD t)

/-- The strand is out of its slot and waits in its launch (R296). -/
def State.takeOut (s : State) (t : Strand) : State :=
  let s := s.freeSlot t none
  { s with launches := s.launches.map fun l =>
      if some l.key = t.launch then { l with saved := l.saved ++ [{ wid := t.wid, debts := t.debts }] } else l }

/-- Where each chunk of an image goes. -/
def chunkDests (dest : Nat → Except Stop Resolved) : List (Nat × List Byte) → Except Stop (List (Resolved × List Byte))
  | [] => .ok []
  | (o, bs) :: l =>
    match dest o with
    | .error e => .error e
    | .ok d =>
      match chunkDests dest l with
      | .error e => .error e
      | .ok ds => .ok ((d, bs) :: ds)

/-- A BRWAIT that was given its record during the halt returns before the image is written. The model's choice (log 125): R309 and
R310 do not say so; the restored strand would meet BRAID-STATE. -/
def State.takeReturn (s : State) (t : Strand) : State :=
  match t.parked with
  | .brreturn _ _ => s.setStrand t.brDone
  | _ => s

/-- A save: issued work completes, or the save waits for it; the braid is left, the image is written, the slot is freed. `dest` gives the
place of an offset of the image, `o` whose writes they are. Answers SIZE. The model's choice (log 117): a line of the image that its
writes cover whole loses its poison, though R141's list names no save. -/
def State.saveStrand (s : State) (core slot cause : Nat) (o : Origin) (dest : State → Nat → Except Stop Resolved) :
    Except Stop (State × Nat) :=
  match s.strandAt core slot with
  | none => .error .wait
  | some t =>
    let s := s.quiesce t
    let t := (s.strandAt core slot).getD t
    if s.unfinished t || s.enginesBusy t then .error .wait
    else
    match s.saveBraid t (cause = 1) with
    | none => .error .wait
    | some s =>
      let t := (s.strandAt core slot).getD t
      let s := s.takeReturn t
      let t := (s.strandAt core slot).getD t
      match chunkDests (dest s) ((s.image t cause).flatMap fun e => lineChunks e.1 e.2) with
      | .error e => .error e
      | .ok ws => .ok ((s.performCommand o ws).takeOut t, imageSize ((s.core core).unitsOfSlot slot) t.cur)

/-- A slot operand of a privileged word. -/
def slotOf (v : Word) : Except Stop Nat := if v.toNat < 4 then .ok v.toNat else fault .ctxState v

/-- The strand in a slot, when CTXSAVE or TRET may act on it: not the executing strand; waiting on a trap, halted by a cut or
marked for saving (R202). -/
def State.target (s : State) (core slot : Nat) : Option Strand :=
  match s.strandAt core slot with
  | none => none
  | some t => if t.held ≠ .no || s.halted core || t.mark then some t else none

/-- Where an offset of an image at a virtual address goes: a write of the executing strand. -/
def imageDest (base : Word) (s : State) (o : Nat) : Except Stop Resolved := s.blockDest (base + BitVec.ofNat 64 o)

/-- Where an offset of an image at a physical address goes. -/
def physDest (pa : Nat) (s : State) (o : Nat) : Except Stop Resolved :=
  match s.engineDest .write (pa + o) with
  | .ok d => .ok d
  | .error _ => .error .wait

/-- CTXSAVE answers SIZE. -/
def State.finishSave (s : State) (d : Reg) (size : Nat) : State :=
  ({ s with me := { s.me with parked := .no } }.xset d (BitVec.ofNat 64 size)).advance

/-- CTXSAVE: it retires once its writes are performed; parked, it waits for them. -/
def execCtxsave (d a b : Reg) (s : State) : Result :=
  memStep [d, a, b] (fun s =>
    match s.privileged, s.me.parked with
    | .error e, _ => .error e
    | .ok _, .ctxsave size => if s.unfinished s.me then .error .wait else .ok (s.finishSave d size)
    | .ok _, _ =>
      match slotOf (s.xget b) with
      | .error e => .error e
      | .ok n =>
        if n = s.me.slot || (s.target s.me.core n).isNone then fault .ctxState (s.xget b)
        else if (s.xget a).toNat % 4096 ≠ 0 then fault .misaligned (s.xget a)
        else
          match s.saveStrand s.me.core n 0 s.scalarOrigin (imageDest (s.xget a)) with
          | .error e => .error e
          | .ok (s, size) =>
            .ok (if s.unfinished s.me then { s with me := { s.me with parked := .ctxsave size } } else s.finishSave d size)) s

/-- CTXSAVE by the system controller of a strand that it may act on (R310). -/
def State.controlSave (s : State) (core slot addr : Nat) : State :=
  if !s.firmware || (s.target core slot).isNone || addr % 4096 ≠ 0 || !s.cutSettled core then s
  else
    match s.saveStrand core slot 0 {} (physDest addr) with
    | .ok (s, _) => s
    | .error _ => s

/-- The image of a slot in the save area of a logical core: four images, each in its own 0x9D000 bytes (R303, log 24). -/
def saveSlot (base slot : Nat) : Nat := base + 0x9D000 * slot

/-- FORCED_SAVE: LEFT has reached 0, and the core is not halted (R301, R303, R304). -/
def execForcedSave (core slot : Nat) (s : State) : Result :=
  match s.strandAt core slot with
  | none => .next s
  | some t =>
    match s.saveAreas.find? fun e => e.1 = t.logical with
    | none => .next s
    | some (_, base) =>
      let a := saveSlot base slot
      if !t.pend || t.left ≠ 0 || s.halted core then .next s
      else
        match s.saveStrand core slot 1 {} (physDest a) with
        | .error _ => .next s
        | .ok (s, _) =>
          .next (s.notice { kind := .forcedSave, detail := t.wid.toNat + 2 ^ 64 * a, req := t.req, unit := t.logical,
                            slot := slot })

/-! ## Restoring (R308) -/

/-- Reads sections (offset, length) of an image into one image. -/
def State.readSections (s : State) (base : Word) (m : Image) : List (Nat × Nat) → Except Stop (State × Image)
  | [] => .ok (s, m)
  | (o, n) :: l =>
    match s.blockRead ((n + 7) / 8) (base + BitVec.ofNat 64 o) with
    | .error e => .error e
    | .ok (s, bs) => s.readSections base (imgPut m o (bs.take n)) l

def imgWord (m : Image) (o : Nat) : Word := BitVec.ofNat 64 (imgNat m o 8)

/-- An image that R308 calls malformed, by its first 8 bytes. -/
def headBad (h : Nat) : Bool :=
  bits h 60 4 ≠ 0 || bits h 16 6 ≠ 0 || bits h 0 8 ≠ 1 || 1 < bits h 8 8 || 8 < bits h 24 4 || 4 < bits h 28 3 ||
  bits h 35 4 = 0 || bits h 31 4 &&& bits h 35 4 ≠ bits h 31 4

/-- The sections that a header names, the header apart. -/
def sectionsOf (h : Nat) : List (Nat × Nat) :=
  let units := bits h 39 21
  [(0x40, 0x308)] ++ (List.range (bits h 24 4)).map (fun e => (0x400 + 256 * e, 200)) ++
  (List.range (bits h 28 3)).map (fun j => (0xC00 + 64 * j, 64)) ++
  [(0x1000, 65536 * popc 4 (bits h 35 4))] ++
  ((List.range 8).filter fun n => units.testBit n).map (fun n => (0x41000 + 0x8000 * n, 32768)) ++
  ((List.range 8).filter fun n => units.testBit (8 + n)).map (fun n => (0x81000 + 0x500 * n, 1280)) ++
  ((List.range 4).filter fun n => units.testBit (16 + n)).map (fun n => (0x84000 + 0x2000 * n, 8192)) ++
  if units.testBit 20 then [(0x8C000, 65536), (0x9C000, 512)] else []

def ctlAt (m : Image) (o : Nat) : Ctl :=
  { vl := imgWord m o, mvl := imgWord m (o + 8), vtype := imgWord m (o + 16), seed := imgWord m (o + 24),
    sbase := imgWord m (o + 32), stripcfg := imgWord m (o + 40) }

/-- A posted fault of an image. The model's choice (log 121): the image holds no chamber slots, so a store to TAGW never takes a
restored CPY-ELEMENT fault; FENCE.X and EXIT do. -/
def postedAt (m : Image) (o : Nat) : Option Posted :=
  if imgNat m o 1 = 0 then none else some { cause := imgNat m o 1, index := imgWord m (o + 8) }

/-- A queue entry of an image, its sets still to be scanned. A block that reads its registers directly finds them in
the restored registers. -/
def queueAt (m : Image) (x : Vector Word 32) (o : Nat) : QEntry :=
  let direct := bits (imgNat m (o + 64) 8) 32 1 = 1
  let regs := (List.range 32).filter fun r => bits (imgNat m (o + 64) 8) r 1 = 1
  { target := imgWord m o, vpc := imgWord m (o + 8), ctl := ctlAt m (o + 16), direct := direct,
    caps := if direct then x.toList.zipIdx.map fun e => (e.2, e.1) else regs.zipIdx.map fun e => (e.1, imgWord m (o + 72 + 8 * e.2)),
    writes := [], work := [] }

def skeinAt (m : Image) (o : Nat) : Skein :=
  { reg := imgNat m o 1, base := imgWord m (o + 32), str0 := imgWord m (o + 40), str1 := imgWord m (o + 48),
    cnt0 := imgNat m (o + 56) 4, cnt1 := imgNat m (o + 60) 4, cursor := imgNat m (o + 8) 8 }

def State.arrivalAt (s : State) (m : Image) : Option Arrival :=
  let g := imgNat m 0x338 8
  let p := imgNat m 0x340 8
  if g = 0 then none else some ⟨bits p 0 3, unitOf (bits p 0 3) (s.physOf (bits p 8 8)), g⟩

/-- Bytes of an image from an offset on, renumbered. -/
def imgSlice (m : Image) (a n base : Nat) : Image :=
  (m.filter fun p => a ≤ p.1 && p.1 < a + n).map fun p => (p.1 - a + base, p.2)

/-- Puts one image over another, at keys that the other leaves empty. -/
def imgOver (m n : Image) : Image := n.foldl (fun m p => imgSet m p.1 p.2) m

/-- Lane slices of a core that no strand holds: in force or recorded (R294, R301). -/
def State.freeSlices (s : State) (core : Nat) : List Nat :=
  (List.range 4).filter fun k => !s.all.any fun t => t.core = core && t.cur.getLsbD k

/-- A grant of the n lowest of some slices. -/
def lowestGrant (free : List Nat) (n : Nat) : BitVec 4 := BitVec.ofNat 4 ((free.take n).foldl (fun a k => a + 2 ^ k) 0)

def State.levelOf (s : State) (core slice : Nat) : Nat := (s.core core).levels.getD slice 0

/-- A level is applied to a slice that holds no lanes. -/
def State.applyLevel (s : State) (core slice level : Nat) : State :=
  let c := s.core core
  s.setCore core { c with levels := c.levels.set slice level, islandCmds := c.islandCmds.filter fun e => e.1 ≠ slice }

/-- Commands that waited for slices which are free now apply (R393). -/
def State.applyWaiting (s : State) (core : Nat) : State :=
  ((s.core core).islandCmds.filter fun e => (s.freeSlices core).contains e.1).foldl (fun s e => s.applyLevel core e.1 e.2) s

/-- Free slices that the dispatcher may grant: none at level 2 or 3. -/
def State.grantable (s : State) (core : Nat) : List Nat := (s.freeSlices core).filter fun k => s.levelOf core k < 2

/-- The launch that a saved strand belongs to: by the header address and the WID of its image. -/
def State.launchOf (s : State) (header wid : Word) : Option Launch :=
  s.launches.find? fun l => l.hva = header && l.saved.any fun e => e.wid = wid

/-- The restored strand (R308). The model's choice (log 120): R308 lists no check of the program counter, a queue target or a VPC; one
that is no multiple of its word's size is restored as it stands, and fetched from. -/
def State.restored (s : State) (m : Image) (slot : Nat) (grant : BitVec 4) (serial : Nat) : Strand :=
  let h := imgNat m 0 8
  let header := imgWord m 32
  let wid := imgWord m 24
  let l := s.launchOf header wid
  let x : Vector Word 32 := Vector.ofFn fun i => if i.val = 0 then 0 else imgWord m (0x48 + 8 * (i.val - 1))
  let ctl := ctlAt m 0x140
  let rb := regBytes grant ctl.vtype
  { Strand.absent with
    placed := true, core := s.me.core, slot := slot, logical := s.me.logical, x := x, pc := imgWord m 0x40, ctl := ctl,
    pendNreg := bits (imgNat m 0x170 8) 0 2, wid := wid, ptroot := imgWord m 0x178,
    priv := (l.map fun l => l.priv).getD false, cur := grant, recd := grant,
    vregs := (imgSlice m 0x1000 (65536 * slicesOf grant) 0).map fun p => (65536 * (p.1 / rb) + p.1 % rb, p.2),
    skeins := (List.range (bits h 28 3)).map fun j => skeinAt m (0xC00 + 64 * j),
    queue := (List.range (bits h 24 4)).map fun e => queueAt m x (0x400 + 256 * e),
    debts := match l.bind fun l => l.saved.find? fun e => e.wid = wid with
      | some e => e.debts
      | none => [],
    trec := imgBytes m 0x190 64, tcount := imgWord m 0x1D0,
    postedStk := (postedAt m 0x210).toList, postedCpy := (postedAt m 0x220).toList,
    tickets := (List.range (Nat.min (imgNat m 0x230 8) 32)).map fun j => imgNat m (0x238 + 8 * j) 8,
    arrival := s.arrivalAt m,
    -- the fraction that TIMERD latched is not in the image: any value (log 25)
    frac := BitVec.ofNat 32 (Config.freeNat (2 ^ 64 * s.free + 3)),
    stepped := true, launch := l.map fun l => l.key, req := imgWord m 16, header := header, serial := serial }

/-- The register sets and memory work of the queued blocks, scanned again with the restored strand's translations. -/
def State.rescan (s : State) (t : Strand) : Strand :=
  let u := { s with me := t }
  { t with queue := t.queue.map fun q =>
      let r := u.scan q.ctl.vtype q.target
      { q with writes := r.writes, work := r.work } }

/-- Units of the image pass to the slot, with their contents. -/
def Core.takeUnits (c : Core) (m : Image) (units slot : Nat) : Core :=
  let has := fun (lo n : Nat) => (List.range n).filter fun k => units.testBit (lo + k)
  { c with
    units := c.units ++ ((List.range 21).filter fun u => units.testBit u).map fun u => (u, slot),
    tiles := (has 0 8).foldl (fun t k => imgOver (imgClear t (32768 * k) (32768 * (k + 1)))
      (imgSlice m (0x41000 + 0x8000 * k) 32768 (32768 * k))) c.tiles,
    pregs := (has 8 8).foldl (fun t k => imgOver (imgClear t (1280 * k) (1280 * (k + 1)))
      (imgSlice m (0x81000 + 0x500 * k) 1280 (1280 * k))) c.pregs,
    sregs := (has 16 4).foldl (fun t k => imgOver (imgClear t (8192 * k) (8192 * (k + 1)))
      (imgSlice m (0x84000 + 0x2000 * k) 8192 (8192 * k))) c.sregs,
    ix := if units.testBit 20 then
        ((List.range 4096).filter fun n => (imgNat m 0x9C000 512).testBit n).map fun n =>
          (n, imgWord m (0x8C000 + 16 * n), imgWord m (0x8C008 + 16 * n))
      else c.ix }

/-- The strand stands in the slot again, and out of its launch's saved ones; its tickets are its own. The core's data cache has applied
what it received, so the strand reads its own stores (R233). -/
def State.placeRestored (s : State) (t : Strand) (m : Image) : State :=
  let units := bits (imgNat m 0 8) 39 21
  let s := s.applyInvals t.core
  let s := s.setCore t.core ((s.core t.core).takeUnits m units t.slot)
  { s with strands := s.strands ++ [t],
           collectives := s.collectives.map (fun c =>
             if t.tickets.contains (Config.ticketOf c.ticket).toNat && c.owner.serial ≠ 0 then { c with owner := t.owner } else c),
           launches := s.launches.map fun l =>
             if some l.key = t.launch then { l with saved := l.saved.eraseP fun e => e.wid = t.wid } else l }

/-- CTXLOAD. -/
def execCtxload (a b : Reg) (s : State) : Result :=
  memStep [a, b] (fun s =>
    match s.privileged with
    | .error e => .error e
    | .ok _ =>
      let va := s.xget a
      match slotOf (s.xget b) with
      | .error e => .error e
      | .ok n =>
        if (s.strandAt s.me.core n).isSome then fault .ctxState (s.xget b)
        else if va.toNat % 4096 ≠ 0 then fault .misaligned va
        else
          match s.readSections va [] [(0, 64)] with
          | .error e => .error e
          | .ok (s, m) =>
            let h := imgNat m 0 8
            if headBad h then fault .ctxForm va
            else
              match s.readSections va m (sectionsOf h) with
              | .error e => .error e
              | .ok (s, m) =>
                let k := popc 4 (bits h 35 4)
                let s := s.applyWaiting s.me.core
                let free := s.grantable s.me.core
                let taken := (List.range 21).any fun u => (bits h 39 21).testBit u && ((s.core s.me.core).holder u).isSome
                if free.length < k || taken then fault .ctxState (s.xget b)
                else
                  let (s, serial) := s.fresh
                  let t := s.rescan (s.restored m n (lowestGrant free k) serial)
                  .ok (s.placeRestored t m).advance) s

/-! ## TLB invalidation (R202, R316) -/

/-- Every earlier scalar store of the strand has left its buffer. -/
def State.storesOut (s : State) : State :=
  (s.drainSbuf s.me.core fun e => e.slot = s.me.slot).settleHeld s.me.core s.me.slot

/-- Translations that a test selects go, and early work with them, once the strand's earlier scalar stores are performed. -/
def State.invalidate (s : State) (asid : Option Nat) (p : TlbEntry → Bool) : Except Stop State :=
  let s := s.storesOut
  if s.stillHeld s.me.core s.me.slot fun o => o.path = 5 then .error .wait
  else
    let s := s.mapStrands fun t => if asid = none || asid = some (asidOf t.ptroot) then t.dropReads else t
    .ok { s with tlb := s.tlb.filter fun e => !p e }.advance

/-- TLBINV. -/
def execTlbinv (a b : Reg) (s : State) : Result :=
  memStep [a, b] (fun s =>
    match s.privileged with
    | .error e => .error e
    | .ok _ =>
      let asid := (s.xget b).toNat % 65536
      let va := (s.xget a).toNat % 2 ^ 57
      s.invalidate (some asid) fun e => e.asid = asid && e.page ≤ va && va < e.page + e.size) s

/-- TLBINVA. -/
def execTlbinva (b : Reg) (s : State) : Result :=
  memStep [b] (fun s =>
    match s.privileged with
    | .error e => .error e
    | .ok _ =>
      let v := s.xget b
      if v = allOnes then s.invalidate none fun _ => true
      else s.invalidate (some (v.toNat % 65536)) fun e => e.asid = v.toNat % 65536) s

/-! ## TRET (R202, R363) -/

/-- The strand ends as a failed request: its issued work completes, then steps 4 to 7 of R184. -/
def State.endFailed (s : State) (t : Strand) : State :=
  let s := (s.disarmAll t.disarms).finishStrand t
  s.endStrand ((s.strandAt t.core t.slot).getD t) true

/-- TRET on a target; none where it raises CTX-STATE. -/
def State.serve (s : State) (t : Strand) (action : Nat) : Option State :=
  if action = 1 then some (s.endFailed t)
  else
    match t.held with
    | .replayable _ _ => some (s.setStrand t.resumed)
    | .fatal => none
    | .no => if s.halted t.core then none else some (s.setStrand { t with mark := false })

/-- Action 1 waits for work that the target has issued (R363). -/
def State.endWaits (s : State) (t : Strand) (action : Nat) : Bool := action = 1 && (s.finishStrand t).unfinished t

/-- TRET. -/
def execTret (a b : Reg) (s : State) : Result :=
  memStep [a, b] (fun s =>
    match s.privileged with
    | .error e => .error e
    | .ok _ =>
      match slotOf (s.xget a) with
      | .error e => .error e
      | .ok n =>
        if 1 < (s.xget b).toNat then fault .ctxState (s.xget b)
        else
          match (if n = s.me.slot then none else s.target s.me.core n) with
          | none => fault .ctxState (s.xget a)
          | some t =>
            if s.endWaits t (s.xget b).toNat then .error .wait
            else
            match s.serve t (s.xget b).toNat with
            | some s => .ok s.advance
            | none => fault .ctxState (s.xget a)) s

/-- TRET by the system controller. -/
def State.controlTret (s : State) (core slot : Nat) (action : Word) : State :=
  if !s.firmware || 1 < action.toNat then s
  else
    match s.target core slot with
    | none => s
    | some t => if s.endWaits t action.toNat || !s.cutSettled core then s else (s.serve t action.toNat).getD s

end Sys2Proof.Machine
end

