-- ==== Sys2Proof/Machine/Media.lean ====
section
/-! DEFINITION. The PTP hardware clock (R318, R319), windows and token records (R321 to R325), sealing (R328), and the
registration of windows, trace rings and trap queues (R321, R331, R359, R389). -/
namespace Sys2Proof.Machine

/-- A cut of the whole package stops the sink controller and the collective engine (R201). -/
def State.hubHalted (s : State) : Bool := s.halts.any fun h => h.scope = 4

/-- A cut covers a die's dispatcher. -/
def State.dieHalted (s : State) (die : Nat) : Bool := s.halts.any fun h => h.scope = 4 || (h.scope = 3 && h.unit = die)

/-! ## The clock (R318, R319) -/

/-- PTP_ADDEND_WRITE: a non-zero NS or a zero FR is ignored. -/
def execPtpAddendWrite (v : Word) (s : State) : Result :=
  firmwareStep (fun s => if bits v.toNat 32 32 ≠ 0 || bits v.toNat 0 32 = 0 then s else { s with addend := v.truncate 32 }) s

/-- PTP_STEP_WRITE: the count moves, the fraction stays; a step that is not 0 sets STEPPED for every strand. After a step back
LOCK is the present one for every count above the new one (R332). -/
def execPtpStepWrite (v : Word) (s : State) : Result :=
  firmwareStep (fun s =>
    let ns := s.ptpNs + v
    let s := { s with ptpNs := ns, lockLog := s.lockLog.map fun e => (Nat.min e.1 ns.toNat, e.2) }
    if v = 0 then s else s.mapStrands fun t => { t with stepped := true }) s

/-- PTP_STAT_WRITE: a non-zero RSV is ignored. -/
def execPtpStatWrite (v : Word) (s : State) : Result :=
  firmwareStep (fun s =>
    if bits v.toNat 1 63 ≠ 0 || s.lock = v.getLsbD 0 then s
    else { s with lock := v.getLsbD 0, lockLog := s.lockLog ++ [(s.ptpNs.toNat, s.lock)] }) s

/-! ## Windows (R321, R322) -/

/-- Stream descriptor fields of stream j. -/
def Window.sid (w : Window) (j : Nat) : Nat := w.field (1536 + 128 * j + 96) 16
def Window.ivl (w : Window) (j : Nat) : Nat := w.field (1536 + 128 * j + 64) 32
def Window.org (w : Window) (j : Nat) : Nat := w.field (1536 + 128 * j) 64

/-- The greatest whole number of steps up, rounded up. -/
def ceilDiv (a b : Nat) : Nat := (a + b - 1) / b

/-- The number of q with ORG + q IVL below a time: the q below it are exactly those. -/
def Window.before (w : Window) (j t : Nat) : Nat := if t ≤ w.org j then 0 else ceilDiv (t - w.org j) (w.ivl j)

/-- C_j(t) is the q from the first of these up to but not including the second (R322). -/
def Window.covered (w : Window) (j t : Nat) : Nat × Nat := (w.before j (t - w.span), w.before j t)

def Window.headOf (w : Window) (j : Nat) : Nat := w.head.getD j 0
def Window.limOf (w : Window) (j : Nat) : Nat := w.lim.getD j 0

/-- E_j(t) (R322). -/
def Window.evaluated (w : Window) (j t : Nat) : List Nat :=
  let c := w.covered j t
  let lo := Nat.max c.1 (w.limOf j)
  (List.range (c.2 - lo)).map (· + lo)

/-- Slot number of q in stream j, and a slot's address (R321). -/
def Window.slotNo (w : Window) (j q : Nat) : Nat := j * w.nslot + q % w.nslot
def Window.slotAddr (w : Window) (n : Nat) : Nat := w.slots + 64 * n

/-- The settled record of a slot (R324). -/
def Window.settledAt (w : Window) (n : Nat) : Option Settled := w.settled.find? fun e => e.slot = n

/-- The settled record of a slot has this SEQ and GAP. -/
def Window.holds_ (w : Window) (n q : Nat) (gap : Bool) : Bool :=
  match w.settledAt n with
  | some e => e.seq = q && e.gap = gap
  | none => false

def Window.settle (w : Window) (n q : Nat) (gap : Bool) (arrival : Nat) : Window :=
  { w with settled := ⟨n, q, gap, arrival⟩ :: w.settled }

/-- q is taken in its slot. -/
def Window.isTaken (w : Window) (j q : Nat) : Bool := w.holds_ (w.slotNo j q) q false

/-- A record taken at or after a stamp that no earlier seal has counted: a seal at that stamp does not count it (R328). -/
def Window.after (w : Window) (stamp : Nat) (e : Settled) : Bool :=
  !e.gap && stamp ≤ e.arrival && w.limOf (e.slot / w.nslot) ≤ e.seq

/-- The window as a seal at a stamp sees it. -/
def Window.asOf (w : Window) (stamp : Nat) : Window := { w with settled := w.settled.filter fun e => !w.after stamp e }

/-- Every q of E_j(t) of every stream is taken before the stamp (R327, R328; log 110). -/
def Window.complete (w : Window) (t stamp : Nat) : Bool :=
  (List.range w.streams).all fun j => (w.evaluated j t).all fun q => (w.asOf stamp).isTaken j q

def State.setWindow (s : State) (w : Window) : State :=
  { s with windows := s.windows.map fun v => if v.index = w.index then w else v }

/-- A write of the sink controller (R251). -/
def State.sinkPut (s : State) (pa : Nat) (bs : List Byte) : State := s.hwWrite pa bs

/-- The read-only fields of the record as the sink controller keeps them (R321). -/
def State.showWindow (s : State) (w : Window) : State :=
  let hl := (List.range 4).flatMap fun j => leBytes 4 (w.headOf j) ++ leBytes 4 (w.limOf j)
  let s := s.sinkPut (w.addr + 128) (hl ++ leBytes 8 w.tick ++ leBytes 8 w.fireno ++ leBytes 2 w.ngap ++ leBytes 2 w.nlate ++
    leBytes 4 w.ovr ++ leBytes 4 w.drop ++ leBytes 4 w.holds)
  (s.sinkPut (w.addr + 91) [BitVec.ofNat 8 (w.field 734 2 * 64 + w.lh * 32)]).setWindow w

/-- A record that firmware refuses (R321, R322). -/
def Window.bad (w : Window) : Bool :=
  w.field 0 733 ≠ 0 || w.span = 0 || w.field 752 16 = 0 || 16 < w.field 752 16 || w.nls = 0 || 1024 < w.nls ||
  w.slots % 64 ≠ 0 || w.lateBase % 64 ≠ 0 || (List.range w.streams).any fun j => w.ivl j = 0

/-- The latched bytes of a window record: its addresses stand as those of the memory that they name (R337). -/
def State.latchWindow (s : State) (bs : List Byte) : List Byte :=
  let at_ := fun (k : Nat) => leBytes 8 (s.canon (leNat ((bs.drop k).take 8)))
  bs.take 104 ++ at_ 104 ++ at_ 112 ++ at_ 120 ++ bs.drop 128

/-- WINDOW_REGISTER: the fields are latched and the read-only ones begin at 0. -/
def execWindowRegister (index addr : Nat) (s : State) : Result :=
  firmwareStep (fun s =>
    let w : Window := { index := index, addr := addr, recd := s.latchWindow (s.hwBytes addr 256), head := [0, 0, 0, 0],
                        lim := [0, 0, 0, 0], settled := [], judged := [], half := 0, count := 0, written := [], holds := 0, drop := 0, ovr := 0, nlate := 0,
                        ngap := 0, fireno := 0, tick := 0, lh := 0 }
    let others := s.windows.filter fun v => v.index ≠ index
    if 64 ≤ index || addr % 256 ≠ 0 || w.bad || 4 ≤ (others.filter fun v => v.hdr = w.hdr).length then s
    else { s with windows := others ++ [w] }.showWindow w) s

/-! ## Taking a record (R324) -/

/-- What becomes of a record. -/
inductive Fate where
  | drop
  | late
  /-- Taken in place, in a slot. -/
  | take (n : Nat)
  deriving DecidableEq, Repr

/-- The first rule of R324's table that applies to the record of q for stream j at an address. -/
def Window.fate (w : Window) (addr j q : Nat) : Fate :=
  let n := w.slotNo j q
  if addr ≠ w.slotAddr n then .drop
  else if q < w.limOf j then (if w.holds_ n q false then .drop else .late)
  else if w.headOf j + w.nslot ≤ q then .drop
  else .take n

/-- The 64 bytes with ARRIVAL and the flag bits as the sink controller writes them. -/
def stampToken (bs : List Byte) (arrival : Word) (flags : Nat) : List Byte :=
  bs.take 8 ++ leBytes 8 arrival.toNat ++ [0, BitVec.ofNat 8 flags] ++ bs.drop 18

/-- One more record dropped. -/
def Window.dropped (w : Window) : Window := { w with drop := (w.drop + 1) % 2 ^ 32 }

/-- VALID is cleared in the bytes that a producer wrote, where they still stand. -/
def State.clearValid (s : State) (addr : Nat) (bs : List Byte) : State :=
  if s.hwBytes addr 64 = bs then s.sinkPut (addr + 17) [bs.getD 17 0 &&& 0xFE] else s

/-- The sink controller notes a record that it judged late or dropped. -/
def Window.noteJudged (w : Window) (e : Judged) : Window := { w with judged := e :: w.judged }

/-- The LATE trace record of a record. It names no launch: a window record holds no REQ (R321, R332, R333; log 46). -/
def State.lateTrace (s : State) (w : Window) (j q : Nat) : State :=
  s.appendTrace .hub (s.traceNow (BitVec.ofNat 64 (w.sid j + q * 2 ^ 16)) 0x8006 0xF9 0 0)

/-- A record judged for stream j and q meets its fate (R324); `traced` if its LATE trace record stands already. -/
def State.judge (s : State) (w : Window) (j : Nat) (traced : Bool) (e : Judged) : State × Window :=
  match w.fate e.addr j e.seq with
  | .drop => (s.clearValid e.addr e.bytes, w.dropped.noteJudged { e with late := false, kept := false })
  | .late =>
    let s := s.clearValid e.addr e.bytes
    let s := if traced then s else s.lateTrace w j e.seq
    if w.nls ≤ w.count then (s, w.dropped.noteJudged { e with late := true, kept := false })
    else
      (s.sinkPut (w.lateBase + 64 * (w.half * w.nls + w.count)) (stampToken e.bytes (BitVec.ofNat 64 e.arrival) 3),
        { w with count := w.count + 1 }.noteJudged { e with late := true, kept := true })
  | .take n => (s.sinkPut (e.addr + 8) (leBytes 8 e.arrival ++ [0, 1]), w.settle n e.seq false e.arrival)

/-- Takes the record in a slot. -/
def State.takeToken (s : State) (w : Window) (addr : Nat) : State :=
  let bs := s.hwBytes addr 64
  let v := leNat bs
  let w := { w with written := w.written.filter fun e => e.1 ≠ addr }
  let r := match (List.range w.streams).find? fun j => w.sid j = bits v 144 16 with
    | none => (s.clearValid addr bs, w.dropped)
    | some j => s.judge w j false { addr := addr, stream := j, seq := bits v 160 32, bytes := bs, arrival := s.ptpNs.toNat,
                                    late := false, kept := false }
  r.1.showWindow r.2

/-- TOKEN_RECORD_TAKE: every byte of the record has been written. Under replay the sink controller writes the captured
records in place of the producers' (R367). -/
def execTokenRecordTake (window addr : Nat) (s : State) : Result :=
  match s.windows.find? fun w => w.index = window with
  | none => .next s
  | some w =>
    if assocGet 0 w.written addr = 2 ^ 64 - 1 && !s.hubHalted && !s.replaying then .next (s.takeToken w addr) else .next s

/-! ## Sealing (R328) -/

/-- One gap record. -/
def gapRecord (w : Window) (j q : Nat) (stamp : Word) : List Byte :=
  leBytes 8 (w.org j + q * w.ivl j) ++ leBytes 8 stamp.toNat ++ [0, 5] ++ leBytes 2 (w.sid j) ++ leBytes 4 q ++
    List.replicate 40 0

/-- Captures one record of a seal as the seal left it, with its slot address (R366). -/
def State.captureToken (s : State) (w : Window) (addr : Nat) : State :=
  s.appendCapture .captureHub 4 w.index 0 0xF9 0 (s.hwBytes addr 64 ++ leBytes 8 addr)

/-- Gap records for the untaken q of a stream. -/
def State.writeGaps (s : State) (w : Window) (j : Nat) : List Nat → State × Window
  | [] => (s, w)
  | q :: qs =>
    let n := w.slotNo j q
    let w := { w.settle n q true s.ptpNs.toNat with ngap := w.ngap + 1 }
    (s.sinkPut (w.slotAddr n) (gapRecord w j q s.ptpNs)).writeGaps w j qs

/-- LIM and HEAD of a stream after the seal. -/
def Window.advance (w : Window) (j t next : Nat) (period : Nat) : Window :=
  let c := w.covered j t
  let lim := if c.1 < c.2 then Nat.max (w.limOf j) c.2 else w.limOf j
  let head := if period = 0 then w.headOf j else Nat.max (w.headOf j) (w.covered j next).1
  { w with lim := w.lim.set j lim, head := w.head.set j head }

/-- The seal of one stream. -/
def State.sealStream (s : State) (w : Window) (j t period : Nat) (gaps : Bool) : State × Window :=
  let e := w.evaluated j t
  let (s, w) := if gaps then s.writeGaps w j (e.filter fun q => !w.isTaken j q) else (s, w)
  let shown := if gaps then e else e.filter fun q => w.isTaken j q
  let s := shown.foldl (fun s q => s.captureToken w (w.slotAddr (w.slotNo j q))) s
  (s, w.advance j t (t + period) period)

/-- The late half passes to the firing. -/
def State.presentLate (s : State) (w : Window) (n t : Nat) : State × Window :=
  let s := (List.range w.count).foldl (fun s k => s.captureToken w (w.lateBase + 64 * (w.half * w.nls + k))) s
  (s, { w with tick := t, fireno := n, lh := w.half, nlate := w.count, half := 1 - w.half, count := 0, judged := [] })

/-- The records taken in place that a seal now does not count, the oldest first, with their bytes; of one slot only the newest
still has its bytes. -/
def State.laterTaken (s : State) (w : Window) : List Judged :=
  ((w.settled.filter fun e => w.after s.ptpNs.toNat e && w.settledAt e.slot = some e).reverse).map fun e =>
    { addr := w.slotAddr e.slot, stream := e.slot / w.nslot, seq := e.seq, bytes := s.hwBytes (w.slotAddr e.slot) 64,
      arrival := e.arrival, late := false, kept := false }

/-- The records judged late or dropped that a seal at a stamp does not count, the oldest first. -/
def Window.laterJudged (w : Window) (stamp : Nat) : List Judged := (w.judged.filter fun e => stamp ≤ e.arrival).reverse

/-- The judgements that a seal does not count are taken back: their records leave the collecting half, and DROP, for the time after
the seal (R328). -/
def State.takeBack (s : State) (w : Window) : State × Window :=
  let stamp := s.ptpNs.toNat
  let gone := w.laterJudged stamp
  let stay := w.judged.filter fun e => e.arrival < stamp
  let kept := (stay.filter (·.kept)).reverse
  let n := (gone.filter fun e => !e.kept).length
  let w' := { w with judged := stay, count := w.count - (gone.filter (·.kept)).length, drop := (w.drop + 2 ^ 32 - n % 2 ^ 32) % 2 ^ 32 }
  if gone.any (·.kept) then
    (kept.zipIdx.foldl (fun s e => s.sinkPut (w.lateBase + 64 * (w.half * w.nls + e.2))
      (stampToken e.1.bytes (BitVec.ofNat 64 e.1.arrival) 3)) s, w')
  else (s, w')

/-- Records that a seal did not count are judged after it, those taken in place first (R328; log 110). -/
def State.judgeAfter (s : State) (w : Window) : List Judged → State × Window
  | [] => (s, w)
  | e :: l =>
    let r := s.judge w e.stream e.late e
    r.1.judgeAfter r.2 l

/-- One note for each slot. -/
def Window.trim (w : Window) : Window := { w with settled := w.settled.filter fun e => w.settledAt e.slot = some e }

/-- SEAL on one window: with gaps for a firing that is placed, without for one that is held. -/
def State.sealWindow (s : State) (w : Window) (n t period : Nat) (placed : Bool) : State :=
  let before := w.ngap
  let later := s.laterTaken w ++ w.laterJudged s.ptpNs.toNat
  let (s, w) := s.takeBack w
  let w := { w.asOf s.ptpNs.toNat with ngap := 0 }
  let (s, w) := (List.range w.streams).foldl (fun (a : State × Window) j => a.1.sealStream a.2 j t period placed) (s, w)
  let (s, w) := if placed then s.presentLate w n t
    else (s, { w with ngap := before, holds := (w.holds + 1) % 2 ^ 32 })
  let (s, w) := s.judgeAfter w later
  s.showWindow w.trim

/-- Windows of a header slot. -/
def State.windowsOf (s : State) (hpa : Nat) : List Window := s.windows.filter fun w => w.hdr = hpa

/-- SEAL(n, mode) of a launch (R328). -/
def State.seal (s : State) (hpa n t period : Nat) (placed : Bool) : State :=
  (s.windowsOf hpa).foldl (fun s w => s.sealWindow w n t period placed) s

/-! ## Rings and trap queues (R331, R359) -/

/-- Unit numbers that a ring identifier may hold. -/
def ringIdOk : RingId → Bool
  | .core l => l < 240
  | .dispatcher d | .capture d => d < 4
  | .hub | .captureHub => true

/-- RING_REGISTER: BASE and LGN are latched. The hardware's own WR begins at 0 and goes on over a new registration (R331). -/
def execRingRegister (id : RingId) (addr : Nat) (s : State) : Result :=
  firmwareStep (fun s =>
    let v := s.hwRead addr 64
    let base := bits v 0 64
    let lgn := bits v 192 6
    let refused := !ringIdOk id || addr % 64 ≠ 0 || bits v 198 314 ≠ 0 ||
      (base ≠ 0 && (lgn < 4 || 24 < lgn || base % 32 ≠ 0))
    if refused then s
    else
      let wr := ((s.rings.find? fun q => q.id = id).map fun q => q.wr).getD 0
      let r : Ring := { id := id, addr := addr, base := base, lgn := lgn, wr := wr }
      { s with rings := s.rings.filter (fun q => q.id ≠ id) ++ [r] }) s

/-- TRAP_QUEUE_REGISTER: logical cores 0 to 239, and 240 for the system controller. BASE and LGN stay in the descriptor. WR and
DROPN, which only the hardware writes, begin at 0 and go on over a new registration, as SEQ does (R359, R361). -/
def execTrapQueueRegister (q addr : Nat) (s : State) : Result :=
  firmwareStep (fun s =>
    let v := s.hwRead addr 64
    let base := bits v 0 64
    let lgn := bits v 192 4
    let refused := 240 < q || addr % 64 ≠ 0 || bits v 232 280 ≠ 0 || bits v 196 3 ≠ 0 ||
      (base ≠ 0 && (lgn < 3 || 12 < lgn || base % 64 ≠ 0))
    if refused then s
    else
      let old := s.trapqs.find? fun u => u.q = q
      let kept := fun (f : TrapQueue → Nat) => (old.map f).getD 0
      let r : TrapQueue := { q := q, addr := addr, wr := kept (·.wr), seq := kept (·.seq), dropn := kept (·.dropn) }
      { s with trapqs := s.trapqs.filter (fun u => u.q ≠ q) ++ [r] }) s

end Sys2Proof.Machine
end

