-- ==== Sys2Proof/Machine/Launches.lean ====
section
/-! DEFINITION. The dispatchers (R282 to R297, R326, R327, R329): logs, acceptance, dependences, firing, placement, aging,
reclaiming and retirement. -/
namespace Sys2Proof.Machine

/-! ## Header fields (R286, R287) -/

def hField (h : List Byte) (lo n : Nat) : Nat := bits (leNat h) lo n
def hCtl (h : List Byte) (lo n : Nat) : Nat := hField h (448 + lo) n

def hEntry (h : List Byte) : Nat := hField h 0 64
def hWcnt (h : List Byte) : Nat := hField h 64 64
def hReq (h : List Byte) : Word := BitVec.ofNat 64 (hField h 128 64)
def hDone (h : List Byte) : Nat := hField h 192 64
def hFire (h : List Byte) : Nat := hField h 256 64
def hPeriod (h : List Byte) : Nat := hField h 320 64
def hGrace (h : List Byte) : Nat := hField h 384 64
def hVregs (h : List Byte) : Nat := hCtl h 42 2
def hPrio (h : List Byte) : Nat := hCtl h 44 3
def hClr (h : List Byte) : Nat := hCtl h 47 3
def hLate (h : List Byte) : Nat := hCtl h 50 2
def hNdep (h : List Byte) : Nat := hCtl h 52 3
def hNf (h : List Byte) : Nat := hCtl h 55 3
def hWidth (h : List Byte) (k : Nat) : Nat := hCtl h (35 - 7 * k) 7
def hDepAddr (h : List Byte) (j : Nat) : Nat := hField h (512 + 128 * j) 64
def hDepVal (h : List Byte) (j : Nat) : Nat := hField h (576 + 128 * j) 64
/-- Selected logical cores, ascending. -/
def hCores (h : List Byte) : List Nat := (List.range 240).filter fun n => hField h (1024 + n) 1 = 1

/-- A header that R288 refuses. -/
def headerBad (h : List Byte) : Bool :=
  let nf := hNf h
  let used := (List.range 6).map fun k => if k < nf then hWidth h k else 0
  let sum := used.foldl (· + ·) 0
  hField h 1264 16 ≠ 0 || hCtl h 58 6 ≠ 0 || hEntry h % 4 ≠ 0 || hDone h % 8 ≠ 0 || nf = 0 || 6 < nf ||
  (List.range 6).any (fun k => if k < nf then hWidth h k = 0 || 64 < hWidth h k else hWidth h k ≠ 0) ||
  64 < sum || 2 ^ sum < hWcnt h || 4 < hNdep h ||
  (List.range 4).any (fun j => if j < hNdep h then hDepAddr h j % 8 ≠ 0 else hDepAddr h j ≠ 0 || hDepVal h j ≠ 0) ||
  hLate h = 3 || (hPeriod h ≠ 0 && hFire h = 0) || hCores h = []

/-! ## Launches in the table -/

def State.launch (s : State) (k : LaunchKey) : Option Launch := s.launches.find? fun l => l.key = k

def State.setLaunch (s : State) (l : Launch) : State :=
  { s with launches := s.launches.map fun m => if m.key = l.key then l else m }

def State.log (s : State) (die index : Nat) : Option Log := s.logs.find? fun l => l.die = die && l.index = index

def State.setLog (s : State) (l : Log) : State :=
  { s with logs := s.logs.map fun m => if m.die = l.die && m.index = l.index then l else m }

/-- A die's dispatcher; its values at reset for a die that does not exist. -/
def State.disp (s : State) (die : Nat) : Dispatcher := s.dispatchers.getD die {}

def State.setDisp (s : State) (die : Nat) (d : Dispatcher) : State := { s with dispatchers := s.dispatchers.set die d }

/-- The LAUNCH-FORM record of a slot (R288, R361). -/
def State.launchForm (s : State) (k : LaunchKey) (req : Word) (cause : Nat) : State :=
  let addr := ((s.log k.die k.log).map fun l => l.addr).getD 0
  s.notice { kind := .launchForm, detail := addr % 2 ^ 49 + 2 ^ 64 * k.slot + 2 ^ 128 * cause, req := req, unit := 0xF0 + k.die }

/-- Bytes that a dispatcher reads at a virtual address, 8 at a time; none of a tag window (R222). -/
def State.dispRead (s : State) (root : Word) : Nat → Word → Except FaultInfo (List Byte)
  | 0, _ => .ok []
  | n + 1, va =>
    match s.patient.probe root va .read true with
    | .error f => .error f
    | .ok p =>
      if s.inTagWindow p.pa then .error { kind := .memType, addr := va }
      else if s.slowPending p.pa then .error { kind := .poison, addr := va, waits := true }
      else match s.patient.farWait p.pa, s.poisonCheck p.pa va with
      | some f, _ => .error f
      | none, .error f => .error f
      | none, .ok _ =>
        match s.dispRead root n (va + 8) with
        | .error f => .error f
        | .ok bs => .ok (s.bytesAt p.pa 8 ++ bs)

/-- A dispatcher's access waits: for a port that takes no request now (R382, R384), or for the host (R380). -/
def dispWaits {α : Type} : Except FaultInfo α → Bool
  | .error f => f.waits
  | .ok _ => false

/-- The number of strands of a firing (R293). -/
def Launch.total (l : Launch) : Nat := if hWcnt l.header = 0 then (hCores l.header).length else hWcnt l.header

/-- Every strand of the firing has been placed and has ended (R289). -/
def Launch.drained (l : Launch) : Bool := l.places.length = l.total && l.ended = l.total

/-- Its place in the queues of a die. -/
def Launch.at_ (l : Launch) (die : Nat) : DieQueue := l.queues.getD die {}

/-- Changes its place in the queues of each die. -/
def Launch.mapQueues (l : Launch) (f : Nat → DieQueue → DieQueue) : Launch :=
  { l with queues := l.queues.zipIdx.map fun e => f e.2 e.1 }

/-- The launch enters queue MAP[PRIO] of every die, behind the others there (R292, R295). -/
def State.enqueue (s : State) (l : Launch) : State :=
  let (s, n) := s.fresh
  s.setLaunch { l with state := .queued, places := [], ended := 0, waiting := none,
                       queues := (List.range 4).map fun d =>
                         { base := (s.disp d).map.getD (hPrio l.header) 0, order := n, queuedAt := s.scc.toNat } }

/-- A launch whose dependences are satisfied (R289). -/
def State.passDeps (s : State) (l : Launch) : State :=
  if hFire l.header = 0 then s.enqueue l
  else s.setLaunch { l with state := .timed, firing := 0, due := hFire l.header, period := hPeriod l.header }

/-! ## Logs (R283 to R285, R288) -/

/-- LOG_REGISTER: BASE, N, ROOT and PRIV are latched. Firmware enters a record whose HEAD and FAILS stand in memory: the model goes
on from those, and HEAD is the first slot to accept (DESIGN CHOICE, log 122). -/
def execLogRegister (die index addr : Nat) (s : State) : Result :=
  firmwareStep (fun s =>
    let v := s.hwRead addr 64
    let n := bits v 320 32
    let base := bits v 0 64
    if 4 ≤ die || 32 ≤ index || addr % 64 ≠ 0 || bits v 353 159 ≠ 0 || n = 0 || base % 256 ≠ 0 then s
    else
      let l : Log := { die := die, index := index, addr := addr, base := BitVec.ofNat 64 base, n := n,
                       root := BitVec.ofNat 64 (bits v 256 64), priv := bits v 352 1 = 1, next := bits v 128 64,
                       head := bits v 128 64, fails := bits v 192 64 }
      let logs := s.logs.filter (fun m => !(m.die = die && m.index = index)) ++ [l]
      { s with logs := logs,
               controller := { s.controller with ready := (List.range 4).all fun d => logs.any fun m => m.die = d } }) s

/-- The launch of a slot as it stands after acceptance. -/
def Log.fresh (l : Log) (t : Nat) (h : List Byte) (hpa : Nat) (state : LaunchState) : Launch :=
  { key := ⟨l.die, l.index, t⟩, header := h, hva := l.base + BitVec.ofNat 64 (256 * (t % l.n)), hpa := hpa, root := l.root,
    priv := l.priv, state := state, deps := List.replicate (hNdep h) false, firing := 0, due := 0, period := 0, waiting := none,
    places := [], ended := 0, failed := state = .ending, saved := [], queues := List.replicate 4 {}, lastCore := none }

/-- The three parts of an ACCEPT series (R366). -/
def State.captureAccept (s : State) (l : Log) (t : Nat) (h : List Byte) : State :=
  let data := leBytes 8 t ++ h
  (List.range 3).foldl (fun s k =>
    s.appendCapture (.capture l.die) 2 l.addr k (0xF0 + l.die) 0 ((data.drop (104 * k)).take 104)) s

/-- A header read at acceptance, or none where the read faulted, becomes a launch (R288, R289). A header that could not be read
is captured as zeros (R366; log 111). -/
def State.acceptHeader (s : State) (l : Log) (t : Nat) (h : Option (List Byte)) : State :=
  let key : LaunchKey := ⟨l.die, l.index, t⟩
  let hva := l.base + BitVec.ofNat 64 (256 * (t % l.n))
  let hpa := match s.xlate l.root hva .read with | .ok x => x.pa | .error _ => 0
  let s := (s.setLog { l with next := t + 1 }).noteXlate l.root hva
  match h with
  | none =>
    let zeros := List.replicate 256 0
    let s := s.captureAccept l t zeros
    ({ s with launches := s.launches ++ [l.fresh t zeros hpa .ending] }).launchForm key 0 2
  | some h =>
    let s := s.captureAccept l t h
    if headerBad h then
      ({ s with launches := s.launches ++ [l.fresh t h hpa .ending] }).launchForm key (hReq h) 0
    else
      let n := l.fresh t h hpa .depwait
      let s := { s with launches := s.launches ++ [n] }
      if hNdep h = 0 then s.passDeps n else s

/-- The next ACCEPT series of a die, when it is this log's (R367): slot index, header, position after it. -/
def State.replayAccept (s : State) (l : Log) : Option (Nat × List Byte × Nat) :=
  match s.ring (.capture l.die) with
  | none => none
  | some g =>
    let test := fun (k v : Nat) => bits v 56 8 = 2 && bits v 52 4 = k
    let part := fun (k i : Nat) => s.replayFrom g (test k) (2 ^ g.lgn) i
    match s.replayNext g (2 * 65536 + l.die) (test 0) with
    | none => none
    | some (v, i) =>
      match part 1 i with
      | none => none
      | some (w, i) =>
        match part 2 i with
        | none => none
        | some (x, i) =>
          let data := leBytes 104 (bits v 192 832) ++ leBytes 104 (bits w 192 832) ++ leBytes 104 (bits x 192 832)
          if bits v 128 64 = l.addr then some (leNat (data.take 8), (data.drop 8).take 256, i) else none

/-- The header in a slot as the dispatcher reads it; none where the read faults (R285, R288). -/
def State.readSlot (s : State) (l : Log) (t : Nat) : Option (List Byte) :=
  match s.dispRead l.root 32 (l.base + BitVec.ofNat 64 (256 * (t % l.n))) with
  | .ok h => some h
  | .error _ => none

/-- LOG_SLOT_ACCEPT: the next slot below TAIL and within N of HEAD is read once (R284, R285). -/
def execLogSlotAccept (die index : Nat) (s : State) : Result :=
  match s.log die index with
  | none => .next s
  | some l =>
    if !s.firmware || s.dieHalted die then .next s
    else if s.replaying then
      match s.replayAccept l with
      | none => .next s
      | some (t, h, i) =>
        let h := if h = List.replicate 256 0 then s.readSlot l t else some h
        .next ({ s with replayAt := assocSet s.replayAt (2 * 65536 + die) i }.acceptHeader l t h)
    else if dispWaits (s.dispRead l.root 32 (l.base + BitVec.ofNat 64 (256 * (l.next % l.n)))) then .next s
    else if l.next < s.hwRead (l.addr + 8) 8 && l.next - l.head < l.n then .next (s.acceptHeader l l.next (s.readSlot l l.next))
    else .next s

/-- DEPENDENCE_SATISFIED: a read of the counter gives at least VAL; a satisfied dependence stays satisfied (R290). -/
def execDependenceSatisfied (k : LaunchKey) (j : Nat) (s : State) : Result :=
  match s.launch k with
  | none => .next s
  | some l =>
    if l.state ≠ .depwait || hNdep l.header ≤ j || l.deps.getD j false || s.dieHalted k.die then .next s
    else
      match s.dispRead l.root 1 (BitVec.ofNat 64 (hDepAddr l.header j)) with
      | .error f =>
        if f.waits then .next s
        else .next ((s.setLaunch { l with state := .ending, failed := true }).launchForm k (hReq l.header) 1)
      | .ok bs =>
        if leNat bs < hDepVal l.header j then .next s
        else
          let l := { l with deps := l.deps.set j true }
          let s := s.setLaunch l
          .next (if l.deps.all id then s.passDeps l else s)

/-! ## Firing (R326, R327, R329) -/

/-- A record of the dispatcher's ring, stamped with the tick (R333). -/
def State.dispTrace (s : State) (l : Launch) (code : Nat) (payload : Nat) : State :=
  s.appendTrace (.dispatcher l.key.die) (s.traceAt l.due (BitVec.ofNat 64 payload) code (0xF0 + l.key.die) (hReq l.header))

/-- A record stamped now. -/
def State.dispTraceNow (s : State) (l : Launch) (code payload : Nat) : State :=
  s.appendTrace (.dispatcher l.key.die) (s.traceNow (BitVec.ofNat 64 payload) code (0xF0 + l.key.die) 0 (hReq l.header))

/-- Sums of NGAP and NLATE over the windows of a firing, saturated (R333). -/
def State.firePayload (s : State) (l : Launch) : Nat :=
  let ws := s.windowsOf l.hpa
  let sum := fun (f : Window → Nat) => Nat.min 65535 (ws.foldl (fun a w => a + f w) 0)
  l.firing % 2 ^ 32 + 2 ^ 32 * sum (fun w => w.ngap) + 2 ^ 48 * sum (fun w => w.nlate)

/-- One 16-bit field for each window of a firing, the first the lowest (log 114). -/
def perWindow (ws : List Window) (f : Window → Nat) : Nat :=
  (ws.zipIdx.map fun e => f e.1 % 2 ^ 16 * 2 ^ (16 * e.2)).sum

/-- The FIRE capture record of a sealed firing (R366). -/
def State.captureFire (s : State) (l : Launch) (stamp : Word) : State :=
  let ws := s.windowsOf l.hpa
  s.appendCapture (.capture l.key.die) 3 l.hpa 0 (0xF0 + l.key.die) 0
    ([l.firing, l.due, stamp.toNat, perWindow ws (·.ngap), perWindow ws (·.nlate), perWindow ws (·.lh)].flatMap le8)

/-- A sealed firing is placed: it moves to QUEUED (R327). -/
def State.placeFiring (s : State) (l : Launch) : State :=
  let s := (s.seal l.hpa l.firing l.due l.period true)
  let s := (s.captureFire l s.ptpNs).dispTrace l 0x8002 (s.firePayload l)
  s.enqueue l

/-- PERIOD read from the slot again (R295). -/
def State.readPeriod (s : State) (l : Launch) : Option Nat :=
  match s.dispRead l.root 1 (l.hva + 40) with
  | .ok bs => some (leNat bs)
  | .error _ => none

/-- The read of PERIOD waits. -/
def State.periodWaits (s : State) (l : Launch) : Bool := dispWaits (s.dispRead l.root 1 (l.hva + 40))

/-- After a firing has retired or was held: the next firing, or the end (R295, R326). -/
def State.nextFiring (s : State) (l : Launch) : State :=
  match s.readPeriod l with
  | none => (s.setLaunch { l with state := .ending, failed := true, period := 0 }).launchForm l.key (hReq l.header) 3
  | some 0 => s.setLaunch { l with state := .ending, period := 0 }
  | some p => s.setLaunch { l with state := .timed, firing := l.firing + 1, due := l.due + p, period := p, waiting := none,
                                   places := [], ended := 0 }

/-- A firing is held: it is sealed without gaps and skipped (R327). -/
def State.holdFiring (s : State) (l : Launch) : State :=
  let s := s.seal l.hpa l.firing l.due l.period false
  ((s.captureFire l s.ptpNs).dispTrace l 0x8003 l.firing).nextFiring l

/-- Every window of the launch is complete at the tick (R327). -/
def State.windowsComplete (s : State) (l : Launch) : Bool := (s.windowsOf l.hpa).all fun w => w.complete l.due s.ptpNs.toNat

/-- k ticks are lost before a firing (R329). -/
def State.loseTicks (s : State) (l : Launch) (k : Nat) : State :=
  if k = 0 then s
  else
    ((s.windowsOf l.hpa).foldl (fun s w => s.showWindow { w with ovr := (w.ovr + k) % 2 ^ 32 }) s).dispTraceNow l 0x8004 k

/-- The latest due firing; ticks before it are lost (R329). -/
def State.overrun (s : State) (l : Launch) : State × Launch :=
  let k := if l.period = 0 then 0 else (s.ptpNs.toNat - l.due) / l.period
  if k = 0 then (s, l)
  else
    let l' := { l with firing := l.firing + k, due := l.due + k * l.period }
    ((s.loseTicks l k).setLaunch l', l')

/-- The end of the wait under WAIT (R327); with no further firing there is no t_(n+1). -/
def Launch.deadline (l : Launch) : Nat :=
  if l.period = 0 then l.due + hGrace l.header else Nat.min (l.due + hGrace l.header) (l.due + l.period)

/-- The evaluation of a due firing (R327). -/
def State.evaluate (s : State) (l : Launch) : State :=
  let complete := s.windowsComplete l
  if complete || hLate l.header = 1 then s.placeFiring l
  else if hLate l.header = 2 then (if s.periodWaits l then s else s.holdFiring l)
  else if l.deadline ≤ s.ptpNs.toNat then s.placeFiring l
  else s.setLaunch { l with waiting := some s.ptpNs.toNat }

/-- The sink controller's note of a captured record that it writes in a ring slot. -/
def Window.noteReplayed (w : Window) (addr v : Nat) : Window :=
  if w.slots ≤ addr && addr < w.slots + 64 * (w.streams * w.nslot) then
    w.settle ((addr - w.slots) / 64) (bits v 160 32) (bits v 138 1 = 1) 0
  else w

/-- The captured TOKEN records of a window up to an SCC count are written in place of the producers' (R367). -/
def State.replayTokens (s : State) (g : Ring) (w : Window) (scc : Nat) : Nat → State × Window
  | 0 => (s, w)
  | n + 1 =>
    let key := 4 * 65536 + w.index
    match s.replayNext g key fun v => bits v 56 8 = 4 && bits v 128 64 = w.index && bits v 64 64 ≤ scc with
    | none => (s, w)
    | some (v, i) =>
      let addr := bits v 704 64
      let s := s.sinkPut addr (leBytes 64 (bits v 192 512))
      { s with replayAt := assocSet s.replayAt key i }.replayTokens g (w.noteReplayed addr (bits v 192 512)) scc n

/-- The captured records of the windows of a firing. -/
def State.replayRecords (s : State) (l : Launch) (scc : Nat) : State :=
  match s.ring .captureHub with
  | none => s
  | some g =>
    (s.windowsOf l.hpa).foldl (fun s w =>
      let r := s.replayTokens g w scc (2 ^ g.lgn)
      r.1.setWindow r.2) s

/-- LIM and HEAD of every stream as a seal moves them. -/
def Window.advanceAll (w : Window) (l : Launch) : Window :=
  (List.range w.streams).foldl (fun w j => w.advance j l.due (l.due + l.period) l.period) w

/-- The window fields of a replayed seal, and the firing's next state (R327, R367). -/
def State.replaySeal (s : State) (l : Launch) (v : Nat) : State :=
  let field := fun (k i : Nat) => bits v (192 + 64 * k + 16 * i) 16
  let complete := (s.windowsOf l.hpa).all fun w => w.complete l.due (2 ^ 64)
  let ws := (s.windowsOf l.hpa).zipIdx
  if hLate l.header = 2 && !complete then
    let s := ws.foldl (fun s e =>
      let w := e.1.advanceAll l
      s.showWindow { w with holds := (w.holds + 1) % 2 ^ 32 }.trim) s
    (s.dispTrace l 0x8003 l.firing).nextFiring l
  else
    let s := ws.foldl (fun s e =>
      let w := e.1.advanceAll l
      s.showWindow { w with tick := l.due, fireno := l.firing, ngap := field 3 e.2, nlate := field 4 e.2, lh := field 5 e.2,
                            half := 1 - field 5 e.2, count := 0 }.trim) s
    (s.dispTrace l 0x8002 (s.firePayload l)).enqueue l

/-- The next FIRE record of a launch takes the place of the clock (R367). Ticks that it passes over were lost (R329). -/
def State.replayFiring (s : State) (l : Launch) : State :=
  match s.ring (.capture l.key.die) with
  | none => s
  | some g =>
    let pos := 3 * 65536 + l.key.die
    match s.replayNext g pos fun v => bits v 56 8 = 3 with
    | none => s
    | some (v, i) =>
      if bits v 128 64 ≠ l.hpa then s
      else
        let n := { l with firing := bits v 192 64, due := bits v 256 64 }
        let s := { s with replayAt := assocSet s.replayAt pos i }.loseTicks l (n.firing - l.firing)
        ((s.setLaunch n).replayRecords n (bits v 64 64)).replaySeal n v

/-- TICK_FIRING_DUE (R326, R327, R329). -/
def execTickFiringDue (k : LaunchKey) (s : State) : Result :=
  match s.launch k with
  | none => .next s
  | some l =>
    if l.state ≠ .timed || l.waiting.isSome || s.dieHalted k.die then .next s
    else if s.replaying then .next (s.replayFiring l)
    else if s.ptpNs.toNat < l.due then .next s
    else
      let (s, l) := s.overrun l
      .next (s.evaluate l)

/-- TICK_WAIT_DEADLINE: the windows are complete, or the deadline has come (R327). -/
def execTickWaitDeadline (k : LaunchKey) (s : State) : Result :=
  match s.launch k with
  | none => .next s
  | some l =>
    match l.waiting with
    | none => .next s
    | some since =>
      if s.dieHalted k.die || !(s.windowsComplete l || l.deadline ≤ s.ptpNs.toNat) then .next s
      else
        .next ((s.dispTrace l 0x8005 (s.ptpNs.toNat - since)).placeFiring l)

/-! ## Placement (R292 to R295) -/

def State.freeSlots (s : State) (core : Nat) : List Nat :=
  (List.range 4).filter fun k => (s.strandAt core k).isNone

/-- A strand can be placed on the physical core of a logical one. -/
def State.canTake (s : State) (logical : Nat) : Bool :=
  let c := s.physOf logical
  !(s.core c).disabled && !s.halted c && s.freeSlots c ≠ [] && s.grantable c ≠ []

/-- The group of a WID: every field but the innermost (R293). -/
def groupOf (h : List Byte) (wid : Nat) : Nat := if hNf h = 1 then 0 else wid / 2 ^ hWidth h (hNf h - 1)

/-- Cores in rotating order after the last one used. -/
def rotated (l : List Nat) (last : Option Nat) : List Nat :=
  match last with
  | none => l
  | some n => l.filter (fun c => n < c) ++ l.filter fun c => c ≤ n

/-- The next strand that a launch can place on a die: WID and logical core (R293, R294). With WCNT 0 each die's dispatcher places
the strands bound for its cores; else the next WID goes to the next core of the rotation over all of them (R292; log 112). -/
def State.nextPlace (s : State) (l : Launch) (die : Nat) : Option (Nat × Nat) :=
  let cores := hCores l.header
  let here := fun (c : Nat) => dieOf (s.physOf c) = die
  if hWcnt l.header = 0 then
    (cores.zipIdx.find? fun e => here e.1 && !l.places.any (fun p => p.1 = e.2) && s.canTake e.1).map fun e => (e.2, e.1)
  else
    let wid := l.places.length
    if hWcnt l.header ≤ wid then none
    else
      let able := (rotated cores l.lastCore).filter s.canTake
      let mates := l.places.filter fun p => groupOf l.header p.1 = groupOf l.header wid
      let near := able.filter fun c => mates.any fun p => clusterOf (s.physOf p.2) = clusterOf (s.physOf c)
      ((near ++ able).head?.filter here).map fun c => (wid, c)

/-- A launch with strands to place. -/
def Launch.placing (l : Launch) : Bool := (l.state = .queued || l.state = .running) && l.places.length < l.total

/-- Effective queue at a die (R295). -/
def State.effective (s : State) (die : Nat) (l : Launch) : Nat :=
  let q := l.at_ die
  let top := Nat.min (s.disp die).cap 6
  if top ≤ q.base then q.base else Nat.min (q.base + q.aged) top

/-- Levels gained on a die by the cycles spent waiting (R295). -/
def State.agedNow (s : State) (l : Launch) (die : Nat) : Nat := (s.scc.toNat - (l.at_ die).queuedAt) / (s.disp die).age

/-- Aging is brought up to now. -/
def State.ageAll (s : State) : State :=
  { s with launches := s.launches.map fun l =>
      if l.placing then l.mapQueues fun die q => { q with aged := s.agedNow l die } else l }

/-- QUEUE_AGING: AGE more cycles have passed on a die (R295). -/
def execQueueAging (k : LaunchKey) (s : State) : Result :=
  match s.launch k with
  | none => .next s
  | some l =>
    .next (if l.placing then
      s.setLaunch (l.mapQueues fun die q => if q.aged < s.agedNow l die then { q with aged := q.aged + 1 } else q)
    else s)

/-- The better of two launches: the higher queue, then the earlier arrival. -/
def State.ranks (s : State) (die : Nat) (a b : Launch) : Bool :=
  s.effective die b < s.effective die a || (s.effective die a = s.effective die b && (a.at_ die).order ≤ (b.at_ die).order)

/-- What a die's dispatcher places next: the first launch of the highest queue that can place a strand on this die. -/
def State.choosePlace (s : State) (die : Nat) : Option (Launch × Nat × Nat) :=
  let able := s.launches.filterMap fun l =>
    if l.placing then
      (s.nextPlace l die).map fun e => (l, e.1, e.2)
    else none
  able.foldl (fun best e =>
    match best with
    | none => some e
    | some b => if s.ranks die b.1 e.1 then some b else some e) none

/-- The grant g of R294. -/
def grantSize (f sl u : Nat) : Nat := Nat.max 1 (f / Nat.min u (Nat.min sl f))

/-- The strand as placed (R44). -/
def State.freshStrand (s : State) (l : Launch) (wid logical slot : Nat) (grant : BitVec 4) (serial : Nat) : Strand :=
  let h := l.header
  let vtype := setBits (setBits Strand.absent.ctl.vtype 2 2 (hVregs h)) 21 3 (hClr h)
  { Strand.absent with
    placed := true, core := s.physOf logical, slot := slot, logical := logical,
    x := (Vector.replicate 32 0).set 1 l.hva, pc := BitVec.ofNat 64 (hEntry h),
    ctl := { vtype := vtype, mvl := BitVec.ofNat 64 (mvlOf grant vtype) }, pendNreg := hVregs h,
    wid := BitVec.ofNat 64 wid, ptroot := l.root, priv := l.priv, cur := grant, recd := grant, launch := some l.key,
    req := hReq h, header := l.hva, serial := serial }

/-- Places one strand (R293, R294): the core's instruction cache and scan cache are invalidated (R76, R206), and invalidations
received are applied, as the dispatcher's reads are acquires (R225, R238). The launch moves behind the others of that die. -/
def State.placeStrand (s : State) (l : Launch) (wid logical : Nat) : State :=
  let core := s.physOf logical
  let free := s.grantable core
  let slots := s.freeSlots core
  let unplaced := if hWcnt l.header = 0 then 1 else l.total - l.places.length
  let grant := lowestGrant free (grantSize free.length slots.length unplaced)
  let (s, serial) := s.fresh
  let t := s.freshStrand l wid logical (slots.headD 0) grant serial
  let s := (s.setCore core { s.core core with icache := [], scans := [] }).applyInvals core
  let places := l.places ++ [(wid, logical)]
  let l := l.mapQueues fun die q => if die = dieOf core then { q with order := serial } else q
  let s := s.setLaunch { l with places := places, lastCore := some logical,
                                state := if places.length = l.total then .draining else .running }
  if s.me.placed then { s with strands := s.strands ++ [t] } else { s with me := t }

/-- STRAND_PLACE: one strand of the launch that ranks highest on a die. -/
def execStrandPlace (die : Nat) (s : State) : Result :=
  if s.dieHalted die then .next s
  else
    let s := (List.range 256).foldl (fun s c => if (s.core c).islandCmds = [] then s else s.applyWaiting c) s.ageAll
    match s.choosePlace die with
    | none => .next s
    | some (l, wid, c) => .next (s.placeStrand l wid c)

/-! ## Reclaiming (R296, R301) -/

/-- A reclaim or a mark stands on a core. -/
def State.coreClaimed (s : State) (core : Nat) : Bool := s.all.any fun t => t.core = core && (t.pend || t.mark)

/-- The queue that a strand's launch entered on its die. -/
def State.strandQueue (s : State) (t : Strand) : Option Nat :=
  match t.launch with
  | none => none
  | some k => (s.launch k).map fun l => (l.at_ (dieOf t.core)).base

/-- The order in which victims are picked: the lowest queue, the most slices, the lowest logical core, the lowest slot. -/
def victimBefore (a b : Nat × Strand) : Bool :=
  a.1 < b.1 || (a.1 = b.1 && (slicesOf b.2.recd < slicesOf a.2.recd || (slicesOf a.2.recd = slicesOf b.2.recd &&
    (a.2.logical < b.2.logical || (a.2.logical = b.2.logical && a.2.slot ≤ b.2.slot)))))

/-- The victim of a launch, if there is one (R296). -/
def State.victim (s : State) (l : Launch) : Option Strand :=
  let cores := (hCores l.header).map s.physOf
  let cands := s.all.filterMap fun t =>
    if !cores.contains t.core || s.coreClaimed t.core then none
    else
      match s.strandQueue t with
      | some q => if q < s.effective (dieOf t.core) l then some (q, t) else none
      | none => none
  (cands.foldl (fun best e =>
    match best with
    | none => some e
    | some b => if victimBefore b e then some b else some e) none).map (·.2)

/-- The k highest-numbered slices of a grant go (R301). -/
def dropHighest (g : BitVec 4) (k : Nat) : BitVec 4 :=
  let has := (List.range 4).filter fun n => g.getLsbD n
  lowestGrant has (has.length - k)

/-- A reclaim is recorded: LEFT starts at 20,000 (R301). -/
def State.recordReclaim (s : State) (t : Strand) : State :=
  s.setStrand { t with recd := dropHighest t.recd (slicesOf t.recd / 2), pend := true, left := 20000 }

/-- A strand is marked for saving, and the SAVE-MARK notice posted (R296, R361). -/
def State.markStrand (s : State) (t : Strand) : State :=
  (s.setStrand { t with mark := true }).notice
    { kind := .saveMark, detail := t.wid.toNat + 2 ^ 64 * t.logical + 2 ^ 72 * t.slot, req := t.req, unit := 0xF0 + dieOf t.core,
      slot := t.slot }

/-- RECLAIM_RECORD: a QUEUED launch that no core of its set can take (R296). -/
def execReclaimRecord (k : LaunchKey) (s : State) : Result :=
  match s.launch k with
  | none => .next s
  | some l =>
    let s := s.ageAll
    let l := (s.launch k).getD l
    if l.state ≠ .queued || s.dieHalted k.die || (hCores l.header).any s.canTake then .next s
    else
      match s.victim l with
      | none => .next s
      | some t =>
        .next (if 2 ≤ slicesOf t.recd && s.freeSlots t.core ≠ [] then s.recordReclaim t else s.markStrand t)

/-! ## Retirement (R291, R295) -/

/-- FIRING_RETIRE: the last strand of a firing has ended (R289, R295). -/
def execFiringRetire (k : LaunchKey) (s : State) : Result :=
  match s.launch k with
  | none => .next s
  | some l =>
    if l.state ≠ .draining || !l.drained || s.dieHalted k.die then .next s
    else if hFire l.header = 0 then .next (s.setLaunch { l with state := .ending })
    else if s.periodWaits l then .next s
    else .next (s.nextFiring l)

/-- DONE advances by one; none where the increment faults (R291). -/
def State.addDone (s : State) (l : Launch) : Option State :=
  let va := BitVec.ofNat 64 (hDone l.header)
  match s.patient.probe l.root va .write false with
  | .error _ => none
  | .ok p =>
    let (s, pa) := s.settle p.pa
    match s.poisonCheck pa va with
    | .error _ => none
    | .ok _ => some (s.performAtomic pa (full (leBytes 8 (s.oldAt pa 8 + 1))) {})

/-- The increment waits for a move of its line that can't commit yet (R255), for a module that can't be reached (R383), or for the
host (R380). -/
def State.doneWaits (s : State) (l : Launch) : Bool :=
  match s.patient.probe l.root (BitVec.ofNat 64 (hDone l.header)) .write false with
  | .error f => f.waits
  | .ok p =>
    let (s, pa) := s.settle p.pa
    s.tether pa = .inTransit || (match s.reachAtomic pa with | .ok _ => false | .error _ => true)

/-- HEAD advances past every retired slot (R291). -/
def State.advanceHead (s : State) (die index : Nat) : Nat → State
  | 0 => s
  | n + 1 =>
    match s.log die index with
    | none => s
    | some l =>
      match s.launch ⟨die, index, l.head⟩ with
      | none => s
      | some k =>
        if k.state ≠ .retired then s
        else
          let s := { s.setLog { l with head := l.head + 1 } with launches := s.launches.filter fun m => m.key ≠ k.key }
          (s.hwWrite (l.addr + 16) (leBytes 8 (l.head + 1))).advanceHead die index n

/-- One more failed launch of the log. -/
def State.addFails (s : State) (die index : Nat) : State :=
  match s.log die index with
  | none => s
  | some l => (s.setLog { l with fails := l.fails + 1 }).hwWrite (l.addr + 24) (leBytes 8 (l.fails + 1))

/-- LAUNCH_RETIRE: DONE or FAILS, then HEAD (R291). -/
def execLaunchRetire (k : LaunchKey) (s : State) : Result :=
  match s.launch k with
  | none => .next s
  | some l =>
    if l.state ≠ .ending || s.dieHalted k.die || (!l.failed && hDone l.header ≠ 0 && s.doneWaits l) then .next s
    else
      let s := s.setLaunch { l with state := .retired }
      let s := if l.failed then s.addFails k.die k.log
        else if hDone l.header = 0 then s
        else match s.addDone l with
          | some s => s
          | none => (s.addFails k.die k.log).launchForm k (hReq l.header) 4
      .next (s.advanceHead k.die k.log s.launches.length)

/-! ## What firmware sets (R295, R303) -/

/-- PRIORITY_MAP_WRITE. -/
def execPriorityMapWrite (die : Nat) (map : List Nat) (age cap : Nat) (s : State) : Result :=
  firmwareStep (fun s =>
    if 4 ≤ die || map.length ≠ 8 || map.any (fun q => 7 < q) || 7 < cap then s
    else s.setDisp die { s.disp die with map := map, age := age, cap := cap }) s

/-- SAVE_AREA_REGISTER: four images at a multiple of 4 KB (R303, R306). -/
def execSaveAreaRegister (logical addr : Nat) (s : State) : Result :=
  firmwareStep (fun s =>
    if 240 ≤ logical || addr % 4096 ≠ 0 then s
    else { s with saveAreas := assocSet s.saveAreas logical addr }) s

end Sys2Proof.Machine
end

