-- ==== Sys2Proof/Machine/Upkeep.lean ====
section
/-! DEFINITION. Upkeep of the HBM stacks (spec/25): row swapping, subarray refresh, patrol scrub, spare rows, soft errors, and
the rebinding of cores. None of it changes a value that a program reads, the poison of a lost line apart. -/
namespace Sys2Proof.Machine

/-- Banks of a stack, 64 of each of 16 dies; logical rows and spare rows of a bank (R368). -/
def bankCount : Nat := 1024
def rowCount : Nat := 98304
def spareCount : Nat := 32

def State.stack (s : State) (k : Nat) : Stack := (s.hbmStacks[k]?).getD {}

/-- Changes one stack; a stack that is not there stays away. -/
def State.onStack (s : State) (k : Nat) (f : Stack → Stack) : State :=
  match s.hbmStacks[k]? with
  | some u => { s with hbmStacks := s.hbmStacks.set k (f u) }
  | none => s

/-! ## The indirection table (R370, R371) -/

/-- The physical row of a logical row. -/
def Stack.phys (u : Stack) (bank row : Nat) : Nat :=
  match u.rows.find? fun e => e.1 = bank && e.2.1 = row with
  | some e => e.2.2
  | none => row

/-- Points a logical row at a physical row. -/
def Stack.point (u : Stack) (bank row phys : Nat) : Stack :=
  let others := u.rows.filter fun e => !(e.1 = bank && e.2.1 = row)
  { u with rows := if phys = row then others else (bank, row, phys) :: others }

/-- Activations counted for a logical row in this window. -/
def Stack.actsOf (u : Stack) (bank row : Nat) : Nat :=
  match u.acts.find? fun e => e.1 = bank && e.2.1 = row with
  | some e => e.2.2
  | none => 0

def Stack.dropActs (u : Stack) (bank row : Nat) : Stack :=
  { u with acts := u.acts.filter fun e => !(e.1 = bank && e.2.1 = row) }

/-- Counts one activation of a row. -/
def Stack.activate (u : Stack) (bank row : Nat) : Stack :=
  let n := u.actsOf bank row
  let u := u.dropActs bank row
  { u with acts := (bank, row, n + 1) :: u.acts }

/-- Accesses of a step activate rows; which address lies in which row is not stated, so which rows is free (log 26). -/
def State.countActs (s : State) : State :=
  { s with hbmStacks := (Config.activated s.free).foldl (fun us e =>
      match us[e.1]? with
      | some u => if e.2.1 < bankCount && e.2.2 < rowCount then us.set e.1 (u.activate e.2.1 e.2.2) else us
      | none => us) s.hbmStacks }

/-- A value held within limits. -/
def clamp (lo hi v : Nat) : Nat := Nat.max lo (Nat.min hi v)

/-- What SWAPTH acts as, and the patrol period in hours (R374). -/
def Stack.swapLimit (u : Stack) : Nat := clamp 256 4096 u.swapth
def Stack.scrubHours (u : Stack) : Nat := clamp 1 168 u.scrub

/-- A copy of this bank's buffer is in use (R370, R375). -/
def Stack.copying (u : Stack) (bank : Nat) : Bool :=
  u.swaps.any (fun e => e.1 = bank) || (match u.remap with | some r => r.1 = bank | none => false)

/-- The row drawn against another: any row of the bank but that one (R370, log 15). -/
def drawRow (free row : Nat) : Nat :=
  let d := Config.freeNat free % (rowCount - 1)
  if d < row then d else d + 1

/-- ROW_SWAP: the row has reached SWAPTH; the copy buffer takes both rows. -/
def execRowSwap (stack bank row : Nat) (s : State) : Result :=
  .next (s.onStack stack fun u =>
    if bank < bankCount && row < rowCount && u.swapLimit ≤ u.actsOf bank row && !u.copying bank then
      { u with swaps := (bank, row, drawRow s.free row) :: u.swaps }
    else u)

/-- A write into a physical row waits for a refresh of its subarray or of a neighbour (R372). A spare row lies in none. -/
def Stack.refreshBlocks (u : Stack) (bank phys : Nat) : Bool :=
  phys < rowCount && u.refresh.any fun r => r.1 = bank && phys / 1024 ≤ r.2 + 1 && r.2 ≤ phys / 1024 + 1

/-- ROW_SWAP_DONE: both rows are written back, their entries are exchanged, their counts restart. -/
def execRowSwapDone (stack bank : Nat) (s : State) : Result :=
  .next (s.onStack stack fun u =>
    match u.swaps.find? fun e => e.1 = bank with
    | none => u
    | some (_, a, b) =>
      let pa := u.phys bank a
      let pb := u.phys bank b
      if u.refreshBlocks bank pa || u.refreshBlocks bank pb then u
      else
        let u := ((u.point bank a pb).point bank b pa).dropActs bank a |>.dropActs bank b
        { u with swaps := u.swaps.filter fun e => e.1 ≠ bank })

/-- ACTIVATION_WINDOW: the counts restart. -/
def execActivationWindow (stack : Nat) (s : State) : Result := .next (s.onStack stack fun u => { u with acts := [] })

/-! ## Refresh and scrub (R372, R373) -/

/-- SUBARRAY_REFRESH. -/
def execSubarrayRefresh (stack bank sub : Nat) (s : State) : Result :=
  .next (s.onStack stack fun u =>
    if bank < bankCount && sub < 96 && !u.refresh.contains (bank, sub) then { u with refresh := (bank, sub) :: u.refresh } else u)

/-- SUBARRAY_REFRESH_END. -/
def execSubarrayRefreshEnd (stack bank sub : Nat) (s : State) : Result :=
  .next (s.onStack stack fun u => { u with refresh := u.refresh.filter fun r => r ≠ (bank, sub) })

/-- One more at a key. -/
def bump (l : List (Nat × Nat)) (k : Nat) : List (Nat × Nat) := assocSet l k (assocGet 0 l k + 1)

/-- PATROL_SCRUB of the line at an address of this stack: no trap. -/
def execPatrolScrub (stack line : Nat) (found : ScrubResult) (s : State) : Result :=
  if localRegion line = .hbm stack then
    let bank := Config.bankOf line % bankCount
    match found with
    | .clean => .next s
    | .corrected => .next (s.onStack stack fun u => { u with corrected := bump u.corrected bank })
    | .uncorrectable =>
      .next ((s.setPoison line true).onStack stack fun u => { u with uncorrectable := bump u.uncorrectable bank })
  else .next s

/-- SOFT_ERROR: an error that can't be corrected, in the data of a line whatever tier it lies in, or in the metadata of a line of
HBM (R347, R369). -/
def execSoftError (line : Nat) (metadata : Bool) (s : State) : Result :=
  .next (if !s.mapped line then s
    else if !metadata then s.setPoison line true
    else if s.hasTether line then s.setMeta line { s.meta_ line with tether := .bad }
    else s)

/-! ## Controls (R374, R375) -/

/-- THERMAL_HOT. -/
def execThermalHot (stack : Nat) (hot : Bool) (s : State) : Result := .next (s.onStack stack fun u => { u with hot := hot })

/-- UPKCTL as firmware reads it (R374). -/
def Stack.upkctl (u : Stack) : Word :=
  BitVec.ofNat 64 (u.swapth % 2 ^ 16 + 2 ^ 16 * (u.scrub % 2 ^ 16) + (if u.hot then 2 ^ 33 else 0))

/-- REMAPST as firmware reads it (R375). -/
def Stack.remapst (u : Stack) : Word :=
  BitVec.ofNat 64 (u.res % 4 + (if u.remap.isSome then 2 ^ 8 else 0) + 2 ^ 9 * (u.left % 64))

/-- UPKCTL_WRITE: ignored whole when RSV is not zero. -/
def execUpkctlWrite (stack : Nat) (v : Word) (s : State) : Result :=
  firmwareStep (fun s =>
    if bits v.toNat 34 30 ≠ 0 || bits v.toNat 32 1 ≠ 0 then s
    else s.onStack stack fun u =>
      { u with scrub := bits v.toNat 16 16, swapth := bits v.toNat 0 16 }) s

/-- Unused spare rows of a bank. -/
def Stack.sparesLeft (u : Stack) (bank : Nat) : Nat := spareCount - assocGet 0 u.spares bank

/-- REMAP: the command is checked; one that may run does (R375). -/
def execRemap (stack : Nat) (v : Word) (s : State) : Result :=
  firmwareStep (fun s => s.onStack stack fun u =>
    let bank := 64 * bits v.toNat 23 4 + bits v.toNat 17 6
    let row := bits v.toNat 0 17
    if u.remap.isSome then u
    else
      let u := { u with left := u.sparesLeft bank }
      if bits v.toNat 27 37 ≠ 0 then { u with res := 3 }
      else if rowCount ≤ row then { u with res := 2 }
      else if u.sparesLeft bank = 0 then { u with res := 1 }
      else { u with remap := some (bank, row) }) s

/-- REMAP_DONE: the entry names the next spare of the bank; not while a swap has the bank's buffer. -/
def execRemapDone (stack : Nat) (s : State) : Result :=
  .next (s.onStack stack fun u =>
    match u.remap with
    | none => u
    | some (bank, row) =>
      if u.swaps.any fun e => e.1 = bank then u
      else
        let used := assocGet 0 u.spares bank
        let u := u.point bank row (rowCount + used)
        { u with remap := none, res := 0, spares := assocSet u.spares bank (used + 1), left := spareCount - (used + 1) })

/-! ## Spare cores (R292, R376) -/

/-- A logical core is free to be rebound: no strand on it, and no unit of its physical core held. -/
def State.coreIdle (s : State) (logical : Nat) : Bool :=
  !s.all.any (fun t => t.logical = logical) && (s.core (s.physOf logical)).units.isEmpty

/-- CORE_REBIND: to a core of the same quad of clusters that is not retired and not bound; a core is retired while it is
not bound. -/
def execCoreRebind (r : Rebind) (s : State) : Result :=
  firmwareStep (fun s =>
    match r with
    | .bind logical phys =>
      if logical < 240 && phys < 256 && phys / 16 = s.physOf logical / 16 && s.coreIdle logical &&
          !(s.core phys).disabled && (s.logicalOf phys).isNone then
        { s with coreMap := assocSet s.coreMap logical phys }
      else s
    | .retire phys =>
      if phys < 256 && (s.logicalOf phys).isNone then s.setCore phys { s.core phys with disabled := true } else s) s

end Sys2Proof.Machine
end

