-- ==== Sys2Proof/Machine/Links.lean ====
section
/-! DEFINITION. The CXL port (R377 to R380), accesses from other modules (R338, R339), and the hawser ports (R381 to R385). -/
namespace Sys2Proof.Machine

def State.emit (s : State) (o : Output) : State := { s with out := s.out ++ [o] }

/-- An access of n bytes lies in one line of this module's HBM. -/
def hbmAccess (addr n : Nat) : Bool :=
  0 < n && addr % 128 + n ≤ 128 && match localRegion addr with | .hbm _ => true | _ => false

/-! ## Host accesses (R378, R379) -/

/-- Where a host access ends, or the fault it meets on the way: a tether fault, or REMOTE-DENIED on a hop to another module. -/
def State.hostTarget (s : State) (addr : Nat) (a : Acc) : Except FaultKind Resolved :=
  match s.resolve addr with
  | .error f => .error f.kind
  | .ok r =>
    match s.farTether r, s.refusing r a a with
    | some f, _ => .error f.kind
    | none, some _ => .error .remoteDenied
    | none, none => .ok r

/-- The uncorrectable-error status and the header log of the RAS capability. -/
def State.rasEvent (s : State) (addr : Nat) : State :=
  { s with rasStatus := true, rasLog := s.rasLog ++ [Config.hostAddress addr] }

/-- Lines that the host may cache from now on. -/
def State.trackLines (s : State) (ls : List Nat) : State :=
  { s with snoopFilter := (s.snoopFilter ++ ls.filter fun l => !s.snoopFilter.contains l).eraseDups }

/-- The request waits behind a port that swaps a lane or has no room, or behind a write to the same line (R382, R384): its turn
has not come (log 11). -/
def State.hostDelayed (s : State) (pa : Nat) : Bool :=
  s.slowPending pa || match s.farWait pa with | some f => f.waits && !s.silent pa | none => false

/-- HOST_MEM_READ of n bytes of one line of HBM. The bytes that come with a tether fault are free (log 27). -/
def execHostMemRead (addr n : Nat) (s : State) : Result :=
  if !hbmAccess addr n then .next s
  else
    match s.hostTarget addr .read with
    | .error _ =>
      .next ((s.rasEvent addr).emit (.hostData ((List.range n).map fun j => Config.freeByte (256 * s.free + j)) true))
    | .ok r =>
      if s.hostDelayed r.pa then .next s
      else
      let bad := s.badLine r.pa || s.silent r.pa
      let s := s.trackLines ((addr :: r.via ++ [r.pa]).map lineOf)
      .next ((if bad then s.rasEvent addr else s).emit (.hostData (s.bytesAt r.pa n) bad))

/-- HOST_MEM_WRITE of the bytes of one line of HBM: performed under R141, or discarded; its completion is sent once it is
performed (R379), later than this step where it is held at a port. -/
def execHostMemWrite (addr : Nat) (data : List Byte) (s : State) : Result :=
  if !hbmAccess addr data.length then .next s
  else
    match s.hostTarget addr .write with
    | .error _ => .next ((s.rasEvent addr).emit .hostWritten)
    | .ok r =>
      let s := if s.badLine r.pa then s.rasEvent addr else s
      let s := { s with snoopFilter := s.snoopFilter.filter fun l => l ≠ lineOf r.pa }
      .next (s.sendNow r.pa (full data) (decide (data.length = 128)) { path := hostPath, via := r.via })

/-- The first waiting store, at the head of its queue, whose chain ends where a test says: the store leaves. -/
def State.releaseStore (s : State) (p : Nat → Bool) : Option State :=
  s.cores.findSome? fun e =>
    match e.2.sbuf.head? with
    | some x => if p (s.follow x.pa) then some (s.drainOldest e.1) else none
    | none => none

/-- The same for the store queues of the path units, in the order that holds there (R143). -/
def State.releaseVector (s : State) (p : Nat → Bool) : Option State :=
  s.cores.findSome? fun e =>
    (List.range 5).findSome? fun path =>
      match s.nextStore e.1 path with
      | some (x, rest) =>
        if p (s.follow x.pa) then some ((s.setCore e.1 { e.2 with squeue := rest }).leave e.1 x rest) else none
      | none => none

/-- One waiting device write to such a place is performed. -/
def State.releaseWrite (s : State) (p : Nat → Bool) : State :=
  match s.releaseStore p with
  | some t => t
  | none => (s.releaseVector p).getD s

/-- BACK_INVALIDATE_DONE: the snoop of a line completes and the device write that waited for it is performed. -/
def execBackInvalidateDone (line : Nat) (s : State) : Result :=
  let l := lineOf line
  if s.snoopFilter.contains l then .next ((s.snoop l).releaseWrite fun pa => lineOf pa = l) else .next s

/-! ## The slow tier (R340, R380) -/

def isSlow (pa : Nat) : Bool := localRegion pa = .slow

/-- Addresses that the scalar word at the program counter may read: x[a] with and without its immediate, and x[b]. -/
def State.scalarAddrs (s : State) : List Word :=
  match s.fetch s.me.core s.me.ptroot s.me.pc 4 with
  | .error _ => []
  | .ok n =>
    let a := s.me.xget (BitVec.ofNat 5 (bits n 16 5))
    [a + (BitVec.ofNat 16 (bits n 0 16)).signExtend 64, a, s.me.xget (BitVec.ofNat 5 (bits n 11 5))]

/-- The first of them whose access ends where a test says. -/
def State.scalarReads (s : State) (p : Nat → Bool) : Option Nat :=
  s.scalarAddrs.findSome? fun va =>
    match s.probe s.me.ptroot va .read true with
    | .ok r => if p r.pa then some r.pa else none
    | .error _ => none

/-- The 64 bytes of the slow tier that the host answers for: those that the executing strand's scalar word reads, or where
it reads none, any 64 bytes, those of some other agent's request (log 17). -/
def State.slowChunk (s : State) : Nat :=
  match s.scalarReads isSlow with
  | some pa => pa / 64 * 64
  | none => slowBase + 64 * (Config.freeNat s.free % 2 ^ 35)

/-- Poison that the CXL port reports stands until one word or command writes the whole line (R340, R347). -/
def State.reportPoison (s : State) (pa : Nat) (poison : Bool) : State := if poison then s.setPoison pa true else s

/-- The host's global observation of the oldest write sent, which is performed (R380). -/
def State.observed (s : State) (poison : Bool) : State :=
  match s.portHeld.find? fun w => w.module_ = slowModule with
  | none => s
  | some w =>
    (State.performAt { s with portHeld := s.portHeld.erase w } w.addr w.bytes w.heal w.origin).reportPoison w.addr poison

/-- SLOW_TIER_RESPONSE: without data, the global observation of a write; with 64 bytes, what the host holds. Either may carry
poison. -/
def execSlowTierResponse (poison : Bool) (data : List Byte) (s : State) : Result :=
  if data = [] then .next (s.observed poison)
  else if data.length ≠ 64 then .next s
  else .next (((s.putBytes s.slowChunk data).dropStream (lineOf s.slowChunk)).reportPoison s.slowChunk poison)

/-! ## Accesses from other modules (R338, R339) -/

/-- Bytes of the export table. -/
def exportBytes : Nat := 393216 * 16

/-- RDM and WRM of the entry that covers an address, as the hub of this module reads them; none while no table is
registered, or where the entry can't be read. -/
def State.exportEntry (s : State) (addr : Nat) : Option (Nat × Nat) :=
  if s.exportBase = 0 then none
  else
    match s.resolve (s.exportBase + 16 * ((addr - hbmBase) / 2097152)) with
    | .error _ => none
    | .ok r => if (s.farTether r).isSome || s.badLine r.pa || s.silent r.pa then none else some (s.natAt r.pa 8, s.natAt (r.pa + 8) 8)

/-- The access of module m is admitted: WRM, or for a read RDM or WRM. -/
def State.admits (s : State) (m addr : Nat) (write : Bool) : Bool :=
  match s.exportEntry addr with
  | none => false
  | some (rdm, wrm) => wrm.testBit m || (!write && rdm.testBit m)

def remoteSize : RemoteKind → Nat
  | .read n => n
  | .write d => d.length
  | .atomic _ n _ _ => n
  | .move _ => 128

def remoteWrites : RemoteKind → Bool
  | .read _ => false
  | _ => true

/-- A write of another module to a line: checked by the module that owns the line, and never where that is the writer (R338). -/
def State.mayWrite (s : State) (source line : Nat) : Bool :=
  match s.region line with
  | .hbm _ => s.admits source line true
  | .remote m => m = source || s.admitted line .write
  | _ => true

/-- The destination line of another module's move: as this module addresses it, in the map, with no tether followed. -/
def State.moveTarget (s : State) (source dest : Nat) : Except FaultKind Nat :=
  let d := lineOf (s.canon dest)
  if !s.mapped d then .error .physRange
  else if s.onChip d then .error .moveRefused
  else if !s.mayWrite source d then .error .remoteDenied
  else .ok d

/-- A move that another module asks for: L in transit and D held, or the fault it meets (R155, R254, R259). It is answered when it
commits. -/
def State.remoteMove (s : State) (source pa dest : Nat) (via : List Nat) : State :=
  let (s, pa) := s.settle pa
  let l := lineOf pa
  if !s.hasTether l then s.emit (.remoteFault source .moveRefused)
  else
    match s.moveTarget source dest with
    | .error f => s.emit (.remoteFault source f)
    | .ok d =>
      if s.destTaken l d [] then s.emit (.remoteFault source .tetherState)
      else
        let s := s.setMeta l { s.meta_ l with tether := .inTransit }
        { s with moves := s.moves ++ [{ line := l, dest := d, colour := 0, owner := ⟨0, source, 0⟩, via := via, path := farPath }] }

/-- An admitted access at the line where its chain ends. A write is answered when it is performed. -/
def State.remotePerform (s : State) (r : RemoteReq) (t : Resolved) : State :=
  match r.kind with
  | .read n =>
    if s.badLine t.pa || s.silent t.pa then s.emit (.remoteFault r.source .poison)
    else s.emit (.remoteData r.source (s.bytesAt t.pa n) false)
  | .write d => s.sendNow t.pa (full d) (decide (d.length = 128)) { path := farPath, slot := r.source, via := t.via }
  | .atomic aop n b expected =>
    let (s, pa) := s.settle t.pa
    if s.badLine pa then s.emit (.remoteFault r.source .poison)
    else
      let old := s.oldAt pa n
      let t := match amoNew aop n old (b % 256 ^ n) (expected % 256 ^ n) with
        | some v => s.performAtomic pa (full (leBytes n v)) {}
        | none => s
      t.emit (.remoteData r.source (leBytes n old) false)
  | .move dest => s.remoteMove r.source t.pa dest t.via

/-- A write of that module to that line is held (R255). -/
def State.remoteHeld (s : State) (source pa : Nat) : Bool :=
  s.heldWrites.any fun h => h.line = lineOf pa && h.entry.path = farPath && h.entry.slot = source

/-- The access waits behind a port, or a write on its way to the slow tier; a read also behind a write of its module that is held at
the line (R255; log 18); an atomic until its module can be reached (R383); an atomic and a move until the line is in transit no more
(R155, R255). -/
def State.remoteDelayed (s : State) (r : RemoteReq) (t : Resolved) : Bool :=
  let (u, pa) := s.settle t.pa
  match r.kind with
  | .read _ => s.hostDelayed t.pa || s.remoteHeld r.source t.pa
  | .atomic _ _ _ _ => u.tether pa = .inTransit || (match u.reachAtomic pa with | .ok _ => false | .error _ => true)
  | .move _ => u.tether pa = .inTransit
  | .write _ => false

/-- REMOTE_ACCESS_ARRIVAL: a tether fault, then the check of the export table, then the access (R338). -/
def execRemoteAccessArrival (r : RemoteReq) (s : State) : Result :=
  if 64 ≤ r.source || r.source = s.moduleNo || !hbmAccess r.addr (remoteSize r.kind) then .next s
  else
    match s.resolve r.addr with
    | .error f => .next (s.emit (.remoteFault r.source f.kind))
    | .ok t =>
      let a : Acc := if remoteWrites r.kind then .write else .read
      match s.farTether t with
      | some f => .next (s.emit (.remoteFault r.source f.kind))
      | none =>
        if !s.admits r.source r.addr (remoteWrites r.kind) || (s.refusing t a a).isSome then
          .next (s.emit (.remoteFault r.source .remoteDenied))
        else if s.remoteDelayed r t then .next s
        else .next (s.remotePerform r t)

/-- EXPORT_TABLE_REGISTER: the base lies in this module's HBM with the whole table. -/
def execExportTableRegister (addr : Nat) (s : State) : Result :=
  firmwareStep (fun s =>
    if hbmBase ≤ addr && addr + exportBytes ≤ hbmBase + 8 * hbmSpan then { s with exportBase := addr } else s) s

/-! ## Flits (R381, R382) -/

def State.port (s : State) (k : Nat) : Port := (s.ports[k]?).getD {}

/-- Changes one port; one that is not there stays away. -/
def State.onPort (s : State) (k : Nat) (f : Port → Port) : State :=
  match s.ports[k]? with
  | some p => { s with ports := s.ports.set k (f p) }
  | none => s

def flitSeq (f : List Byte) : Nat := leNat (f.take 2) % 4096
def flitAck (f : List Byte) : Nat := leNat ((f.drop 2).take 2) % 4096

/-- A flit with its sequence number, acknowledgement and CRC around TYPE and PAYLOAD. -/
def makeFlit (seq ack : Nat) (body : List Byte) : List Byte :=
  let h := leBytes 2 seq ++ leBytes 2 ack ++ (padTo 244 body).take 244
  h ++ leBytes 8 (Config.crc64 h).toNat

/-- A port may send: the link is up, no lane is being swapped, and the replay buffer has room. -/
def Port.maySend (p : Port) : Bool := p.up && !p.rpr && p.unacked.length < 512

/-- The PTP clock's 96 bits (R318). -/
def State.ptp (s : State) : BitVec 96 := s.ptpNs ++ s.ptpFrac

/-- A flit that holds the first byte of an event message is stamped as it crosses the port (R320, R381). -/
def Port.stamp (p : Port) (sent : Bool) (f : List Byte) (t : BitVec 96) : Port :=
  if Config.eventFlit f then { p with stamps := (sent, t) :: p.stamps } else p

/-- Sends a flit and keeps it for replay. A port in time-source mode sends PTP messages only (R320). -/
def State.sendFlit (s : State) (k : Nat) : State :=
  let p := s.port k
  if k < 8 && p.maySend then
    let body := if p.tsrc then Config.ptpBody (8 * s.free + k) else Config.flitBody (8 * s.free + k)
    let f := makeFlit p.txSeq ((p.rxSeq + 4095) % 4096) body
    (s.onPort k fun p =>
      { p.stamp true f s.ptp with txSeq := (p.txSeq + 1) % 4096, unacked := p.unacked ++ [f] }).emit (.flit k f)
  else s

/-- Flits that a step sends: what is packed into a flit, and when, is free (log 18). -/
def State.sendFlits (s : State) : State :=
  let t := (Config.flitsSent s.free).foldl (fun s k => s.sendFlit k) s
  { s with ports := t.ports, out := t.out }

/-- An acknowledgement frees every flit up to it. -/
def Port.acknowledge (p : Port) (ack : Nat) : Port :=
  match p.unacked.findIdx? fun f => flitSeq f = ack with
  | some n => { p with unacked := p.unacked.drop (n + 1),
                       again := p.again.filter fun q => !(p.unacked.take (n + 1)).any fun f => flitSeq f = q }
  | none => p

/-- Writes held for modules whose route takes requests now go on in order (R383), to where their chains end by now (R139). -/
def State.flushHeld (s : State) : State :=
  let ready := fun (w : PortWrite) => w.module_ ≠ slowModule && s.portReady w.module_
  (s.portHeld.filter ready).foldl (fun s w => s.arriveAt w.addr w.bytes w.heal w.origin)
    { s with portHeld := s.portHeld.filter fun w => !ready w }

/-- Cycles in 1 ms (R384). -/
def laneWindow : Nat := 1050000

/-- A flit that fails its CRC: it and every later one are discarded until the resend. Its lane's error counts for 1 ms. -/
def Port.reject (p : Port) (f : List Byte) (scc : Nat) : Port :=
  { p with nak := true, crcn := Nat.min (p.crcn + 1) 65535,
           laneErrs := (Config.badLane f % 16, scc) :: p.laneErrs.filter fun e => scc < e.2 + laneWindow }

/-- Errors of a lane within 1 ms (R384). -/
def Port.errors (p : Port) (lane scc : Nat) : Nat := (p.laneErrs.filter fun e => e.1 = lane && scc < e.2 + laneWindow).length

/-- Step 3 of R384: once every flit sent is acknowledged, but for a replayed one that failed and is retried afterwards, the swap
begins. -/
def Port.beginSwap (p : Port) : Port :=
  match p.repair with
  | some lane =>
    if p.rpr && (p.unacked = [] || p.resend.isSome) then { p with repair := none, spare := p.spare - 1, bad := lane } else p
  | none => p

/-- Steps 1 and 2 of R384: once no replay is outstanding the port quiesces for its repair. -/
def Port.quiesce (p : Port) : Port := if p.repair.isSome && !p.nak then Port.beginSwap { p with rpr := true } else p

/-- FLIT_RECEIVE. What the messages of a flit ask for arrives as steps of its own. -/
def execFlitReceive (port : Nat) (flit : List Byte) (s : State) : Result :=
  let p := s.port port
  if 8 ≤ port || !p.up || flit.length ≠ 256 then .next s
  else if leNat (flit.drop 248) ≠ (Config.crc64 (flit.take 248)).toNat then
    .next ((s.onPort port fun p => p.reject flit s.scc.toNat).emit (.nak port p.rxSeq))
  else if flitSeq flit ≠ p.rxSeq then .next s
  else
    .next (s.onPort port fun p =>
      Port.quiesce { (p.acknowledge (flitAck flit)).stamp false flit s.ptp with
                     rxSeq := (p.rxSeq + 1) % 4096, nak := false }).flushHeld

/-- One flit crosses the port again (R320, R382). -/
def State.resendFlit (s : State) (k : Nat) (f : List Byte) : State :=
  (s.onPort k fun p => { p.stamp true f s.ptp with again := flitSeq f :: p.again.filter (· ≠ flitSeq f) }).emit (.flit k f)

/-- The flits from a sequence number on, again. -/
def State.resend (s : State) (k seq : Nat) : State :=
  ((s.port k).unacked.dropWhile fun f => flitSeq f ≠ seq).foldl (fun s f => s.resendFlit k f) s

/-- FLIT_REPLAY: at once; of a flit that was sent again and failed while a repair runs, after the swap (R384). -/
def execFlitReplay (port seq : Nat) (s : State) : Result :=
  let p := s.port port
  let q := seq % 4096
  if 8 ≤ port || !p.up then .next s
  else if p.rpr && (p.repair = none || p.again.contains q) then
    .next (s.onPort port fun p => Port.beginSwap { p with resend := some q })
  else .next (s.resend port q)

/-! ## Lane repair (R384) -/

/-- LANE_REPAIR: a lane with 16 errors within 1 ms, or the lane that firmware names: the port quiesces, after the replay that is
outstanding. Where no spare is left it narrows. -/
def execLaneRepair (port lane : Nat) (s : State) : Result :=
  .next (s.onPort port fun p =>
    let p' := { p with laneErrs := p.laneErrs.filter fun e => e.1 ≠ lane }
    if !p.up || p.rpr || p.repair.isSome || 16 ≤ lane || !(s.firmware || 16 ≤ p.errors lane s.scc.toNat) then p
    else if p.spare = 0 then { p' with nar := true }
    else Port.quiesce { p' with repair := some lane })

/-- LANE_REPAIR_DONE: the swap ends and the port resumes; a flit that failed meanwhile is sent again, and held writes go on. -/
def execLaneRepairDone (port : Nat) (s : State) : Result :=
  let p := s.port port
  if 8 ≤ port || !p.rpr || p.repair.isSome then .next s
  else
    let s := s.onPort port fun p => { p with rpr := false, resend := none }
    .next (match p.resend with | some q => s.resend port q | none => s).flushHeld

/-! ## The domain (R383, R385) -/

/-- A read that waited for a module may go on: its time starts again. -/
def State.linkBack (s : State) : State := (s.flushHeld).mapStrands fun t => { t with timedOut := false }

/-- HAWSER_LINK_TRAINED: no port trains until an image runs (R386). -/
def execHawserLinkTrained (port : Nat) (s : State) : Result :=
  firmwareStep (fun s => (s.onPort port fun p => { p with up := true }).linkBack) s

/-- HAWSER_LINK_LOST. -/
def execHawserLinkLost (port : Nat) (s : State) : Result := .next (s.onPort port fun p => { p with up := false })

/-- LINK_BRING_UP: module numbers, the routing table, ports in time-source mode and the peers of the others. -/
def execLinkBringUp (cfg : LinkConfig) (s : State) : Result :=
  firmwareStep (fun s =>
    if 64 ≤ cfg.number then s
    else
      let ports := s.ports.zipIdx.map fun e =>
        let t := cfg.timeSource.contains e.2
        { e.1 with tsrc := t, peer := if t then 0 else assocGet 0 cfg.peers e.2 % 64 }
      { s with moduleNo := cfg.number, routes := cfg.routes.filter (fun r => r.1 < 64 && r.2 < 8), ports := ports,
               lost := [] }.linkBack) s

/-- The next convoy waits for a module that can't be reached. -/
def State.convoyAwaits (s : State) : Bool :=
  match s.headConvoy with
  | .error _ => false
  | .ok (t, ws) =>
    match runWords t.vctx 0 ws t, runWords t.vctx 0 ws t.patient with
    | .error (.wait _, _), .error (.fault f, _) => !f.waits
    | .error (.fault f, _), .error (.fault g, _) => f.waits && !g.waits
    | .error (.fault f, _), _ => f.waits
    | _, _ => false

/-- An access by a virtual address that waits in its walk (R383). -/
def State.walkAwaits (s : State) (va : Word) (a : Acc) : Bool :=
  match s.probe s.me.ptroot va a true, s.patient.probe s.me.ptroot va a true with
  | .error f, .error g => f.waits && !g.waits
  | .error f, .ok _ => f.waits
  | _, _ => false

/-- The fetch of a word waits for a module that can't be reached. -/
def State.fetchAwaits (s : State) (va : Word) : Bool :=
  s.walkAwaits va .fetch || match s.probe s.me.ptroot va .fetch true with | .ok p => s.silent p.pa | .error _ => false

/-- A read of the strand waits for a module that can't be reached. -/
def State.awaitsRemote (s : State) : Bool :=
  s.me.placed && s.me.held = .no &&
    ((s.scalarReads s.silent).isSome || s.fetchAwaits s.me.pc || s.scalarAddrs.any (fun va => s.walkAwaits va .read) ||
      (s.me.queue ≠ [] && (s.fetchAwaits s.vctx.addr || s.convoyAwaits)))

/-- REMOTE_READ_TIMEOUT: 100 microseconds have passed; the read raises POISON when it is issued again. -/
def execRemoteReadTimeout (core slot : Nat) (s : State) : Result :=
  .next (s.onStrand core slot fun s =>
    if s.me.core = core && s.me.slot = slot && s.awaitsRemote then { s with me := { s.me with timedOut := true } } else s)

/-- MODULE_LOST: held writes are discarded, and later ones. -/
def execModuleLost (m : Nat) (s : State) : Result :=
  firmwareStep (fun s =>
    if 64 ≤ m || m = s.moduleNo then s
    else
      let gone := s.portHeld.filter fun w => w.module_ = m
      gone.foldl (fun s w => s.answer w.origin)
        { s with lost := m :: s.lost.filter (· ≠ m), portHeld := s.portHeld.filter fun w => w.module_ ≠ m }) s

/-- The status register of a port (R385). -/
def Port.status (p : Port) : Word :=
  let b := fun (c : Bool) => if c then 1 else 0
  BitVec.ofNat 64 (b p.up + 2 * b p.tsrc + 16 * b p.nar + 32 * b p.rpr + 64 * (p.spare % 4) + 256 * (p.bad % 256) +
    65536 * (p.crcn % 65536) + 2 ^ 32 * (p.peer % 64))

/-- PORT_STATUS_READ: reading clears CRCN. -/
def execPortStatusRead (port : Nat) (s : State) : Result :=
  firmwareStep (fun s =>
    if port < 8 then (s.onPort port fun p => { p with crcn := 0 }).emit (.portStatus (s.port port).status) else s) s

end Sys2Proof.Machine
end

