-- ==== Sys2Proof/Machine/Boot.lean ====
section
/-! DEFINITION. Reset, the firmware image, attestation, the rollback counter, and the levels of islands (spec/27). -/
namespace Sys2Proof.Machine

/-! ## Reset (R386, R393) -/

/-- Outside the module: what a reset of the module leaves. -/
def outside (pa : Nat) : Bool := slowBase ≤ pa

/-- RESET: everything is cleared but the fused counter and what lies outside the module. -/
def execReset (s : State) : Result :=
  .next { State.reset with
    mem := s.mem.filter (fun p => outside p.1), lines := s.lines.filter (fun p => outside p.1), rollback := s.rollback,
    out := s.out, agenda := s.agenda, free := s.free, nextSerial := s.nextSerial }

/-! ## The mailbox (R387) -/

def State.setController (s : State) (c : Controller) : State := { s with controller := c }

/-- A command that arrives while a check runs, or after an image runs, is turned away; else it is done. -/
def mailbox (f : State → State) (s : State) : Result :=
  if s.controller.checking.isSome then .next (s.emit .busy)
  else if s.firmware then .next (s.emit .unsupported)
  else .next (f s)

/-- IMG_CHUNK: at most 1 MB. -/
def execImgChunk (off : Nat) (data : List Byte) (s : State) : Result :=
  mailbox (fun s =>
    if 1048576 < data.length then s.emit .unsupported
    else (s.setController { s.controller with staging := imgPut s.controller.staging off data }).emit .success) s

/-- IMG_COMMIT: the check begins. -/
def execImgCommit (len : Nat) (s : State) : Result :=
  mailbox (fun s => s.setController { s.controller with checking := some len }) s

/-! ## The check (R388) -/

def rsaBytes : Nat := 384
def slhBytes : Nat := 16224
def bodyMax : Nat := 16777216

/-- A field of the staged header. -/
def Controller.head (c : Controller) (o n : Nat) : Nat := imgNat c.staging o n

/-- The SVN of the staged image. -/
def Controller.svn (c : Controller) : Nat := c.head 16 4

/-- MAGIC, VER, the body length against the committed length, and the zero bytes. -/
def Controller.headerOk (c : Controller) (len : Nat) : Bool :=
  let body := c.head 8 8
  c.head 0 4 = 0x4D525253 && c.head 4 4 = 1 && 0 < body && body ≤ bodyMax && len = 64 + body + rsaBytes + slhBytes &&
    c.head 20 44 = 0

/-- Header and body, as the signatures cover them. -/
def Controller.signed (c : Controller) (len : Nat) : List Byte := imgBytes c.staging 0 (len - rsaBytes - slhBytes)

def Controller.rsaOk (c : Controller) (len : Nat) : Bool :=
  Config.rsaValid (c.signed len) (imgBytes c.staging (len - rsaBytes - slhBytes) rsaBytes)

def Controller.slhOk (c : Controller) (len : Nat) : Bool :=
  Config.slhValid (c.signed len) (imgBytes c.staging (len - slhBytes) slhBytes)

/-- The status word: bit 0 RSA, bit 1 SLH-DSA, bit 2 header or rollback; 0 lets the image run. -/
def State.checkStatus (s : State) (len : Nat) : Nat :=
  let c := s.controller
  (if c.rsaOk len then 0 else 1) + (if c.slhOk len then 0 else 2) +
    (if c.headerOk len && s.rollback ≤ c.svn then 0 else 4)

/-! ## Attestation (R390) -/

/-- The enabled-core map and the spares in use: a bit for each physical core that is not retired, and the physical core of
each logical one. -/
def State.coreReport (s : State) : List Byte :=
  leBytes 32 ((List.range 256).foldl (fun a c => a + (if (s.core c).disabled then 0 else 2 ^ c)) 0) ++
  (List.range 240).map fun l => BitVec.ofNat 8 (s.physOf l)

/-- The hash and SVN of the running image, or the name of the boot ROM. -/
def State.imageReport (s : State) : List Byte :=
  match s.controller.image with
  | some (bs, svn) => Config.sha384 bs ++ leBytes 4 svn
  | none => Config.bootRomName

/-- The report's contents in the order of R390, with both signatures. -/
def State.attestReport (s : State) (nonce : List Byte) : Output :=
  let body := nonce ++ s.imageReport ++ (List.range 16).map Config.deviceId ++ s.coreReport ++ leBytes 8 s.scc.toNat
  .report body (Config.attestSign (0 :: s.imageReport) body) (Config.attestSign (1 :: s.imageReport) body)

/-- ATTEST with a nonce of 32 bytes: after the check, if one runs. -/
def execAttest (nonce : List Byte) (s : State) : Result :=
  if nonce.length ≠ 32 then .next s
  else if s.controller.checking.isSome then
    .next (s.setController { s.controller with attests := s.controller.attests ++ [nonce] })
  else .next (s.emit (s.attestReport nonce))

/-- IMAGE_CHECK_DONE: the image runs, or the staging buffer is cleared; then the ATTESTs that waited are answered. -/
def execImageCheckDone (s : State) : Result :=
  match s.controller.checking with
  | none => .next s
  | some len =>
    let c := s.controller
    let waiting := c.attests
    let status := s.checkStatus len
    let s :=
      if status = 0 then
        (s.setController { c with checking := none, attests := [], image := some (imgBytes c.staging 0 len, c.svn) }).emit .success
      else
        (s.setController { c with checking := none, attests := [], staging := [] }).emit (.invalidInput status)
    .next (waiting.foldl (fun s n => s.emit (s.attestReport n)) s)

/-- ROLLBACK_ADVANCE: by the running image, up to its own SVN, never down (R388). -/
def execRollbackAdvance (v : Nat) (s : State) : Result :=
  match s.controller.image with
  | none => .next s
  | some (_, svn) => .next (if s.rollback ≤ v && v ≤ svn && v < 256 then { s with rollback := v } else s)

/-! ## Islands (R392) -/

/-- ISLAND_LEVEL_APPLY: at once to a slice that holds no lanes, else when it is free. -/
def execIslandLevelApply (core slice level : Nat) (s : State) : Result :=
  firmwareStep (fun s =>
    if 256 ≤ core || 4 ≤ slice || 4 ≤ level then s
    else if (s.freeSlices core).contains slice then s.applyLevel core slice level
    else
      let c := s.core core
      s.setCore core { c with islandCmds := c.islandCmds.filter (fun e => e.1 ≠ slice) ++ [(slice, level)] }) s

end Sys2Proof.Machine
end

