-- ==== Sys2Proof/Machine/Integer.lean ====
section
/-! DEFINITION. The ALU family (R92) and the immediate arithmetic (R93). No word here faults. -/
namespace Sys2Proof.Machine

/-! ## Results -/

/-- 1 or 0. -/
def ofBool64 (b : Bool) : Word := if b then 1 else 0

/-- MULH: the high half of the signed product. -/
def mulHigh (a b : Word) : Word := BitVec.ofInt 64 (a.toInt * b.toInt / 2 ^ 64)

/-- MULH.N. -/
def mulHighN (a b : Word) : Word := BitVec.ofNat 64 (a.toNat * b.toNat / 2 ^ 64)

/-- DIV: by zero it saturates toward the sign of the dividend; -2^63 by -1 saturates; else toward zero. -/
def divSigned (a b : Word) : Word :=
  if b = 0 then
    if a = 0 then 0 else if a.toInt < 0 then BitVec.intMin 64 else BitVec.intMax 64
  else BitVec.ofInt 64 (sat (a.toInt.tdiv b.toInt) (-(2 ^ 63)) (2 ^ 63 - 1))

/-- REM: 0 by zero and for -2^63 by -1; else with the sign of the dividend. -/
def remSigned (a b : Word) : Word := if b = 0 then 0 else BitVec.ofInt 64 (a.toInt.tmod b.toInt)

/-- DIV.N: by zero it saturates. -/
def divNatural (a b : Word) : Word := if b = 0 then (if a = 0 then 0 else allOnes) else a / b

/-- REM.N. -/
def remNatural (a b : Word) : Word := if b = 0 then 0 else a % b

/-- CLZ: 64 for 0. -/
def countLeading (a : Word) : Word := if a = 0 then 64 else BitVec.ofNat 64 (63 - Nat.log2 a.toNat)

/-- Trailing zero bits of a value below 2^n; n if it is 0. -/
def trailing : Nat → Nat → Nat
  | 0, _ => 0
  | n + 1, v => if v % 2 = 1 then 0 else trailing n (v / 2) + 1

/-- CTZ: 64 for 0. -/
def countTrailing (a : Word) : Word := BitVec.ofNat 64 (trailing 64 a.toNat)

/-! ## The ALU family (R92) -/

/-- ADD. -/
def execAdd (d a b : Reg) (s : State) : Result := scalarWrite [a, b] d (fun s => s.xget a + s.xget b) s

/-- SUB. -/
def execSub (d a b : Reg) (s : State) : Result := scalarWrite [a, b] d (fun s => s.xget a - s.xget b) s

/-- AND. -/
def execAnd (d a b : Reg) (s : State) : Result := scalarWrite [a, b] d (fun s => s.xget a &&& s.xget b) s

/-- OR. -/
def execOr (d a b : Reg) (s : State) : Result := scalarWrite [a, b] d (fun s => s.xget a ||| s.xget b) s

/-- XOR. -/
def execXor (d a b : Reg) (s : State) : Result := scalarWrite [a, b] d (fun s => s.xget a ^^^ s.xget b) s

/-- ANDN. -/
def execAndn (d a b : Reg) (s : State) : Result := scalarWrite [a, b] d (fun s => s.xget a &&& ~~~(s.xget b)) s

/-- SLL. -/
def execSll (d a b : Reg) (s : State) : Result := scalarWrite [a, b] d (fun s => s.xget a <<< (s.xget b &&& 63)) s

/-- SRL. -/
def execSrl (d a b : Reg) (s : State) : Result := scalarWrite [a, b] d (fun s => s.xget a >>> (s.xget b &&& 63)) s

/-- SRA. -/
def execSra (d a b : Reg) (s : State) : Result := scalarWrite [a, b] d (fun s => (s.xget a).sshiftRight (s.xget b &&& 63).toNat) s

/-- SLT. -/
def execSlt (d a b : Reg) (s : State) : Result := scalarWrite [a, b] d (fun s => ofBool64 ((s.xget a).slt (s.xget b))) s

/-- SLT.N. -/
def execSltN (d a b : Reg) (s : State) : Result := scalarWrite [a, b] d (fun s => ofBool64 ((s.xget a).ult (s.xget b))) s

/-- MIN. -/
def execMin (d a b : Reg) (s : State) : Result := scalarWrite [a, b] d (fun s => if (s.xget b).slt (s.xget a) then s.xget b else s.xget a) s

/-- MAX. -/
def execMax (d a b : Reg) (s : State) : Result := scalarWrite [a, b] d (fun s => if (s.xget a).slt (s.xget b) then s.xget b else s.xget a) s

/-- MIN.N. -/
def execMinN (d a b : Reg) (s : State) : Result := scalarWrite [a, b] d (fun s => if (s.xget b).ult (s.xget a) then s.xget b else s.xget a) s

/-- MAX.N. -/
def execMaxN (d a b : Reg) (s : State) : Result := scalarWrite [a, b] d (fun s => if (s.xget a).ult (s.xget b) then s.xget b else s.xget a) s

/-- MUL. -/
def execMul (d a b : Reg) (s : State) : Result := scalarWrite [a, b] d (fun s => s.xget a * s.xget b) s

/-- MULH. -/
def execMulh (d a b : Reg) (s : State) : Result := scalarWrite [a, b] d (fun s => mulHigh (s.xget a) (s.xget b)) s

/-- MULH.N. -/
def execMulhN (d a b : Reg) (s : State) : Result := scalarWrite [a, b] d (fun s => mulHighN (s.xget a) (s.xget b)) s

/-- DIV. -/
def execDiv (d a b : Reg) (s : State) : Result := scalarWrite [a, b] d (fun s => divSigned (s.xget a) (s.xget b)) s

/-- DIV.N. -/
def execDivN (d a b : Reg) (s : State) : Result := scalarWrite [a, b] d (fun s => divNatural (s.xget a) (s.xget b)) s

/-- REM. -/
def execRem (d a b : Reg) (s : State) : Result := scalarWrite [a, b] d (fun s => remSigned (s.xget a) (s.xget b)) s

/-- REM.N. -/
def execRemN (d a b : Reg) (s : State) : Result := scalarWrite [a, b] d (fun s => remNatural (s.xget a) (s.xget b)) s

/-- CLZ. -/
def execClz (d a : Reg) (s : State) : Result := scalarWrite [a] d (fun s => countLeading (s.xget a)) s

/-- CTZ. -/
def execCtz (d a : Reg) (s : State) : Result := scalarWrite [a] d (fun s => countTrailing (s.xget a)) s

/-- POPC. -/
def execPopc (d a : Reg) (s : State) : Result := scalarWrite [a] d (fun s => BitVec.ofNat 64 (popc 64 (s.xget a).toNat)) s

/-! ## Immediates (R93) -/

/-- ADDI. -/
def execAddi (d a : Reg) (i : BitVec 16) (s : State) : Result := scalarWrite [a] d (fun s => s.xget a + sx16 i) s

/-- ANDI. -/
def execAndi (d a : Reg) (i : BitVec 16) (s : State) : Result := scalarWrite [a] d (fun s => s.xget a &&& zx16 i) s

/-- ORI. -/
def execOri (d a : Reg) (i : BitVec 16) (s : State) : Result := scalarWrite [a] d (fun s => s.xget a ||| zx16 i) s

/-- XORI. -/
def execXori (d a : Reg) (i : BitVec 16) (s : State) : Result := scalarWrite [a] d (fun s => s.xget a ^^^ zx16 i) s

/-- SLTI. -/
def execSlti (d a : Reg) (i : BitVec 16) (s : State) : Result := scalarWrite [a] d (fun s => ofBool64 ((s.xget a).slt (sx16 i))) s

/-- SLTI.N. -/
def execSltiN (d a : Reg) (i : BitVec 16) (s : State) : Result := scalarWrite [a] d (fun s => ofBool64 ((s.xget a).ult (zx16 i))) s

/-- SLLI. -/
def execSlli (d a : Reg) (k : BitVec 6) (s : State) : Result := scalarWrite [a] d (fun s => s.xget a <<< k) s

/-- SRLI. -/
def execSrli (d a : Reg) (k : BitVec 6) (s : State) : Result := scalarWrite [a] d (fun s => s.xget a >>> k) s

/-- SRAI. -/
def execSrai (d a : Reg) (k : BitVec 6) (s : State) : Result := scalarWrite [a] d (fun s => (s.xget a).sshiftRight k.toNat) s

/-- LUI. -/
def execLui (d : Reg) (i : BitVec 16) (s : State) : Result := scalarWrite [] d (fun _ => sx16 i * 65536) s

/-- ADDPC: from the address of the word. -/
def execAddpc (d : Reg) (i : BitVec 16) (s : State) : Result := scalarWrite [] d (fun s => s.me.pc + sx16 i) s

end Sys2Proof.Machine
end

