-- ==== Sys2Proof/Machine/Dispatch.lean ====
section
/-! DEFINITION. One arm for each row of the opcode table: the meaning of the instruction or event. -/
namespace Sys2Proof.Machine

/-- What an instruction does, or an event. -/
def exec (i : Instr) (s : State) : Host.Outcome State Fault Refusal :=
  match i with
  | .add d a b => Sys2Proof.Machine.execAdd d a b s
  | .sub d a b => Sys2Proof.Machine.execSub d a b s
  | .and d a b => Sys2Proof.Machine.execAnd d a b s
  | .or d a b => Sys2Proof.Machine.execOr d a b s
  | .xor d a b => Sys2Proof.Machine.execXor d a b s
  | .andn d a b => Sys2Proof.Machine.execAndn d a b s
  | .sll d a b => Sys2Proof.Machine.execSll d a b s
  | .srl d a b => Sys2Proof.Machine.execSrl d a b s
  | .sra d a b => Sys2Proof.Machine.execSra d a b s
  | .slt d a b => Sys2Proof.Machine.execSlt d a b s
  | .sltN d a b => Sys2Proof.Machine.execSltN d a b s
  | .min d a b => Sys2Proof.Machine.execMin d a b s
  | .max d a b => Sys2Proof.Machine.execMax d a b s
  | .minN d a b => Sys2Proof.Machine.execMinN d a b s
  | .maxN d a b => Sys2Proof.Machine.execMaxN d a b s
  | .mul d a b => Sys2Proof.Machine.execMul d a b s
  | .mulh d a b => Sys2Proof.Machine.execMulh d a b s
  | .mulhN d a b => Sys2Proof.Machine.execMulhN d a b s
  | .div d a b => Sys2Proof.Machine.execDiv d a b s
  | .divN d a b => Sys2Proof.Machine.execDivN d a b s
  | .rem d a b => Sys2Proof.Machine.execRem d a b s
  | .remN d a b => Sys2Proof.Machine.execRemN d a b s
  | .clz d a => Sys2Proof.Machine.execClz d a s
  | .ctz d a => Sys2Proof.Machine.execCtz d a s
  | .popc d a => Sys2Proof.Machine.execPopc d a s
  | .addi d a i1 => Sys2Proof.Machine.execAddi d a i1 s
  | .andi d a i1 => Sys2Proof.Machine.execAndi d a i1 s
  | .ori d a i1 => Sys2Proof.Machine.execOri d a i1 s
  | .xori d a i1 => Sys2Proof.Machine.execXori d a i1 s
  | .slli d a s1 => Sys2Proof.Machine.execSlli d a s1 s
  | .srli d a s1 => Sys2Proof.Machine.execSrli d a s1 s
  | .srai d a s1 => Sys2Proof.Machine.execSrai d a s1 s
  | .slti d a i1 => Sys2Proof.Machine.execSlti d a i1 s
  | .sltiN d a i1 => Sys2Proof.Machine.execSltiN d a i1 s
  | .lui d i1 => Sys2Proof.Machine.execLui d i1 s
  | .addpc d i1 => Sys2Proof.Machine.execAddpc d i1 s
  | .ldI64 d a i1 => Sys2Proof.Machine.execLdI64 d a i1 s
  | .ldI8 d a i1 => Sys2Proof.Machine.execLdI8 d a i1 s
  | .ldN8 d a i1 => Sys2Proof.Machine.execLdN8 d a i1 s
  | .ldI16 d a i1 => Sys2Proof.Machine.execLdI16 d a i1 s
  | .ldN16 d a i1 => Sys2Proof.Machine.execLdN16 d a i1 s
  | .ldI32 d a i1 => Sys2Proof.Machine.execLdI32 d a i1 s
  | .ldN32 d a i1 => Sys2Proof.Machine.execLdN32 d a i1 s
  | .stI8 s1 a i1 => Sys2Proof.Machine.execStI8 s1 a i1 s
  | .stI16 s1 a i1 => Sys2Proof.Machine.execStI16 s1 a i1 s
  | .stI32 s1 a i1 => Sys2Proof.Machine.execStI32 s1 a i1 s
  | .stI64 s1 a i1 => Sys2Proof.Machine.execStI64 s1 a i1 s
  | .amoswap d a b w q l c => Sys2Proof.Machine.execAmoswap d a b w q l c s
  | .amoadd d a b w q l c => Sys2Proof.Machine.execAmoadd d a b w q l c s
  | .amoand d a b w q l c => Sys2Proof.Machine.execAmoand d a b w q l c s
  | .amoor d a b w q l c => Sys2Proof.Machine.execAmoor d a b w q l c s
  | .amoxor d a b w q l c => Sys2Proof.Machine.execAmoxor d a b w q l c s
  | .amomin d a b w q l c => Sys2Proof.Machine.execAmomin d a b w q l c s
  | .amomax d a b w q l c => Sys2Proof.Machine.execAmomax d a b w q l c s
  | .amominN d a b w q l c => Sys2Proof.Machine.execAmominN d a b w q l c s
  | .amomaxN d a b w q l c => Sys2Proof.Machine.execAmomaxN d a b w q l c s
  | .amocas d a b w q l c => Sys2Proof.Machine.execAmocas d a b w q l c s
  | .addrEq d a b => Sys2Proof.Machine.execAddrEq d a b s
  | .claim d a b => Sys2Proof.Machine.execClaim d a b s
  | .fsv => Sys2Proof.Machine.execFsv s
  | .fvs => Sys2Proof.Machine.execFvs s
  | .fvv => Sys2Proof.Machine.execFvv s
  | .fenceC s1 m => Sys2Proof.Machine.execFenceC s1 m s
  | .fenceX s1 a b => Sys2Proof.Machine.execFenceX s1 a b s
  | .beq a b o => Sys2Proof.Machine.execBeq a b o s
  | .bne a b o => Sys2Proof.Machine.execBne a b o s
  | .blt a b o => Sys2Proof.Machine.execBlt a b o s
  | .bltN a b o => Sys2Proof.Machine.execBltN a b o s
  | .bge a b o => Sys2Proof.Machine.execBge a b o s
  | .bgeN a b o => Sys2Proof.Machine.execBgeN a b o s
  | .jal d o => Sys2Proof.Machine.execJal d o s
  | .jalr d a i1 => Sys2Proof.Machine.execJalr d a i1 s
  | .setvl d a e => Sys2Proof.Machine.execSetvl d a e s
  | .vconf n => Sys2Proof.Machine.execVconf n s
  | .strip a b o => Sys2Proof.Machine.execStrip a b o s
  | .vwhile a b o => Sys2Proof.Machine.execVwhile a b o s
  | .vfetch o => Sys2Proof.Machine.execVfetch o s
  | .tmove a b => Sys2Proof.Machine.execTmove a b s
  | .trel a => Sys2Proof.Machine.execTrel a s
  | .trelZ a => Sys2Proof.Machine.execTrelZ a s
  | .exit => Sys2Proof.Machine.execExit s
  | .barrier d s1 => Sys2Proof.Machine.execBarrier d s1 s
  | .launch d a b => Sys2Proof.Machine.execLaunch d a b s
  | .colstart d a => Sys2Proof.Machine.execColstart d a s
  | .colwait d a => Sys2Proof.Machine.execColwait d a s
  | .timerd d c => Sys2Proof.Machine.execTimerd d c s
  | .tickwait d a => Sys2Proof.Machine.execTickwait d a s
  | .trace a b => Sys2Proof.Machine.execTrace a b s
  | .stopat d a s1 => Sys2Proof.Machine.execStopat d a s1 s
  | .brform d a => Sys2Proof.Machine.execBrform d a s
  | .brwait d => Sys2Proof.Machine.execBrwait d s
  | .brleave => Sys2Proof.Machine.execBrleave s
  | .xunfold a => Sys2Proof.Machine.execXunfold a s
  | .xtrans a => Sys2Proof.Machine.execXtrans a s
  | .ixclr => Sys2Proof.Machine.execIxclr s
  | .trap a c => Sys2Proof.Machine.execTrap a c s
  | .ctxsave d a b => Sys2Proof.Machine.execCtxsave d a b s
  | .ctxload a b => Sys2Proof.Machine.execCtxload a b s
  | .tlbinv a b => Sys2Proof.Machine.execTlbinv a b s
  | .tlbinva b => Sys2Proof.Machine.execTlbinva b s
  | .tret a b => Sys2Proof.Machine.execTret a b s
  | .crrd d s1 => Sys2Proof.Machine.execCrrd d s1 s
  | .crwr a s1 => Sys2Proof.Machine.execCrwr a s1 s
  | .vstop => Sys2Proof.Machine.execVstop s
  | .vfadd w => Sys2Proof.Machine.execVfadd w s
  | .vfsub w => Sys2Proof.Machine.execVfsub w s
  | .vfmul w => Sys2Proof.Machine.execVfmul w s
  | .vfdiv w => Sys2Proof.Machine.execVfdiv w s
  | .vfsqrt w => Sys2Proof.Machine.execVfsqrt w s
  | .vfma w => Sys2Proof.Machine.execVfma w s
  | .vfms w => Sys2Proof.Machine.execVfms w s
  | .vfnma w => Sys2Proof.Machine.execVfnma w s
  | .vfnms w => Sys2Proof.Machine.execVfnms w s
  | .vfmin w => Sys2Proof.Machine.execVfmin w s
  | .vfmax w => Sys2Proof.Machine.execVfmax w s
  | .vfsgnj w => Sys2Proof.Machine.execVfsgnj w s
  | .vfsgnjn w => Sys2Proof.Machine.execVfsgnjn w s
  | .vfsgnjx w => Sys2Proof.Machine.execVfsgnjx w s
  | .vfclass w => Sys2Proof.Machine.execVfclass w s
  | .vfrece w => Sys2Proof.Machine.execVfrece w s
  | .vfrsqe w => Sys2Proof.Machine.execVfrsqe w s
  | .vadd w => Sys2Proof.Machine.execVadd w s
  | .vsub w => Sys2Proof.Machine.execVsub w s
  | .vrsub w => Sys2Proof.Machine.execVrsub w s
  | .vmul w => Sys2Proof.Machine.execVmul w s
  | .vmulh w => Sys2Proof.Machine.execVmulh w s
  | .vdiv w => Sys2Proof.Machine.execVdiv w s
  | .vrem w => Sys2Proof.Machine.execVrem w s
  | .vmin w => Sys2Proof.Machine.execVmin w s
  | .vmax w => Sys2Proof.Machine.execVmax w s
  | .vand w => Sys2Proof.Machine.execVand w s
  | .vor w => Sys2Proof.Machine.execVor w s
  | .vxor w => Sys2Proof.Machine.execVxor w s
  | .vsll w => Sys2Proof.Machine.execVsll w s
  | .vsrl w => Sys2Proof.Machine.execVsrl w s
  | .vsra w => Sys2Proof.Machine.execVsra w s
  | .vmadd w => Sys2Proof.Machine.execVmadd w s
  | .vadds w => Sys2Proof.Machine.execVadds w s
  | .vsubs w => Sys2Proof.Machine.execVsubs w s
  | .vmuls w => Sys2Proof.Machine.execVmuls w s
  | .vabs w => Sys2Proof.Machine.execVabs w s
  | .vclz w => Sys2Proof.Machine.execVclz w s
  | .vpopc w => Sys2Proof.Machine.execVpopc w s
  | .vaddm w => Sys2Proof.Machine.execVaddm w s
  | .vsubm w => Sys2Proof.Machine.execVsubm w s
  | .vmulm w => Sys2Proof.Machine.execVmulm w s
  | .vavg w => Sys2Proof.Machine.execVavg w s
  | .vcmp w => Sys2Proof.Machine.execVcmp w s
  | .vmerge w => Sys2Proof.Machine.execVmerge w s
  | .vmv w => Sys2Proof.Machine.execVmv w s
  | .vsplat w => Sys2Proof.Machine.execVsplat w s
  | .vsplatImm w => Sys2Proof.Machine.execVsplatImm w s
  | .vcvt w => Sys2Proof.Machine.execVcvt w s
  | .vunpack w => Sys2Proof.Machine.execVunpack w s
  | .vid w => Sys2Proof.Machine.execVid w s
  | .vmand w => Sys2Proof.Machine.execVmand w s
  | .vmor w => Sys2Proof.Machine.execVmor w s
  | .vmxor w => Sys2Proof.Machine.execVmxor w s
  | .vmandn w => Sys2Proof.Machine.execVmandn w s
  | .vext w => Sys2Proof.Machine.execVext w s
  | .vredsum w => Sys2Proof.Machine.execVredsum w s
  | .vredmin w => Sys2Proof.Machine.execVredmin w s
  | .vredmax w => Sys2Proof.Machine.execVredmax w s
  | .vredand w => Sys2Proof.Machine.execVredand w s
  | .vredor w => Sys2Proof.Machine.execVredor w s
  | .vredxor w => Sys2Proof.Machine.execVredxor w s
  | .vfredsum w => Sys2Proof.Machine.execVfredsum w s
  | .vfredmin w => Sys2Proof.Machine.execVfredmin w s
  | .vfredmax w => Sys2Proof.Machine.execVfredmax w s
  | .vmpop w => Sys2Proof.Machine.execVmpop w s
  | .vmfirst w => Sys2Proof.Machine.execVmfirst w s
  | .viota w => Sys2Proof.Machine.execViota w s
  | .vcompress w => Sys2Proof.Machine.execVcompress w s
  | .vexpand w => Sys2Proof.Machine.execVexpand w s
  | .vlut w => Sys2Proof.Machine.execVlut w s
  | .vperm w => Sys2Proof.Machine.execVperm w s
  | .vslup w => Sys2Proof.Machine.execVslup w s
  | .vsldn w => Sys2Proof.Machine.execVsldn w s
  | .vroute w => Sys2Proof.Machine.execVroute w s
  | .ixins w => Sys2Proof.Machine.execIxins w s
  | .ixlook w => Sys2Proof.Machine.execIxlook w s
  | .ixacc w => Sys2Proof.Machine.execIxacc w s
  | .ixdrain w => Sys2Proof.Machine.execIxdrain w s
  | .vld w => Sys2Proof.Machine.execVld w s
  | .vst w => Sys2Proof.Machine.execVst w s
  | .vlds w => Sys2Proof.Machine.execVlds w s
  | .vsts w => Sys2Proof.Machine.execVsts w s
  | .vldseg w => Sys2Proof.Machine.execVldseg w s
  | .vstseg w => Sys2Proof.Machine.execVstseg w s
  | .vldx w => Sys2Proof.Machine.execVldx w s
  | .vldxb w => Sys2Proof.Machine.execVldxb w s
  | .vstx w => Sys2Proof.Machine.execVstx w s
  | .vskein w => Sys2Proof.Machine.execVskein w s
  | .vskeinUnbind w => Sys2Proof.Machine.execVskeinUnbind w s
  | .vldk w => Sys2Proof.Machine.execVldk w s
  | .vamoswap w => Sys2Proof.Machine.execVamoswap w s
  | .vamoadd w => Sys2Proof.Machine.execVamoadd w s
  | .vamoand w => Sys2Proof.Machine.execVamoand w s
  | .vamoor w => Sys2Proof.Machine.execVamoor w s
  | .vamoxor w => Sys2Proof.Machine.execVamoxor w s
  | .vamomin w => Sys2Proof.Machine.execVamomin w s
  | .vamomax w => Sys2Proof.Machine.execVamomax w s
  | .vamocas w => Sys2Proof.Machine.execVamocas w s
  | .vwait w => Sys2Proof.Machine.execVwait w s
  | .vpgalloc w => Sys2Proof.Machine.execVpgalloc w s
  | .vstk w => Sys2Proof.Machine.execVstk w s
  | .vtmove w => Sys2Proof.Machine.execVtmove w s
  | .vaddrEq w => Sys2Proof.Machine.execVaddrEq w s
  | .topadd w => Sys2Proof.Machine.execTopadd w s
  | .topsub w => Sys2Proof.Machine.execTopsub w s
  | .topsld w => Sys2Proof.Machine.execTopsld w s
  | .brtopadd w => Sys2Proof.Machine.execBrtopadd w s
  | .tld w => Sys2Proof.Machine.execTld w s
  | .tst w => Sys2Proof.Machine.execTst w s
  | .tfill w => Sys2Proof.Machine.execTfill w s
  | .trdrow w => Sys2Proof.Machine.execTrdrow w s
  | .trdcol w => Sys2Proof.Machine.execTrdcol w s
  | .twrrow w => Sys2Proof.Machine.execTwrrow w s
  | .sdsort w => Sys2Proof.Machine.execSdsort w s
  | .ptld w => Sys2Proof.Machine.execPtld w s
  | .ptst w => Sys2Proof.Machine.execPtst w s
  | .sdscan w => Sys2Proof.Machine.execSdscan w s
  | .sdscanMem w => Sys2Proof.Machine.execSdscanMem w s
  | .sddot w => Sys2Proof.Machine.execSddot w s
  | .sdfin w => Sys2Proof.Machine.execSdfin w s
  | .sld w => Sys2Proof.Machine.execSld w s
  | .sst w => Sys2Proof.Machine.execSst w s
  | .semv w => Sys2Proof.Machine.execSemv w s
  | .storeBufferDrain core => Sys2Proof.Machine.execStoreBufferDrain core s
  | .moveCommit line => Sys2Proof.Machine.execMoveCommit line s
  | .tetherReleaseDone line => Sys2Proof.Machine.execTetherReleaseDone line s
  | .barrierComplete key scope unit => Sys2Proof.Machine.execBarrierComplete key scope unit s
  | .tickwaitWake core slot => Sys2Proof.Machine.execTickwaitWake core slot s
  | .stopatHalt scope unit => Sys2Proof.Machine.execStopatHalt scope unit s
  | .haltRelease scope unit => Sys2Proof.Machine.execHaltRelease scope unit s
  | .unitsWrite v => Sys2Proof.Machine.execUnitsWrite v s
  | .captureWrite firmware => Sys2Proof.Machine.execCaptureWrite firmware s
  | .convoyIssue => Sys2Proof.Machine.execConvoyIssue s
  | .convoyRetire => Sys2Proof.Machine.execConvoyRetire s
  | .earlyWorkStart => Sys2Proof.Machine.execEarlyWorkStart s
  | .readAhead v lines => Sys2Proof.Machine.execReadAhead v lines s
  | .vwaitSatisfied => Sys2Proof.Machine.execVwaitSatisfied s
  | .stackGatherRun k => Sys2Proof.Machine.execStackGatherRun k s
  | .braidEpochOpen cluster => Sys2Proof.Machine.execBraidEpochOpen cluster s
  | .braidEpochComplete cluster => Sys2Proof.Machine.execBraidEpochComplete cluster s
  | .stackSemvRun k => Sys2Proof.Machine.execStackSemvRun k s
  | .copyEngineRun cluster => Sys2Proof.Machine.execCopyEngineRun cluster s
  | .collectiveRun parts => Sys2Proof.Machine.execCollectiveRun parts s
  | .logSlotAccept die log => Sys2Proof.Machine.execLogSlotAccept die log s
  | .dependenceSatisfied key j => Sys2Proof.Machine.execDependenceSatisfied key j s
  | .tickFiringDue key => Sys2Proof.Machine.execTickFiringDue key s
  | .tickWaitDeadline key => Sys2Proof.Machine.execTickWaitDeadline key s
  | .tokenRecordTake window addr => Sys2Proof.Machine.execTokenRecordTake window addr s
  | .strandPlace die => Sys2Proof.Machine.execStrandPlace die s
  | .queueAging key => Sys2Proof.Machine.execQueueAging key s
  | .reclaimRecord key => Sys2Proof.Machine.execReclaimRecord key s
  | .forcedSave core slot => Sys2Proof.Machine.execForcedSave core slot s
  | .firingRetire key => Sys2Proof.Machine.execFiringRetire key s
  | .launchRetire key => Sys2Proof.Machine.execLaunchRetire key s
  | .rowSwap stack bank row => Sys2Proof.Machine.execRowSwap stack bank row s
  | .activationWindow stack => Sys2Proof.Machine.execActivationWindow stack s
  | .subarrayRefresh stack bank sub => Sys2Proof.Machine.execSubarrayRefresh stack bank sub s
  | .patrolScrub stack line found => Sys2Proof.Machine.execPatrolScrub stack line found s
  | .thermalHot stack hot => Sys2Proof.Machine.execThermalHot stack hot s
  | .upkctlWrite stack v => Sys2Proof.Machine.execUpkctlWrite stack v s
  | .remap stack v => Sys2Proof.Machine.execRemap stack v s
  | .coreRebind r => Sys2Proof.Machine.execCoreRebind r s
  | .hostMemRead addr n => Sys2Proof.Machine.execHostMemRead addr n s
  | .hostMemWrite addr data => Sys2Proof.Machine.execHostMemWrite addr data s
  | .backInvalidateDone line => Sys2Proof.Machine.execBackInvalidateDone line s
  | .slowTierResponse poison data => Sys2Proof.Machine.execSlowTierResponse poison data s
  | .remoteAccessArrival r => Sys2Proof.Machine.execRemoteAccessArrival r s
  | .flitReceive port flit => Sys2Proof.Machine.execFlitReceive port flit s
  | .flitReplay port seq => Sys2Proof.Machine.execFlitReplay port seq s
  | .laneRepair port lane => Sys2Proof.Machine.execLaneRepair port lane s
  | .remoteReadTimeout core slot => Sys2Proof.Machine.execRemoteReadTimeout core slot s
  | .moduleLost m => Sys2Proof.Machine.execModuleLost m s
  | .portStatusRead port => Sys2Proof.Machine.execPortStatusRead port s
  | .ptpAddendWrite v => Sys2Proof.Machine.execPtpAddendWrite v s
  | .ptpStepWrite v => Sys2Proof.Machine.execPtpStepWrite v s
  | .ptpStatWrite v => Sys2Proof.Machine.execPtpStatWrite v s
  | .reset => Sys2Proof.Machine.execReset s
  | .imgChunk off data => Sys2Proof.Machine.execImgChunk off data s
  | .imgCommit len => Sys2Proof.Machine.execImgCommit len s
  | .imageCheckDone => Sys2Proof.Machine.execImageCheckDone s
  | .attest nonce => Sys2Proof.Machine.execAttest nonce s
  | .rollbackAdvance v => Sys2Proof.Machine.execRollbackAdvance v s
  | .logRegister die log addr => Sys2Proof.Machine.execLogRegister die log addr s
  | .windowRegister w addr => Sys2Proof.Machine.execWindowRegister w addr s
  | .ringRegister ring addr => Sys2Proof.Machine.execRingRegister ring addr s
  | .trapQueueRegister q addr => Sys2Proof.Machine.execTrapQueueRegister q addr s
  | .islandLevelApply core slice level => Sys2Proof.Machine.execIslandLevelApply core slice level s
  | .sliceStoreQueueDrain core path => Sys2Proof.Machine.execSliceStoreQueueDrain core path s
  | .softError line metadata => Sys2Proof.Machine.execSoftError line metadata s
  | .subarrayRefreshEnd stack bank sub => Sys2Proof.Machine.execSubarrayRefreshEnd stack bank sub s
  | .rowSwapDone stack bank => Sys2Proof.Machine.execRowSwapDone stack bank s
  | .remapDone stack => Sys2Proof.Machine.execRemapDone stack s
  | .laneRepairDone port => Sys2Proof.Machine.execLaneRepairDone port s
  | .hawserLinkTrained port => Sys2Proof.Machine.execHawserLinkTrained port s
  | .hawserLinkLost port => Sys2Proof.Machine.execHawserLinkLost port s
  | .linkBringUp cfg => Sys2Proof.Machine.execLinkBringUp cfg s
  | .priorityMapWrite die map age cap => Sys2Proof.Machine.execPriorityMapWrite die map age cap s
  | .saveAreaRegister logical addr => Sys2Proof.Machine.execSaveAreaRegister logical addr s
  | .exportTableRegister addr => Sys2Proof.Machine.execExportTableRegister addr s

end Sys2Proof.Machine
end

