-- ==== Sys2Proof/Machine/Turns.lean ====
section
/-! DEFINITION. What one step of the module is: whose turn it is (log 1), fetching and decoding a word (R76, R87 to R89), and
what passes with every step (log 2); and how an instruction is laid where the next step fetches it. -/
namespace Sys2Proof.Machine

/-! ## What passes with a step -/

/-- Cycles that a step takes: at least one (log 2). -/
def State.cycles (s : State) : Nat := 1 + Config.stepCycles s.free

/-- The SCC counts every cycle; on every edge the PTP clock adds ADDEND to its 96 bits (R318). -/
def State.clocks (s : State) (n : Nat) : State :=
  let p := 2 ^ 32 * s.ptpNs.toNat + s.ptpFrac.toNat + n * s.addend.toNat
  { s with scc := s.scc + BitVec.ofNat 64 n, ptpNs := BitVec.ofNat 64 (p / 2 ^ 32), ptpFrac := BitVec.ofNat 32 p }

/-- LEFT counts down where no cut halts the core (R301). -/
def State.countLeft (s : State) (n : Nat) : State :=
  s.mapStrands fun t => if t.pend && !s.halted t.core then { t with left := t.left - n } else t

/-- Aging stands still in a halted dispatcher (R310). -/
def State.holdAging (s : State) (n : Nat) : State :=
  { s with launches := s.launches.map fun l =>
      l.mapQueues fun die q => if s.dieHalted die then { q with queuedAt := q.queuedAt + n } else q }

/-- A write to CAPTURE takes effect at most 1,024 cycles after it (R203). -/
def State.captureEdge (s : State) : State :=
  match s.captureNext with
  | some c => if s.captureBy ≤ s.scc.toNat then { s with capture := c, captureNext := none } else s
  | none => s

/-- Trap records that waited for stores or for a release are written once they may be (R360, R365). -/
def State.owedRecords (s : State) : State := if s.cores.all fun e => e.2.lateRecs.isEmpty then s else s.lateRecords

/-- What passes with every step: time, activations of rows, trap records that waited, flits; and the free values move on (log 9). -/
def State.tick (s : State) : State :=
  let n := s.cycles
  let s := (((((s.clocks n).countLeft n).holdAging n).captureEdge).countActs).owedRecords.sendFlits
  { s with free := s.free + 1 }

/-- The end of a step. -/
def afterStep : Result → Result
  | .next t => .next t.tick
  | r => r

/-! ## A word of the scalar stream -/

/-- What a fetch leaves: the line in the instruction cache (R76) and the translation in a TLB (R316). -/
def State.fetched (s : State) (va : Word) : State :=
  (s.noteFetch s.me.core s.me.ptroot va).noteXlate s.me.ptroot va

/-- A pattern that is no instruction (R87, R89). -/
def Reject.fault (r : Reject) (va : Word) : FaultInfo :=
  match r with
  | .codeEnd => { kind := .codeEnd, addr := va }
  | _ => { kind := .illegalEncoding, addr := va }

/-- The scalar word at the program counter. -/
def State.nextScalar (s : State) : Except FaultInfo Instr :=
  match s.fetch s.me.core s.me.ptroot s.me.pc 4 with
  | .error f => .error f
  | .ok n =>
    match decodeScalar (BitVec.ofNat 32 n) with
    | .ok i => .ok i
    | .error r => .error (Reject.fault r s.me.pc)

/-- The next scalar word issues; a parked word is issued again (R204). A word that can't be fetched or decoded traps when it
would issue. -/
def State.runScalar (s : State) : Result :=
  if !s.runs then .next s
  else
    match s.nextScalar with
    | .ok i => exec i (s.fetched s.me.pc)
    | .error f => if s.me.stalled [] then .next s else .next (s.takeTrap f s.me.pc false 0)

/-! ## A convoy of the head block -/

/-- The first word of the convoy that issues next. -/
def State.nextVector (s : State) : Except FaultInfo Instr := s.fetchVector s.vctx.addr

/-- A convoy of one word is that word; a longer one issues and retires as a whole. -/
def State.runVector (s : State) : Result :=
  if !s.runs || s.me.queue = [] then .next s
  else if s.me.issued.isSome then execConvoyRetire s
  else
    match s.nextVector with
    | .error f => .next (s.convoyTrap f 0)
    | .ok i =>
      let t := s.fetched s.vctx.addr
      if isLast i then exec i t else execConvoy t

/-- The executing strand goes on: its sequencer while a convoy waits to run, else its scalar stream. -/
def State.runMe (s : State) : Result :=
  if s.me.queue ≠ [] && s.me.parked ≠ .vwait then s.runVector else s.runScalar

/-! ## Turns (log 1) -/

/-- A step without a word (spec/95). -/
def isEvent (i : Instr) : Bool :=
  match encode i with
  | .event => true
  | _ => false

/-- Events of the executing strand's own core: nothing while the strand may not issue (R310). -/
def ownEvent : Instr → Bool
  | .convoyIssue | .convoyRetire | .earlyWorkStart | .vwaitSatisfied => true
  | .unitsWrite _ | .readAhead _ _ => true
  | _ => false

/-- An event takes place. A word is no event. -/
def State.runEvent (s : State) (e : Instr) : Result :=
  if isEvent e && (!ownEvent e || s.runs) then exec e s else .next s

/-- The strand of a slot acts, if there is one. -/
def State.atSlot (s : State) (core slot : Nat) (f : State → Result) : Result :=
  let t := s.focus core slot
  if t.me.placed && t.me.core = core && t.me.slot = slot then f t else .next s

/-- A turn. -/
def State.runTurn (s : State) : Turn → Result
  | .event e => s.runEvent e
  | .scalar core slot => s.atSlot core slot State.runScalar
  | .vector core slot => s.atSlot core slot State.runVector
  | .controlTret core slot action => .next (s.controlTret core slot action)
  | .controlSave core slot addr => .next (s.controlSave core slot addr)

/-- One step of the module: an armed count that has been reached comes first (R201), then the turn that stands next, then
the executing strand. -/
def State.stepOne (s : State) : Result :=
  match s.armed.find? fun a => s.due a with
  | some a => afterStep (exec (.stopatHalt a.scope a.unit) s)
  | none =>
    match s.agenda with
    | t :: ts => afterStep (State.runTurn { s with agenda := ts } t)
    | [] => afterStep s.runMe

/-! ## Laying an instruction where the next step fetches it (log 5) -/

/-- Tables and code that `ready` uses: the root of the tables, and the page of the code, both in the HBM of stack 0. -/
def readyRoot : Nat := hbmBase
def readyVa : Word := 0x200000
def readyPage : Nat := hbmBase + 0x200000

/-- An entry that names a table, and a leaf that grants RD, W and X (R312). -/
def tableEntry (pa : Nat) : List Byte := leBytes 8 (pa + 1)
def leafEntry (pa : Nat) : List Byte := leBytes 8 (pa + 3 + 2 ^ 55 + 2 ^ 56 + 2 ^ 57)

/-- Four levels down to one page of 2 MB at `readyVa`. -/
def State.readyTables (s : State) : State :=
  (((s.putBytes readyRoot (tableEntry (readyRoot + 0x1000))).putBytes (readyRoot + 0x1000) (tableEntry (readyRoot + 0x2000))).putBytes
    (readyRoot + 0x2000) (tableEntry (readyRoot + 0x3000))).putBytes (readyRoot + 0x3008) (leafEntry readyPage)

/-- A strand of slot 0 of core 0 with every lane, no privilege, at `readyVa`. -/
def readyStrand : Strand :=
  { Strand.absent with
    placed := true, pc := readyVa, cur := 15, recd := 15, ptroot := BitVec.ofNat 64 readyRoot,
    ctl := { vtype := 0x1C202, mvl := BitVec.ofNat 64 (mvlOf 15 0x1C202) } }

/-- No turn stands next, no count and no halt holds, and the executing strand may issue: the strand that acts, or where none
is placed, one made ready. -/
def State.ready (s : State) : State :=
  let s := { s with agenda := [], armed := [], halts := [] }
  if s.runs then s else { s.readyTables with me := readyStrand }

/-- Bytes of an instruction where a virtual address of the executing strand leads; no stale copy of the line is cached. -/
def State.layBytes (s : State) (va : Word) (bs : List Byte) : State :=
  match s.probe s.me.ptroot va .fetch true with
  | .error _ => s
  | .ok p =>
    let c := s.core s.me.core
    let t := s.putBytes p.pa bs
    if c.icache = [] && c.scans = [] then t else t.setCore s.me.core { c with icache := [], scans := [] }

/-- A block at a place of its own, with the control values in force. -/
def State.layBlock (s : State) (va : Word) : State :=
  { s with me := { s.me with
    queue := [{ target := va, vpc := va, ctl := s.me.ctl, direct := false, caps := [], writes := [], work := [] }], issued := none } }

/-- The instruction of a table word stands where the next step fetches it: a scalar word at the program counter, a vector
word as the block at the head of the queue. -/
def State.lay (s : State) (nbits w : Nat) : State :=
  let s := s.ready
  if nbits ≤ 32 then
    let s := { s with me := { s.me with queue := [] } }
    s.layBytes s.me.pc (leBytes 4 w)
  else
    let va := s.me.pc + BitVec.ofNat 64 (256 - s.me.pc.toNat % 8)
    (s.layBlock va).layBytes va (leBytes 8 w)

end Sys2Proof.Machine
end

