-- ==== Sys2Proof/Machine/Step.lean ====
section
/-! DEFINITION. The step of the module. -/
namespace Sys2Proof.Machine

/-- One step. -/
def step (s : State) : Host.Outcome State Fault Refusal := s.stepOne

/-- The instruction whose bits are `w` stands where the next step fetches it (log 5). -/
def State.withFetchWord (s : State) (nbits w : Nat) : State := s.lay nbits w

end Sys2Proof.Machine
end

