-- ==== Sys2Proof/Laws/Encoding.lean ====
section
/-! SUPPORT. The fields of an encoded word read back, and what it takes for the decoder to answer an instruction. -/
namespace Sys2Proof

/-! ## Fields of a word in register format -/

section
variable (op : BitVec 6) (d a b : Reg) (fn : BitVec 11)

@[simp] theorem fOp_encR : fOp (encR op d a b fn) = op.toNat := by
  unfold fOp encR
  congr 1
  repeat refine (BitVec.extractLsb'_append_eq_of_le (by decide)).trans ?_
  simp

@[simp] theorem fXd_encR : fXd (encR op d a b fn) = d := by
  unfold fXd encR
  repeat first
    | refine (BitVec.extractLsb'_append_eq_of_le (by decide)).trans ?_
    | refine (BitVec.extractLsb'_append_eq_of_add_le (by decide)).trans ?_
  simp

@[simp] theorem fXa_encR : fXa (encR op d a b fn) = a := by
  unfold fXa encR
  repeat first
    | refine (BitVec.extractLsb'_append_eq_of_le (by decide)).trans ?_
    | refine (BitVec.extractLsb'_append_eq_of_add_le (by decide)).trans ?_
  simp

@[simp] theorem fXb_encR : fXb (encR op d a b fn) = b := by
  unfold fXb encR
  repeat first
    | refine (BitVec.extractLsb'_append_eq_of_le (by decide)).trans ?_
    | refine (BitVec.extractLsb'_append_eq_of_add_le (by decide)).trans ?_
  simp

/-- Any bits of the low field. -/
theorem encR_low (s n : Nat) (h : s + n ≤ 11) : (encR op d a b fn).extractLsb' s n = fn.extractLsb' s n := by
  unfold encR
  exact BitVec.extractLsb'_append_eq_of_add_le h

@[simp] theorem fFn_encR : fFn (encR op d a b fn) = fn := by
  unfold fFn
  rw [encR_low op d a b fn 0 11 (by decide)]
  simp

end

/-! ## Fields of a word in immediate format -/

section
variable (op : BitVec 6) (d a : Reg) (i : BitVec 16)

@[simp] theorem fOp_encI : fOp (encI op d a i) = op.toNat := by
  unfold fOp encI
  congr 1
  repeat refine (BitVec.extractLsb'_append_eq_of_le (by decide)).trans ?_
  simp

@[simp] theorem fXd_encI : fXd (encI op d a i) = d := by
  unfold fXd encI
  repeat first
    | refine (BitVec.extractLsb'_append_eq_of_le (by decide)).trans ?_
    | refine (BitVec.extractLsb'_append_eq_of_add_le (by decide)).trans ?_
  simp

@[simp] theorem fXa_encI : fXa (encI op d a i) = a := by
  unfold fXa encI
  repeat first
    | refine (BitVec.extractLsb'_append_eq_of_le (by decide)).trans ?_
    | refine (BitVec.extractLsb'_append_eq_of_add_le (by decide)).trans ?_
  simp

/-- Any bits of the immediate. -/
theorem encI_low (s n : Nat) (h : s + n ≤ 16) : (encI op d a i).extractLsb' s n = i.extractLsb' s n := by
  unfold encI
  exact BitVec.extractLsb'_append_eq_of_add_le h

@[simp] theorem fImm_encI : fImm (encI op d a i) = i := by
  unfold fImm
  rw [encI_low op d a i 0 16 (by decide)]
  simp

end

/-! ## Fields of a word in jump format -/

section
variable (op : BitVec 6) (d : Reg) (o : BitVec 21)

@[simp] theorem fOp_encJ : fOp (encJ op d o) = op.toNat := by
  unfold fOp encJ
  congr 1
  repeat refine (BitVec.extractLsb'_append_eq_of_le (by decide)).trans ?_
  simp

@[simp] theorem fXd_encJ : fXd (encJ op d o) = d := by
  unfold fXd encJ
  repeat first
    | refine (BitVec.extractLsb'_append_eq_of_le (by decide)).trans ?_
    | refine (BitVec.extractLsb'_append_eq_of_add_le (by decide)).trans ?_
  simp

@[simp] theorem fOff_encJ : fOff (encJ op d o) = o := by
  unfold fOff encJ
  exact (BitVec.extractLsb'_append_eq_of_add_le (by decide)).trans (by simp)

end

/-! ## Fields inside FN and IMM16 -/

/-- The fields of an atomic's FN. -/
theorem encAmo_fields (aop : BitVec 4) (w : BitVec 2) (q l : Bool) (c : BitVec 3) :
    (encAmo aop w q l c).extractLsb' 7 4 = aop ∧ (encAmo aop w q l c).extractLsb' 5 2 = w ∧
    (encAmo aop w q l c).extractLsb' 4 1 = BitVec.ofBool q ∧ (encAmo aop w q l c).extractLsb' 3 1 = BitVec.ofBool l ∧
    (encAmo aop w q l c).extractLsb' 0 3 = c := by
  unfold encAmo
  refine ⟨?_, ?_, ?_, ?_, ?_⟩ <;>
  · repeat first
      | refine (BitVec.extractLsb'_append_eq_of_le (by decide)).trans ?_
      | refine (BitVec.extractLsb'_append_eq_of_add_le (by decide)).trans ?_
    simp

/-- The fields of a fence's IMM16. -/
theorem encFence_fields (k s : BitVec 3) (p : BitVec 8) :
    (encFence k s p).extractLsb' 13 3 = k ∧ (encFence k s p).extractLsb' 10 3 = s ∧
    (encFence k s p).extractLsb' 8 2 = 0 ∧ (encFence k s p).extractLsb' 0 8 = p := by
  unfold encFence
  refine ⟨?_, ?_, ?_, ?_⟩ <;>
  · repeat first
      | refine (BitVec.extractLsb'_append_eq_of_le (by decide)).trans ?_
      | refine (BitVec.extractLsb'_append_eq_of_add_le (by decide)).trans ?_
    simp

/-- The classes of FENCE.X. -/
theorem fenceX_fields (a b : BitVec 3) :
    (a ++ b ++ 0#2 : BitVec 8).extractLsb' 5 3 = a ∧ (a ++ b ++ 0#2 : BitVec 8).extractLsb' 2 3 = b ∧
    (a ++ b ++ 0#2 : BitVec 8).extractLsb' 0 2 = 0 := by
  refine ⟨?_, ?_, ?_⟩ <;>
  · repeat first
      | refine (BitVec.extractLsb'_append_eq_of_le (by decide)).trans ?_
      | refine (BitVec.extractLsb'_append_eq_of_add_le (by decide)).trans ?_
    simp

/-- A shift amount under zeros. -/
theorem shift_fields (s : BitVec 6) :
    (0#10 ++ s : BitVec 16).extractLsb' 6 10 = 0 ∧ (0#10 ++ s : BitVec 16).extractLsb' 0 6 = s := by
  refine ⟨?_, ?_⟩ <;>
  · repeat first
      | refine (BitVec.extractLsb'_append_eq_of_le (by decide)).trans ?_
      | refine (BitVec.extractLsb'_append_eq_of_add_le (by decide)).trans ?_
    simp

/-- A code of two bits under zeros. -/
theorem code2_fields (s : BitVec 2) :
    (0#14 ++ s : BitVec 16).extractLsb' 2 14 = 0 ∧ (0#14 ++ s : BitVec 16).extractLsb' 0 2 = s := by
  refine ⟨?_, ?_⟩ <;>
  · repeat first
      | refine (BitVec.extractLsb'_append_eq_of_le (by decide)).trans ?_
      | refine (BitVec.extractLsb'_append_eq_of_add_le (by decide)).trans ?_
    simp

/-- A bit as a field of one. -/
theorem getLsbD_of_field {w : BitVec 32} {k : Nat} {q : Bool} (h : w.extractLsb' k 1 = BitVec.ofBool q) : w.getLsbD k = q := by
  have h0 := congrArg (fun v => BitVec.getLsbD v 0) h
  simpa using h0

/-- The fields of an atomic in its word. -/
theorem amo_word (op : BitVec 6) (d a b : Reg) (aop : BitVec 4) (w : BitVec 2) (q l : Bool) (c : BitVec 3) :
    (encR op d a b (encAmo aop w q l c)).extractLsb' 7 4 = aop ∧ (encR op d a b (encAmo aop w q l c)).extractLsb' 5 2 = w ∧
    (encR op d a b (encAmo aop w q l c)).getLsbD 4 = q ∧ (encR op d a b (encAmo aop w q l c)).getLsbD 3 = l ∧
    (encR op d a b (encAmo aop w q l c)).extractLsb' 0 3 = c := by
  obtain ⟨h0, h1, h2, h3, h4⟩ := encAmo_fields aop w q l c
  exact ⟨(encR_low _ _ _ _ _ 7 4 (by decide)).trans h0, (encR_low _ _ _ _ _ 5 2 (by decide)).trans h1,
    getLsbD_of_field ((encR_low _ _ _ _ _ 4 1 (by decide)).trans h2),
    getLsbD_of_field ((encR_low _ _ _ _ _ 3 1 (by decide)).trans h3), (encR_low _ _ _ _ _ 0 3 (by decide)).trans h4⟩

/-- What the decoder reads from an atomic. -/
theorem decodeAmo_word (d a b : Reg) (aop : BitVec 4) (w : BitVec 2) (q l : Bool) (c : BitVec 3) :
    decodeOp (encR 0x1C d a b (encAmo aop w q l c)) =
      match aop.toNat with
      | 0 => .ok (.amoswap d a b w q l c)
      | 1 => .ok (.amoadd d a b w q l c)
      | 2 => .ok (.amoand d a b w q l c)
      | 3 => .ok (.amoor d a b w q l c)
      | 4 => .ok (.amoxor d a b w q l c)
      | 5 => .ok (.amomin d a b w q l c)
      | 6 => .ok (.amomax d a b w q l c)
      | 7 => .ok (.amominN d a b w q l c)
      | 8 => .ok (.amomaxN d a b w q l c)
      | 9 => .ok (.amocas d a b w q l c)
      | _ => .error .unassigned := by
  obtain ⟨h0, h1, h2, h3, h4⟩ := amo_word 0x1C d a b aop w q l c
  have hd : decodeOp (encR 0x1C d a b (encAmo aop w q l c)) = decodeAmo (encR 0x1C d a b (encAmo aop w q l c)) := by
    unfold decodeOp
    rw [fOp_encR]
    rfl
  rw [hd]
  unfold decodeAmo
  simp only [fXd_encR, fXa_encR, fXb_encR, h0, h1, h2, h3, h4]
  all_goals rfl

/-- What the decoder reads from a fence. -/
theorem decodeFence_word (k s : BitVec 3) (p : BitVec 8) :
    decodeOp (encI 0x1F 0 0 (encFence k s p)) =
      match k.toNat with
      | 0 => ifZero (s == 0 && p == 0) .fsv
      | 1 => ifZero (s == 0 && p == 0) .fvs
      | 2 => ifZero (s == 0 && p == 0) .fvv
      | 3 => .ok (.fenceC s p)
      | 4 => ifZero (p.extractLsb' 0 2 == 0) (.fenceX s (p.extractLsb' 5 3) (p.extractLsb' 2 3))
      | _ => .error .unassigned := by
  obtain ⟨h0, h1, h2, h3⟩ := encFence_fields k s p
  have g0 := (encI_low 0x1F 0 0 (encFence k s p) 13 3 (by decide)).trans h0
  have g1 := (encI_low 0x1F 0 0 (encFence k s p) 10 3 (by decide)).trans h1
  have g2 := (encI_low 0x1F 0 0 (encFence k s p) 8 2 (by decide)).trans h2
  have g3 := (encI_low 0x1F 0 0 (encFence k s p) 0 8 (by decide)).trans h3
  have hd : decodeOp (encI 0x1F 0 0 (encFence k s p)) = decodeFence (encI 0x1F 0 0 (encFence k s p)) := by
    unfold decodeOp
    rw [fOp_encI]
    rfl
  rw [hd]
  unfold decodeFence
  rw [fXd_encI, fXa_encI, g0, g1, g2, g3]
  all_goals rfl

/-! ## The decoder answers -/

/-- A scalar word that its major opcode decodes, with accepted field values. -/
theorem decodeScalar_ok {w : BitVec 32} {i : Instr} (hop : fOp w ≠ 63) (h : decodeOp w = .ok i) (hok : scalarOk i = true) :
    decodeScalar w = .ok i := by
  have hw : w ≠ BitVec.allOnes 32 := by
    rintro rfl
    exact hop (by decide)
  unfold decodeScalar
  rw [if_neg hw]
  simp only [h, hok, if_true]

theorem vwordOf_encV (vop : Nat) (f : VWord) : vwordOf (encV vop f) = f := by
  cases f
  simp only [vwordOf, encV, VWord.mk.injEq]
  refine ⟨?_, ?_, ?_, ?_, ?_, ?_, ?_, ?_, ?_, ?_, ?_⟩
  · repeat rw [BitVec.getLsbD_append]
    simp
  · repeat rw [BitVec.getLsbD_append]
    simp
  all_goals
    repeat first
      | refine (BitVec.extractLsb'_append_eq_of_le (by decide)).trans ?_
      | refine (BitVec.extractLsb'_append_eq_of_add_le (by decide)).trans ?_
    simp

theorem vop_encV (vop : Nat) (f : VWord) : ((encV vop f).extractLsb' 54 8).toNat = vop % 256 := by
  have h : (encV vop f).extractLsb' 54 8 = BitVec.ofNat 8 vop := by
    unfold encV
    repeat first
      | refine (BitVec.extractLsb'_append_eq_of_le (by decide)).trans ?_
      | refine (BitVec.extractLsb'_append_eq_of_add_le (by decide)).trans ?_
    simp
  rw [h, BitVec.toNat_ofNat]

/-- No word that passes the field checks has RM 7. -/
theorem vwordOk_rm {vop : Nat} {f : VWord} (h : Machine.vwordOk vop f = true) : f.rm ≠ 7 := by
  unfold Machine.vwordOk at h
  split at h
  · exact absurd h (by decide)
  · intro hr
    simp only [Machine.shapeOk, hr, Bool.and_eq_true] at h
    have hrm := h.1.1.1.2
    split at hrm <;> exact absurd hrm (by decide)

/-- A vector word that the opcode map decodes, with accepted field values. -/
theorem decodeVector_ok {vop : Nat} {f : VWord} {i : Instr} (hlt : vop < 254) (hr : vrow vop f = some i)
    (hok : Machine.vwordOk vop f = true) : decodeVector (encV vop f) = .ok i := by
  have hv : ((encV vop f).extractLsb' 54 8).toNat = vop := by rw [vop_encV]; omega
  have hf := vwordOf_encV vop f
  have hlow : (encV vop f).extractLsb' 0 32 ≠ BitVec.allOnes 32 := by
    intro e
    have h1 : (encV vop f).extractLsb' 14 3 = 7 := by
      have h2 : ((encV vop f).extractLsb' 0 32).extractLsb' 14 3 = (encV vop f).extractLsb' 14 3 :=
        BitVec.eq_of_getLsbD_eq fun k hk => by
          simp only [BitVec.getLsbD_extractLsb', hk, decide_true, Bool.true_and, Nat.zero_add]
          have : 14 + k < 32 := by omega
          simp [this]
      rw [← h2, e]
      decide
    have h3 : f.rm = 7 := by
      have := congrArg VWord.rm hf
      rw [← this]
      exact h1
    exact vwordOk_rm hok h3
  have hhigh : (encV vop f).extractLsb' 32 32 ≠ BitVec.allOnes 32 := by
    intro e
    have h2 : ((encV vop f).extractLsb' 32 32).extractLsb' 22 8 = (encV vop f).extractLsb' 54 8 :=
      BitVec.eq_of_getLsbD_eq fun k hk => by
        simp only [BitVec.getLsbD_extractLsb', hk, decide_true, Bool.true_and]
        have h3 : 22 + k < 32 := by omega
        have h4 : 32 + (22 + k) = 54 + k := by omega
        simp [h3, h4]
    rw [← h2, e] at hv
    have : (BitVec.extractLsb' 22 8 (BitVec.allOnes 32)).toNat = 255 := by decide
    omega
  have hstop : encV vop f ≠ 0xBF80000000000000 := by
    intro e
    rw [e] at hv
    have : (BitVec.extractLsb' 54 8 (0xBF80000000000000 : BitVec 64)).toNat = 254 := by decide
    omega
  have hno : ¬ ((encV vop f).extractLsb' 0 32 = BitVec.allOnes 32 ∨ (encV vop f).extractLsb' 32 32 = BitVec.allOnes 32) :=
    fun h => h.elim hlow hhigh
  unfold decodeVector
  rw [if_neg hno, if_neg hstop]
  simp only [hv, hf, hr, hok, if_true]

end Sys2Proof
end

