-- ==== Sys2Proof/Laws/PerInstr.lean ====
section
/-! SUPPORT. Decoding and encoding agree, instruction by instruction. -/
namespace Sys2Proof.Laws

set_option Elab.async false
set_option linter.unusedSimpArgs false

/-- The word of a well-formed instruction decodes to that instruction, with every operand (R18, R68, R81 to R87). -/
def Coded.Statement (i : Instr) : Prop := i.wf = true → encode i ≠ .event → (encode i).decode = .ok i

theorem Coded.ofScalar {i : Instr} {w : BitVec 32} (he : encode i = .scalar w) (hop : fOp w ≠ 63)
    (h : decodeOp w = .ok i) : Coded.Statement i := by
  intro hwf _
  have hok : scalarOk i = true := by
    unfold Instr.wf at hwf
    exact (Bool.and_eq_true _ _ ▸ hwf).1
  rw [he]
  exact decodeScalar_ok hop h hok

theorem Coded.ofVector {i : Instr} {f : VWord} {vop : Nat} (he : encode i = .vector (encV vop f)) (hv : Machine.vopOf i = vop)
    (hf : Machine.vfields i = some f) (hlt : vop < 254) (hr : Machine.rowSelOk i = true → vrow vop f = some i) :
    Coded.Statement i := by
  intro hwf _
  unfold Instr.wf at hwf
  simp only [hf, Bool.and_eq_true, hv] at hwf
  rw [he]
  exact decodeVector_ok hlt (hr hwf.2.2) hwf.2.1

theorem Coded.add (d : Reg) (a : Reg) (b : Reg) : Coded.Statement (.add d a b) := Coded.ofScalar rfl (by simp) (by
  unfold decodeOp; rw [fOp_encR]; show decodeAlu _ = _
  unfold decodeAlu; rw [fXd_encR, fXa_encR, fXb_encR, fFn_encR]; rfl)

theorem Coded.sub (d : Reg) (a : Reg) (b : Reg) : Coded.Statement (.sub d a b) := Coded.ofScalar rfl (by simp) (by
  unfold decodeOp; rw [fOp_encR]; show decodeAlu _ = _
  unfold decodeAlu; rw [fXd_encR, fXa_encR, fXb_encR, fFn_encR]; rfl)

theorem Coded.and (d : Reg) (a : Reg) (b : Reg) : Coded.Statement (.and d a b) := Coded.ofScalar rfl (by simp) (by
  unfold decodeOp; rw [fOp_encR]; show decodeAlu _ = _
  unfold decodeAlu; rw [fXd_encR, fXa_encR, fXb_encR, fFn_encR]; rfl)

theorem Coded.or (d : Reg) (a : Reg) (b : Reg) : Coded.Statement (.or d a b) := Coded.ofScalar rfl (by simp) (by
  unfold decodeOp; rw [fOp_encR]; show decodeAlu _ = _
  unfold decodeAlu; rw [fXd_encR, fXa_encR, fXb_encR, fFn_encR]; rfl)

theorem Coded.xor (d : Reg) (a : Reg) (b : Reg) : Coded.Statement (.xor d a b) := Coded.ofScalar rfl (by simp) (by
  unfold decodeOp; rw [fOp_encR]; show decodeAlu _ = _
  unfold decodeAlu; rw [fXd_encR, fXa_encR, fXb_encR, fFn_encR]; rfl)

theorem Coded.andn (d : Reg) (a : Reg) (b : Reg) : Coded.Statement (.andn d a b) := Coded.ofScalar rfl (by simp) (by
  unfold decodeOp; rw [fOp_encR]; show decodeAlu _ = _
  unfold decodeAlu; rw [fXd_encR, fXa_encR, fXb_encR, fFn_encR]; rfl)

theorem Coded.sll (d : Reg) (a : Reg) (b : Reg) : Coded.Statement (.sll d a b) := Coded.ofScalar rfl (by simp) (by
  unfold decodeOp; rw [fOp_encR]; show decodeAlu _ = _
  unfold decodeAlu; rw [fXd_encR, fXa_encR, fXb_encR, fFn_encR]; rfl)

theorem Coded.srl (d : Reg) (a : Reg) (b : Reg) : Coded.Statement (.srl d a b) := Coded.ofScalar rfl (by simp) (by
  unfold decodeOp; rw [fOp_encR]; show decodeAlu _ = _
  unfold decodeAlu; rw [fXd_encR, fXa_encR, fXb_encR, fFn_encR]; rfl)

theorem Coded.sra (d : Reg) (a : Reg) (b : Reg) : Coded.Statement (.sra d a b) := Coded.ofScalar rfl (by simp) (by
  unfold decodeOp; rw [fOp_encR]; show decodeAlu _ = _
  unfold decodeAlu; rw [fXd_encR, fXa_encR, fXb_encR, fFn_encR]; rfl)

theorem Coded.slt (d : Reg) (a : Reg) (b : Reg) : Coded.Statement (.slt d a b) := Coded.ofScalar rfl (by simp) (by
  unfold decodeOp; rw [fOp_encR]; show decodeAlu _ = _
  unfold decodeAlu; rw [fXd_encR, fXa_encR, fXb_encR, fFn_encR]; rfl)

theorem Coded.sltN (d : Reg) (a : Reg) (b : Reg) : Coded.Statement (.sltN d a b) := Coded.ofScalar rfl (by simp) (by
  unfold decodeOp; rw [fOp_encR]; show decodeAlu _ = _
  unfold decodeAlu; rw [fXd_encR, fXa_encR, fXb_encR, fFn_encR]; rfl)

theorem Coded.min (d : Reg) (a : Reg) (b : Reg) : Coded.Statement (.min d a b) := Coded.ofScalar rfl (by simp) (by
  unfold decodeOp; rw [fOp_encR]; show decodeAlu _ = _
  unfold decodeAlu; rw [fXd_encR, fXa_encR, fXb_encR, fFn_encR]; rfl)

theorem Coded.max (d : Reg) (a : Reg) (b : Reg) : Coded.Statement (.max d a b) := Coded.ofScalar rfl (by simp) (by
  unfold decodeOp; rw [fOp_encR]; show decodeAlu _ = _
  unfold decodeAlu; rw [fXd_encR, fXa_encR, fXb_encR, fFn_encR]; rfl)

theorem Coded.minN (d : Reg) (a : Reg) (b : Reg) : Coded.Statement (.minN d a b) := Coded.ofScalar rfl (by simp) (by
  unfold decodeOp; rw [fOp_encR]; show decodeAlu _ = _
  unfold decodeAlu; rw [fXd_encR, fXa_encR, fXb_encR, fFn_encR]; rfl)

theorem Coded.maxN (d : Reg) (a : Reg) (b : Reg) : Coded.Statement (.maxN d a b) := Coded.ofScalar rfl (by simp) (by
  unfold decodeOp; rw [fOp_encR]; show decodeAlu _ = _
  unfold decodeAlu; rw [fXd_encR, fXa_encR, fXb_encR, fFn_encR]; rfl)

theorem Coded.mul (d : Reg) (a : Reg) (b : Reg) : Coded.Statement (.mul d a b) := Coded.ofScalar rfl (by simp) (by
  unfold decodeOp; rw [fOp_encR]; show decodeAlu _ = _
  unfold decodeAlu; rw [fXd_encR, fXa_encR, fXb_encR, fFn_encR]; rfl)

theorem Coded.mulh (d : Reg) (a : Reg) (b : Reg) : Coded.Statement (.mulh d a b) := Coded.ofScalar rfl (by simp) (by
  unfold decodeOp; rw [fOp_encR]; show decodeAlu _ = _
  unfold decodeAlu; rw [fXd_encR, fXa_encR, fXb_encR, fFn_encR]; rfl)

theorem Coded.mulhN (d : Reg) (a : Reg) (b : Reg) : Coded.Statement (.mulhN d a b) := Coded.ofScalar rfl (by simp) (by
  unfold decodeOp; rw [fOp_encR]; show decodeAlu _ = _
  unfold decodeAlu; rw [fXd_encR, fXa_encR, fXb_encR, fFn_encR]; rfl)

theorem Coded.div (d : Reg) (a : Reg) (b : Reg) : Coded.Statement (.div d a b) := Coded.ofScalar rfl (by simp) (by
  unfold decodeOp; rw [fOp_encR]; show decodeAlu _ = _
  unfold decodeAlu; rw [fXd_encR, fXa_encR, fXb_encR, fFn_encR]; rfl)

theorem Coded.divN (d : Reg) (a : Reg) (b : Reg) : Coded.Statement (.divN d a b) := Coded.ofScalar rfl (by simp) (by
  unfold decodeOp; rw [fOp_encR]; show decodeAlu _ = _
  unfold decodeAlu; rw [fXd_encR, fXa_encR, fXb_encR, fFn_encR]; rfl)

theorem Coded.rem (d : Reg) (a : Reg) (b : Reg) : Coded.Statement (.rem d a b) := Coded.ofScalar rfl (by simp) (by
  unfold decodeOp; rw [fOp_encR]; show decodeAlu _ = _
  unfold decodeAlu; rw [fXd_encR, fXa_encR, fXb_encR, fFn_encR]; rfl)

theorem Coded.remN (d : Reg) (a : Reg) (b : Reg) : Coded.Statement (.remN d a b) := Coded.ofScalar rfl (by simp) (by
  unfold decodeOp; rw [fOp_encR]; show decodeAlu _ = _
  unfold decodeAlu; rw [fXd_encR, fXa_encR, fXb_encR, fFn_encR]; rfl)

theorem Coded.clz (d : Reg) (a : Reg) : Coded.Statement (.clz d a) := Coded.ofScalar rfl (by simp) (by
  unfold decodeOp; rw [fOp_encR]; show decodeAlu _ = _
  unfold decodeAlu; rw [fXd_encR, fXa_encR, fXb_encR, fFn_encR]; rfl)

theorem Coded.ctz (d : Reg) (a : Reg) : Coded.Statement (.ctz d a) := Coded.ofScalar rfl (by simp) (by
  unfold decodeOp; rw [fOp_encR]; show decodeAlu _ = _
  unfold decodeAlu; rw [fXd_encR, fXa_encR, fXb_encR, fFn_encR]; rfl)

theorem Coded.popc (d : Reg) (a : Reg) : Coded.Statement (.popc d a) := Coded.ofScalar rfl (by simp) (by
  unfold decodeOp; rw [fOp_encR]; show decodeAlu _ = _
  unfold decodeAlu; rw [fXd_encR, fXa_encR, fXb_encR, fFn_encR]; rfl)

theorem Coded.addi (d : Reg) (a : Reg) (i : BitVec 16) : Coded.Statement (.addi d a i) :=
  Coded.ofScalar rfl (by simp) (by unfold decodeOp; rw [fOp_encI, fXd_encI, fXa_encI, fImm_encI]; rfl)

theorem Coded.andi (d : Reg) (a : Reg) (i : BitVec 16) : Coded.Statement (.andi d a i) :=
  Coded.ofScalar rfl (by simp) (by unfold decodeOp; rw [fOp_encI, fXd_encI, fXa_encI, fImm_encI]; rfl)

theorem Coded.ori (d : Reg) (a : Reg) (i : BitVec 16) : Coded.Statement (.ori d a i) :=
  Coded.ofScalar rfl (by simp) (by unfold decodeOp; rw [fOp_encI, fXd_encI, fXa_encI, fImm_encI]; rfl)

theorem Coded.xori (d : Reg) (a : Reg) (i : BitVec 16) : Coded.Statement (.xori d a i) :=
  Coded.ofScalar rfl (by simp) (by unfold decodeOp; rw [fOp_encI, fXd_encI, fXa_encI, fImm_encI]; rfl)

theorem Coded.slli (d : Reg) (a : Reg) (s : BitVec 6) : Coded.Statement (.slli d a s) := by
  obtain ⟨h0, h1⟩ := shift_fields s
  exact Coded.ofScalar rfl (by simp) (by
    unfold decodeOp; rw [fOp_encI, fXd_encI, fXa_encI]; show ifZero _ _ = _; rw [encI_low _ _ _ _ _ _ (by decide), h0, encI_low _ _ _ _ _ _ (by decide), h1]; rfl)

theorem Coded.srli (d : Reg) (a : Reg) (s : BitVec 6) : Coded.Statement (.srli d a s) := by
  obtain ⟨h0, h1⟩ := shift_fields s
  exact Coded.ofScalar rfl (by simp) (by
    unfold decodeOp; rw [fOp_encI, fXd_encI, fXa_encI]; show ifZero _ _ = _; rw [encI_low _ _ _ _ _ _ (by decide), h0, encI_low _ _ _ _ _ _ (by decide), h1]; rfl)

theorem Coded.srai (d : Reg) (a : Reg) (s : BitVec 6) : Coded.Statement (.srai d a s) := by
  obtain ⟨h0, h1⟩ := shift_fields s
  exact Coded.ofScalar rfl (by simp) (by
    unfold decodeOp; rw [fOp_encI, fXd_encI, fXa_encI]; show ifZero _ _ = _; rw [encI_low _ _ _ _ _ _ (by decide), h0, encI_low _ _ _ _ _ _ (by decide), h1]; rfl)

theorem Coded.slti (d : Reg) (a : Reg) (i : BitVec 16) : Coded.Statement (.slti d a i) :=
  Coded.ofScalar rfl (by simp) (by unfold decodeOp; rw [fOp_encI, fXd_encI, fXa_encI, fImm_encI]; rfl)

theorem Coded.sltiN (d : Reg) (a : Reg) (i : BitVec 16) : Coded.Statement (.sltiN d a i) :=
  Coded.ofScalar rfl (by simp) (by unfold decodeOp; rw [fOp_encI, fXd_encI, fXa_encI, fImm_encI]; rfl)

theorem Coded.lui (d : Reg) (i : BitVec 16) : Coded.Statement (.lui d i) :=
  Coded.ofScalar rfl (by simp) (by unfold decodeOp; rw [fOp_encI, fXd_encI, fXa_encI, fImm_encI]; rfl)

theorem Coded.addpc (d : Reg) (i : BitVec 16) : Coded.Statement (.addpc d i) :=
  Coded.ofScalar rfl (by simp) (by unfold decodeOp; rw [fOp_encI, fXd_encI, fXa_encI, fImm_encI]; rfl)

theorem Coded.ldI64 (d : Reg) (a : Reg) (i : BitVec 16) : Coded.Statement (.ldI64 d a i) :=
  Coded.ofScalar rfl (by simp) (by unfold decodeOp; rw [fOp_encI, fXd_encI, fXa_encI, fImm_encI]; rfl)

theorem Coded.ldI8 (d : Reg) (a : Reg) (i : BitVec 16) : Coded.Statement (.ldI8 d a i) :=
  Coded.ofScalar rfl (by simp) (by unfold decodeOp; rw [fOp_encI, fXd_encI, fXa_encI, fImm_encI]; rfl)

theorem Coded.ldN8 (d : Reg) (a : Reg) (i : BitVec 16) : Coded.Statement (.ldN8 d a i) :=
  Coded.ofScalar rfl (by simp) (by unfold decodeOp; rw [fOp_encI, fXd_encI, fXa_encI, fImm_encI]; rfl)

theorem Coded.ldI16 (d : Reg) (a : Reg) (i : BitVec 16) : Coded.Statement (.ldI16 d a i) :=
  Coded.ofScalar rfl (by simp) (by unfold decodeOp; rw [fOp_encI, fXd_encI, fXa_encI, fImm_encI]; rfl)

theorem Coded.ldN16 (d : Reg) (a : Reg) (i : BitVec 16) : Coded.Statement (.ldN16 d a i) :=
  Coded.ofScalar rfl (by simp) (by unfold decodeOp; rw [fOp_encI, fXd_encI, fXa_encI, fImm_encI]; rfl)

theorem Coded.ldI32 (d : Reg) (a : Reg) (i : BitVec 16) : Coded.Statement (.ldI32 d a i) :=
  Coded.ofScalar rfl (by simp) (by unfold decodeOp; rw [fOp_encI, fXd_encI, fXa_encI, fImm_encI]; rfl)

theorem Coded.ldN32 (d : Reg) (a : Reg) (i : BitVec 16) : Coded.Statement (.ldN32 d a i) :=
  Coded.ofScalar rfl (by simp) (by unfold decodeOp; rw [fOp_encI, fXd_encI, fXa_encI, fImm_encI]; rfl)

theorem Coded.stI8 (s : Reg) (a : Reg) (i : BitVec 16) : Coded.Statement (.stI8 s a i) :=
  Coded.ofScalar rfl (by simp) (by unfold decodeOp; rw [fOp_encI, fXd_encI, fXa_encI, fImm_encI]; rfl)

theorem Coded.stI16 (s : Reg) (a : Reg) (i : BitVec 16) : Coded.Statement (.stI16 s a i) :=
  Coded.ofScalar rfl (by simp) (by unfold decodeOp; rw [fOp_encI, fXd_encI, fXa_encI, fImm_encI]; rfl)

theorem Coded.stI32 (s : Reg) (a : Reg) (i : BitVec 16) : Coded.Statement (.stI32 s a i) :=
  Coded.ofScalar rfl (by simp) (by unfold decodeOp; rw [fOp_encI, fXd_encI, fXa_encI, fImm_encI]; rfl)

theorem Coded.stI64 (s : Reg) (a : Reg) (i : BitVec 16) : Coded.Statement (.stI64 s a i) :=
  Coded.ofScalar rfl (by simp) (by unfold decodeOp; rw [fOp_encI, fXd_encI, fXa_encI, fImm_encI]; rfl)

theorem Coded.amoswap (d : Reg) (a : Reg) (b : Reg) (w : BitVec 2) (q : Bool) (l : Bool) (c : BitVec 3) : Coded.Statement (.amoswap d a b w q l c) :=
  Coded.ofScalar rfl (by simp) (decodeAmo_word d a b _ w q l c)

theorem Coded.amoadd (d : Reg) (a : Reg) (b : Reg) (w : BitVec 2) (q : Bool) (l : Bool) (c : BitVec 3) : Coded.Statement (.amoadd d a b w q l c) :=
  Coded.ofScalar rfl (by simp) (decodeAmo_word d a b _ w q l c)

theorem Coded.amoand (d : Reg) (a : Reg) (b : Reg) (w : BitVec 2) (q : Bool) (l : Bool) (c : BitVec 3) : Coded.Statement (.amoand d a b w q l c) :=
  Coded.ofScalar rfl (by simp) (decodeAmo_word d a b _ w q l c)

theorem Coded.amoor (d : Reg) (a : Reg) (b : Reg) (w : BitVec 2) (q : Bool) (l : Bool) (c : BitVec 3) : Coded.Statement (.amoor d a b w q l c) :=
  Coded.ofScalar rfl (by simp) (decodeAmo_word d a b _ w q l c)

theorem Coded.amoxor (d : Reg) (a : Reg) (b : Reg) (w : BitVec 2) (q : Bool) (l : Bool) (c : BitVec 3) : Coded.Statement (.amoxor d a b w q l c) :=
  Coded.ofScalar rfl (by simp) (decodeAmo_word d a b _ w q l c)

theorem Coded.amomin (d : Reg) (a : Reg) (b : Reg) (w : BitVec 2) (q : Bool) (l : Bool) (c : BitVec 3) : Coded.Statement (.amomin d a b w q l c) :=
  Coded.ofScalar rfl (by simp) (decodeAmo_word d a b _ w q l c)

theorem Coded.amomax (d : Reg) (a : Reg) (b : Reg) (w : BitVec 2) (q : Bool) (l : Bool) (c : BitVec 3) : Coded.Statement (.amomax d a b w q l c) :=
  Coded.ofScalar rfl (by simp) (decodeAmo_word d a b _ w q l c)

theorem Coded.amominN (d : Reg) (a : Reg) (b : Reg) (w : BitVec 2) (q : Bool) (l : Bool) (c : BitVec 3) : Coded.Statement (.amominN d a b w q l c) :=
  Coded.ofScalar rfl (by simp) (decodeAmo_word d a b _ w q l c)

theorem Coded.amomaxN (d : Reg) (a : Reg) (b : Reg) (w : BitVec 2) (q : Bool) (l : Bool) (c : BitVec 3) : Coded.Statement (.amomaxN d a b w q l c) :=
  Coded.ofScalar rfl (by simp) (decodeAmo_word d a b _ w q l c)

theorem Coded.amocas (d : Reg) (a : Reg) (b : Reg) (w : BitVec 2) (q : Bool) (l : Bool) (c : BitVec 3) : Coded.Statement (.amocas d a b w q l c) :=
  Coded.ofScalar rfl (by simp) (decodeAmo_word d a b _ w q l c)

theorem Coded.addrEq (d : Reg) (a : Reg) (b : Reg) : Coded.Statement (.addrEq d a b) :=
  Coded.ofScalar rfl (by simp) (by unfold decodeOp; rw [fOp_encR, fXd_encR, fXa_encR, fXb_encR, fFn_encR]; rfl)

theorem Coded.claim (d : Reg) (a : Reg) (b : Reg) : Coded.Statement (.claim d a b) :=
  Coded.ofScalar rfl (by simp) (by unfold decodeOp; rw [fOp_encR, fXd_encR, fXa_encR, fXb_encR, fFn_encR]; rfl)

theorem Coded.fsv : Coded.Statement (.fsv) := Coded.ofScalar rfl (by simp) (decodeFence_word _ _ _)

theorem Coded.fvs : Coded.Statement (.fvs) := Coded.ofScalar rfl (by simp) (decodeFence_word _ _ _)

theorem Coded.fvv : Coded.Statement (.fvv) := Coded.ofScalar rfl (by simp) (decodeFence_word _ _ _)

theorem Coded.fenceC (s : BitVec 3) (m : BitVec 8) : Coded.Statement (.fenceC s m) :=
  Coded.ofScalar rfl (by simp) (decodeFence_word _ _ _)

theorem Coded.fenceX (s : BitVec 3) (a : BitVec 3) (b : BitVec 3) : Coded.Statement (.fenceX s a b) := by
  obtain ⟨g0, g1, g2⟩ := fenceX_fields a b
  exact Coded.ofScalar rfl (by simp) (by rw [decodeFence_word]; show ifZero _ _ = _; rw [g0, g1, g2]; rfl)

theorem Coded.beq (a : Reg) (b : Reg) (o : BitVec 16) : Coded.Statement (.beq a b o) :=
  Coded.ofScalar rfl (by simp) (by unfold decodeOp; rw [fOp_encI, fXd_encI, fXa_encI, fImm_encI]; rfl)

theorem Coded.bne (a : Reg) (b : Reg) (o : BitVec 16) : Coded.Statement (.bne a b o) :=
  Coded.ofScalar rfl (by simp) (by unfold decodeOp; rw [fOp_encI, fXd_encI, fXa_encI, fImm_encI]; rfl)

theorem Coded.blt (a : Reg) (b : Reg) (o : BitVec 16) : Coded.Statement (.blt a b o) :=
  Coded.ofScalar rfl (by simp) (by unfold decodeOp; rw [fOp_encI, fXd_encI, fXa_encI, fImm_encI]; rfl)

theorem Coded.bltN (a : Reg) (b : Reg) (o : BitVec 16) : Coded.Statement (.bltN a b o) :=
  Coded.ofScalar rfl (by simp) (by unfold decodeOp; rw [fOp_encI, fXd_encI, fXa_encI, fImm_encI]; rfl)

theorem Coded.bge (a : Reg) (b : Reg) (o : BitVec 16) : Coded.Statement (.bge a b o) :=
  Coded.ofScalar rfl (by simp) (by unfold decodeOp; rw [fOp_encI, fXd_encI, fXa_encI, fImm_encI]; rfl)

theorem Coded.bgeN (a : Reg) (b : Reg) (o : BitVec 16) : Coded.Statement (.bgeN a b o) :=
  Coded.ofScalar rfl (by simp) (by unfold decodeOp; rw [fOp_encI, fXd_encI, fXa_encI, fImm_encI]; rfl)

theorem Coded.jal (d : Reg) (o : BitVec 21) : Coded.Statement (.jal d o) :=
  Coded.ofScalar rfl (by simp) (by unfold decodeOp; rw [fOp_encJ, fXd_encJ, fOff_encJ]; rfl)

theorem Coded.jalr (d : Reg) (a : Reg) (i : BitVec 16) : Coded.Statement (.jalr d a i) :=
  Coded.ofScalar rfl (by simp) (by unfold decodeOp; rw [fOp_encI, fXd_encI, fXa_encI, fImm_encI]; rfl)

theorem Coded.setvl (d : Reg) (a : Reg) (e : BitVec 2) : Coded.Statement (.setvl d a e) := by
  obtain ⟨h0, h1⟩ := code2_fields e
  exact Coded.ofScalar rfl (by simp) (by
    unfold decodeOp; rw [fOp_encI, fXd_encI, fXa_encI]; show ifZero _ _ = _; rw [encI_low _ _ _ _ _ _ (by decide), h0, encI_low _ _ _ _ _ _ (by decide), h1]; rfl)

theorem Coded.vconf (n : BitVec 2) : Coded.Statement (.vconf n) := by
  obtain ⟨h0, h1⟩ := code2_fields n
  exact Coded.ofScalar rfl (by simp) (by
    unfold decodeOp; rw [fOp_encI, fXd_encI, fXa_encI]; show ifZero _ _ = _; rw [encI_low _ _ _ _ _ _ (by decide), h0, encI_low _ _ _ _ _ _ (by decide), h1]; rfl)

theorem Coded.strip (a : Reg) (b : Reg) (o : BitVec 16) : Coded.Statement (.strip a b o) :=
  Coded.ofScalar rfl (by simp) (by unfold decodeOp; rw [fOp_encI, fXd_encI, fXa_encI, fImm_encI]; rfl)

theorem Coded.vwhile (a : Reg) (b : Reg) (o : BitVec 16) : Coded.Statement (.vwhile a b o) :=
  Coded.ofScalar rfl (by simp) (by unfold decodeOp; rw [fOp_encI, fXd_encI, fXa_encI, fImm_encI]; rfl)

theorem Coded.vfetch (o : BitVec 21) : Coded.Statement (.vfetch o) :=
  Coded.ofScalar rfl (by simp) (by unfold decodeOp; rw [fOp_encJ, fXd_encJ, fOff_encJ]; rfl)

theorem Coded.tmove (a : Reg) (b : Reg) : Coded.Statement (.tmove a b) :=
  Coded.ofScalar rfl (by simp) (by unfold decodeOp; rw [fOp_encR, fXd_encR, fXa_encR, fXb_encR, fFn_encR]; rfl)

theorem Coded.trel (a : Reg) : Coded.Statement (.trel a) :=
  Coded.ofScalar rfl (by simp) (by unfold decodeOp; rw [fOp_encR, fXd_encR, fXa_encR, fXb_encR, fFn_encR]; rfl)

theorem Coded.trelZ (a : Reg) : Coded.Statement (.trelZ a) :=
  Coded.ofScalar rfl (by simp) (by unfold decodeOp; rw [fOp_encR, fXd_encR, fXa_encR, fXb_encR, fFn_encR]; rfl)

theorem Coded.exit : Coded.Statement (.exit) := Coded.ofScalar rfl (by simp) (by
  unfold decodeOp; rw [fOp_encR]; show decodeSystem _ = _
  unfold decodeSystem; rw [fXd_encR, fXa_encR, fXb_encR, fFn_encR]; rfl)

theorem Coded.barrier (d : Reg) (s : BitVec 5) : Coded.Statement (.barrier d s) := Coded.ofScalar rfl (by simp) (by
  unfold decodeOp; rw [fOp_encR]; show decodeSystem _ = _
  unfold decodeSystem; rw [fXd_encR, fXa_encR, fXb_encR, fFn_encR]; rfl)

theorem Coded.launch (d : Reg) (a : Reg) (b : Reg) : Coded.Statement (.launch d a b) := Coded.ofScalar rfl (by simp) (by
  unfold decodeOp; rw [fOp_encR]; show decodeSystem _ = _
  unfold decodeSystem; rw [fXd_encR, fXa_encR, fXb_encR, fFn_encR]; rfl)

theorem Coded.colstart (d : Reg) (a : Reg) : Coded.Statement (.colstart d a) := Coded.ofScalar rfl (by simp) (by
  unfold decodeOp; rw [fOp_encR]; show decodeSystem _ = _
  unfold decodeSystem; rw [fXd_encR, fXa_encR, fXb_encR, fFn_encR]; rfl)

theorem Coded.colwait (d : Reg) (a : Reg) : Coded.Statement (.colwait d a) := Coded.ofScalar rfl (by simp) (by
  unfold decodeOp; rw [fOp_encR]; show decodeSystem _ = _
  unfold decodeSystem; rw [fXd_encR, fXa_encR, fXb_encR, fFn_encR]; rfl)

theorem Coded.timerd (d : Reg) (c : BitVec 5) : Coded.Statement (.timerd d c) := Coded.ofScalar rfl (by simp) (by
  unfold decodeOp; rw [fOp_encR]; show decodeSystem _ = _
  unfold decodeSystem; rw [fXd_encR, fXa_encR, fXb_encR, fFn_encR]; rfl)

theorem Coded.tickwait (d : Reg) (a : Reg) : Coded.Statement (.tickwait d a) := Coded.ofScalar rfl (by simp) (by
  unfold decodeOp; rw [fOp_encR]; show decodeSystem _ = _
  unfold decodeSystem; rw [fXd_encR, fXa_encR, fXb_encR, fFn_encR]; rfl)

theorem Coded.trace (a : Reg) (b : Reg) : Coded.Statement (.trace a b) := Coded.ofScalar rfl (by simp) (by
  unfold decodeOp; rw [fOp_encR]; show decodeSystem _ = _
  unfold decodeSystem; rw [fXd_encR, fXa_encR, fXb_encR, fFn_encR]; rfl)

theorem Coded.stopat (d : Reg) (a : Reg) (s : BitVec 5) : Coded.Statement (.stopat d a s) := Coded.ofScalar rfl (by simp) (by
  unfold decodeOp; rw [fOp_encR]; show decodeSystem _ = _
  unfold decodeSystem; rw [fXd_encR, fXa_encR, fXb_encR, fFn_encR]; rfl)

theorem Coded.brform (d : Reg) (a : Reg) : Coded.Statement (.brform d a) := Coded.ofScalar rfl (by simp) (by
  unfold decodeOp; rw [fOp_encR]; show decodeSystem _ = _
  unfold decodeSystem; rw [fXd_encR, fXa_encR, fXb_encR, fFn_encR]; rfl)

theorem Coded.brwait (d : Reg) : Coded.Statement (.brwait d) := Coded.ofScalar rfl (by simp) (by
  unfold decodeOp; rw [fOp_encR]; show decodeSystem _ = _
  unfold decodeSystem; rw [fXd_encR, fXa_encR, fXb_encR, fFn_encR]; rfl)

theorem Coded.brleave : Coded.Statement (.brleave) := Coded.ofScalar rfl (by simp) (by
  unfold decodeOp; rw [fOp_encR]; show decodeSystem _ = _
  unfold decodeSystem; rw [fXd_encR, fXa_encR, fXb_encR, fFn_encR]; rfl)

theorem Coded.xunfold (a : Reg) : Coded.Statement (.xunfold a) := Coded.ofScalar rfl (by simp) (by
  unfold decodeOp; rw [fOp_encR]; show decodeSystem _ = _
  unfold decodeSystem; rw [fXd_encR, fXa_encR, fXb_encR, fFn_encR]; rfl)

theorem Coded.xtrans (a : Reg) : Coded.Statement (.xtrans a) := Coded.ofScalar rfl (by simp) (by
  unfold decodeOp; rw [fOp_encR]; show decodeSystem _ = _
  unfold decodeSystem; rw [fXd_encR, fXa_encR, fXb_encR, fFn_encR]; rfl)

theorem Coded.ixclr : Coded.Statement (.ixclr) := Coded.ofScalar rfl (by simp) (by
  unfold decodeOp; rw [fOp_encR]; show decodeSystem _ = _
  unfold decodeSystem; rw [fXd_encR, fXa_encR, fXb_encR, fFn_encR]; rfl)

theorem Coded.trap (a : Reg) (c : BitVec 16) : Coded.Statement (.trap a c) :=
  Coded.ofScalar rfl (by simp) (by unfold decodeOp; rw [fOp_encI, fXd_encI, fXa_encI, fImm_encI]; rfl)

theorem Coded.ctxsave (d : Reg) (a : Reg) (b : Reg) : Coded.Statement (.ctxsave d a b) := Coded.ofScalar rfl (by simp) (by
  unfold decodeOp; rw [fOp_encR]; show decodePrivileged _ = _
  unfold decodePrivileged; rw [fXd_encR, fXa_encR, fXb_encR, fFn_encR]; rfl)

theorem Coded.ctxload (a : Reg) (b : Reg) : Coded.Statement (.ctxload a b) := Coded.ofScalar rfl (by simp) (by
  unfold decodeOp; rw [fOp_encR]; show decodePrivileged _ = _
  unfold decodePrivileged; rw [fXd_encR, fXa_encR, fXb_encR, fFn_encR]; rfl)

theorem Coded.tlbinv (a : Reg) (b : Reg) : Coded.Statement (.tlbinv a b) := Coded.ofScalar rfl (by simp) (by
  unfold decodeOp; rw [fOp_encR]; show decodePrivileged _ = _
  unfold decodePrivileged; rw [fXd_encR, fXa_encR, fXb_encR, fFn_encR]; rfl)

theorem Coded.tlbinva (b : Reg) : Coded.Statement (.tlbinva b) := Coded.ofScalar rfl (by simp) (by
  unfold decodeOp; rw [fOp_encR]; show decodePrivileged _ = _
  unfold decodePrivileged; rw [fXd_encR, fXa_encR, fXb_encR, fFn_encR]; rfl)

theorem Coded.tret (a : Reg) (b : Reg) : Coded.Statement (.tret a b) := Coded.ofScalar rfl (by simp) (by
  unfold decodeOp; rw [fOp_encR]; show decodePrivileged _ = _
  unfold decodePrivileged; rw [fXd_encR, fXa_encR, fXb_encR, fFn_encR]; rfl)

theorem Coded.crrd (d : Reg) (s : BitVec 16) : Coded.Statement (.crrd d s) :=
  Coded.ofScalar rfl (by simp) (by unfold decodeOp; rw [fOp_encI, fXd_encI, fXa_encI, fImm_encI]; rfl)

theorem Coded.crwr (a : Reg) (s : BitVec 16) : Coded.Statement (.crwr a s) :=
  Coded.ofScalar rfl (by simp) (by unfold decodeOp; rw [fOp_encI, fXd_encI, fXa_encI, fImm_encI]; rfl)

theorem Coded.vstop : Coded.Statement (.vstop) := fun _ _ => rfl

theorem Coded.vfadd (w : VWord) : Coded.Statement (.vfadd w) := Coded.ofVector rfl rfl rfl (by decide) (fun _ => rfl)

theorem Coded.vfsub (w : VWord) : Coded.Statement (.vfsub w) := Coded.ofVector rfl rfl rfl (by decide) (fun _ => rfl)

theorem Coded.vfmul (w : VWord) : Coded.Statement (.vfmul w) := Coded.ofVector rfl rfl rfl (by decide) (fun _ => rfl)

theorem Coded.vfdiv (w : VWord) : Coded.Statement (.vfdiv w) := Coded.ofVector rfl rfl rfl (by decide) (fun _ => rfl)

theorem Coded.vfsqrt (w : VWord) : Coded.Statement (.vfsqrt w) := Coded.ofVector rfl rfl rfl (by decide) (fun _ => rfl)

theorem Coded.vfma (w : VWord) : Coded.Statement (.vfma w) := Coded.ofVector rfl rfl rfl (by decide) (fun _ => rfl)

theorem Coded.vfms (w : VWord) : Coded.Statement (.vfms w) := Coded.ofVector rfl rfl rfl (by decide) (fun _ => rfl)

theorem Coded.vfnma (w : VWord) : Coded.Statement (.vfnma w) := Coded.ofVector rfl rfl rfl (by decide) (fun _ => rfl)

theorem Coded.vfnms (w : VWord) : Coded.Statement (.vfnms w) := Coded.ofVector rfl rfl rfl (by decide) (fun _ => rfl)

theorem Coded.vfmin (w : VWord) : Coded.Statement (.vfmin w) := Coded.ofVector rfl rfl rfl (by decide) (fun _ => rfl)

theorem Coded.vfmax (w : VWord) : Coded.Statement (.vfmax w) := Coded.ofVector rfl rfl rfl (by decide) (fun _ => rfl)

theorem Coded.vfsgnj (w : VWord) : Coded.Statement (.vfsgnj w) :=
  Coded.ofVector rfl rfl rfl (by decide) (fun h => by simp only [Machine.rowSelOk, beq_iff_eq] at h; simp only [Machine.vopOf, vrow, h])

theorem Coded.vfsgnjn (w : VWord) : Coded.Statement (.vfsgnjn w) :=
  Coded.ofVector rfl rfl rfl (by decide) (fun h => by simp only [Machine.rowSelOk, beq_iff_eq] at h; simp only [Machine.vopOf, vrow, h])

theorem Coded.vfsgnjx (w : VWord) : Coded.Statement (.vfsgnjx w) :=
  Coded.ofVector rfl rfl rfl (by decide) (fun h => by simp only [Machine.rowSelOk, beq_iff_eq] at h; simp only [Machine.vopOf, vrow, h])

theorem Coded.vfclass (w : VWord) : Coded.Statement (.vfclass w) := Coded.ofVector rfl rfl rfl (by decide) (fun _ => rfl)

theorem Coded.vfrece (w : VWord) : Coded.Statement (.vfrece w) := Coded.ofVector rfl rfl rfl (by decide) (fun _ => rfl)

theorem Coded.vfrsqe (w : VWord) : Coded.Statement (.vfrsqe w) := Coded.ofVector rfl rfl rfl (by decide) (fun _ => rfl)

theorem Coded.vadd (w : VWord) : Coded.Statement (.vadd w) := Coded.ofVector rfl rfl rfl (by decide) (fun _ => rfl)

theorem Coded.vsub (w : VWord) : Coded.Statement (.vsub w) := Coded.ofVector rfl rfl rfl (by decide) (fun _ => rfl)

theorem Coded.vrsub (w : VWord) : Coded.Statement (.vrsub w) := Coded.ofVector rfl rfl rfl (by decide) (fun _ => rfl)

theorem Coded.vmul (w : VWord) : Coded.Statement (.vmul w) := Coded.ofVector rfl rfl rfl (by decide) (fun _ => rfl)

theorem Coded.vmulh (w : VWord) : Coded.Statement (.vmulh w) := Coded.ofVector rfl rfl rfl (by decide) (fun _ => rfl)

theorem Coded.vdiv (w : VWord) : Coded.Statement (.vdiv w) := Coded.ofVector rfl rfl rfl (by decide) (fun _ => rfl)

theorem Coded.vrem (w : VWord) : Coded.Statement (.vrem w) := Coded.ofVector rfl rfl rfl (by decide) (fun _ => rfl)

theorem Coded.vmin (w : VWord) : Coded.Statement (.vmin w) := Coded.ofVector rfl rfl rfl (by decide) (fun _ => rfl)

theorem Coded.vmax (w : VWord) : Coded.Statement (.vmax w) := Coded.ofVector rfl rfl rfl (by decide) (fun _ => rfl)

theorem Coded.vand (w : VWord) : Coded.Statement (.vand w) := Coded.ofVector rfl rfl rfl (by decide) (fun _ => rfl)

theorem Coded.vor (w : VWord) : Coded.Statement (.vor w) := Coded.ofVector rfl rfl rfl (by decide) (fun _ => rfl)

theorem Coded.vxor (w : VWord) : Coded.Statement (.vxor w) := Coded.ofVector rfl rfl rfl (by decide) (fun _ => rfl)

theorem Coded.vsll (w : VWord) : Coded.Statement (.vsll w) := Coded.ofVector rfl rfl rfl (by decide) (fun _ => rfl)

theorem Coded.vsrl (w : VWord) : Coded.Statement (.vsrl w) := Coded.ofVector rfl rfl rfl (by decide) (fun _ => rfl)

theorem Coded.vsra (w : VWord) : Coded.Statement (.vsra w) := Coded.ofVector rfl rfl rfl (by decide) (fun _ => rfl)

theorem Coded.vmadd (w : VWord) : Coded.Statement (.vmadd w) := Coded.ofVector rfl rfl rfl (by decide) (fun _ => rfl)

theorem Coded.vadds (w : VWord) : Coded.Statement (.vadds w) := Coded.ofVector rfl rfl rfl (by decide) (fun _ => rfl)

theorem Coded.vsubs (w : VWord) : Coded.Statement (.vsubs w) := Coded.ofVector rfl rfl rfl (by decide) (fun _ => rfl)

theorem Coded.vmuls (w : VWord) : Coded.Statement (.vmuls w) := Coded.ofVector rfl rfl rfl (by decide) (fun _ => rfl)

theorem Coded.vabs (w : VWord) : Coded.Statement (.vabs w) := Coded.ofVector rfl rfl rfl (by decide) (fun _ => rfl)

theorem Coded.vclz (w : VWord) : Coded.Statement (.vclz w) := Coded.ofVector rfl rfl rfl (by decide) (fun _ => rfl)

theorem Coded.vpopc (w : VWord) : Coded.Statement (.vpopc w) := Coded.ofVector rfl rfl rfl (by decide) (fun _ => rfl)

theorem Coded.vaddm (w : VWord) : Coded.Statement (.vaddm w) := Coded.ofVector rfl rfl rfl (by decide) (fun _ => rfl)

theorem Coded.vsubm (w : VWord) : Coded.Statement (.vsubm w) := Coded.ofVector rfl rfl rfl (by decide) (fun _ => rfl)

theorem Coded.vmulm (w : VWord) : Coded.Statement (.vmulm w) := Coded.ofVector rfl rfl rfl (by decide) (fun _ => rfl)

theorem Coded.vavg (w : VWord) : Coded.Statement (.vavg w) := Coded.ofVector rfl rfl rfl (by decide) (fun _ => rfl)

theorem Coded.vcmp (w : VWord) : Coded.Statement (.vcmp w) := Coded.ofVector rfl rfl rfl (by decide) (fun _ => rfl)

theorem Coded.vmerge (w : VWord) : Coded.Statement (.vmerge w) := Coded.ofVector rfl rfl rfl (by decide) (fun _ => rfl)

theorem Coded.vmv (w : VWord) : Coded.Statement (.vmv w) := Coded.ofVector rfl rfl rfl (by decide) (fun _ => rfl)

theorem Coded.vsplat (w : VWord) : Coded.Statement (.vsplat w) :=
  Coded.ofVector rfl rfl rfl (by decide) (fun h => by simp only [Machine.rowSelOk, beq_iff_eq] at h; simp only [Machine.vopOf, vrow, h, if_true])

theorem Coded.vsplatImm (w : VWord) : Coded.Statement (.vsplatImm w) :=
  Coded.ofVector rfl rfl rfl (by decide) (fun h => by simp only [Machine.rowSelOk, beq_iff_eq] at h; simp [Machine.vopOf, vrow, h])

theorem Coded.vcvt (w : VWord) : Coded.Statement (.vcvt w) := Coded.ofVector rfl rfl rfl (by decide) (fun _ => rfl)

theorem Coded.vunpack (w : VWord) : Coded.Statement (.vunpack w) := Coded.ofVector rfl rfl rfl (by decide) (fun _ => rfl)

theorem Coded.vid (w : VWord) : Coded.Statement (.vid w) := Coded.ofVector rfl rfl rfl (by decide) (fun _ => rfl)

theorem Coded.vmand (w : VWord) : Coded.Statement (.vmand w) := Coded.ofVector rfl rfl rfl (by decide) (fun _ => rfl)

theorem Coded.vmor (w : VWord) : Coded.Statement (.vmor w) := Coded.ofVector rfl rfl rfl (by decide) (fun _ => rfl)

theorem Coded.vmxor (w : VWord) : Coded.Statement (.vmxor w) := Coded.ofVector rfl rfl rfl (by decide) (fun _ => rfl)

theorem Coded.vmandn (w : VWord) : Coded.Statement (.vmandn w) := Coded.ofVector rfl rfl rfl (by decide) (fun _ => rfl)

theorem Coded.vext (w : VWord) : Coded.Statement (.vext w) := Coded.ofVector rfl rfl rfl (by decide) (fun _ => rfl)

theorem Coded.vredsum (w : VWord) : Coded.Statement (.vredsum w) := Coded.ofVector rfl rfl rfl (by decide) (fun _ => rfl)

theorem Coded.vredmin (w : VWord) : Coded.Statement (.vredmin w) := Coded.ofVector rfl rfl rfl (by decide) (fun _ => rfl)

theorem Coded.vredmax (w : VWord) : Coded.Statement (.vredmax w) := Coded.ofVector rfl rfl rfl (by decide) (fun _ => rfl)

theorem Coded.vredand (w : VWord) : Coded.Statement (.vredand w) := Coded.ofVector rfl rfl rfl (by decide) (fun _ => rfl)

theorem Coded.vredor (w : VWord) : Coded.Statement (.vredor w) := Coded.ofVector rfl rfl rfl (by decide) (fun _ => rfl)

theorem Coded.vredxor (w : VWord) : Coded.Statement (.vredxor w) := Coded.ofVector rfl rfl rfl (by decide) (fun _ => rfl)

theorem Coded.vfredsum (w : VWord) : Coded.Statement (.vfredsum w) := Coded.ofVector rfl rfl rfl (by decide) (fun _ => rfl)

theorem Coded.vfredmin (w : VWord) : Coded.Statement (.vfredmin w) := Coded.ofVector rfl rfl rfl (by decide) (fun _ => rfl)

theorem Coded.vfredmax (w : VWord) : Coded.Statement (.vfredmax w) := Coded.ofVector rfl rfl rfl (by decide) (fun _ => rfl)

theorem Coded.vmpop (w : VWord) : Coded.Statement (.vmpop w) := Coded.ofVector rfl rfl rfl (by decide) (fun _ => rfl)

theorem Coded.vmfirst (w : VWord) : Coded.Statement (.vmfirst w) := Coded.ofVector rfl rfl rfl (by decide) (fun _ => rfl)

theorem Coded.viota (w : VWord) : Coded.Statement (.viota w) := Coded.ofVector rfl rfl rfl (by decide) (fun _ => rfl)

theorem Coded.vcompress (w : VWord) : Coded.Statement (.vcompress w) := Coded.ofVector rfl rfl rfl (by decide) (fun _ => rfl)

theorem Coded.vexpand (w : VWord) : Coded.Statement (.vexpand w) := Coded.ofVector rfl rfl rfl (by decide) (fun _ => rfl)

theorem Coded.vlut (w : VWord) : Coded.Statement (.vlut w) := Coded.ofVector rfl rfl rfl (by decide) (fun _ => rfl)

theorem Coded.vperm (w : VWord) : Coded.Statement (.vperm w) := Coded.ofVector rfl rfl rfl (by decide) (fun _ => rfl)

theorem Coded.vslup (w : VWord) : Coded.Statement (.vslup w) := Coded.ofVector rfl rfl rfl (by decide) (fun _ => rfl)

theorem Coded.vsldn (w : VWord) : Coded.Statement (.vsldn w) := Coded.ofVector rfl rfl rfl (by decide) (fun _ => rfl)

theorem Coded.vroute (w : VWord) : Coded.Statement (.vroute w) := Coded.ofVector rfl rfl rfl (by decide) (fun _ => rfl)

theorem Coded.ixins (w : VWord) : Coded.Statement (.ixins w) := Coded.ofVector rfl rfl rfl (by decide) (fun _ => rfl)

theorem Coded.ixlook (w : VWord) : Coded.Statement (.ixlook w) := Coded.ofVector rfl rfl rfl (by decide) (fun _ => rfl)

theorem Coded.ixacc (w : VWord) : Coded.Statement (.ixacc w) := Coded.ofVector rfl rfl rfl (by decide) (fun _ => rfl)

theorem Coded.ixdrain (w : VWord) : Coded.Statement (.ixdrain w) := Coded.ofVector rfl rfl rfl (by decide) (fun _ => rfl)

theorem Coded.vld (w : VWord) : Coded.Statement (.vld w) := Coded.ofVector rfl rfl rfl (by decide) (fun _ => rfl)

theorem Coded.vst (w : VWord) : Coded.Statement (.vst w) := Coded.ofVector rfl rfl rfl (by decide) (fun _ => rfl)

theorem Coded.vlds (w : VWord) : Coded.Statement (.vlds w) := Coded.ofVector rfl rfl rfl (by decide) (fun _ => rfl)

theorem Coded.vsts (w : VWord) : Coded.Statement (.vsts w) := Coded.ofVector rfl rfl rfl (by decide) (fun _ => rfl)

theorem Coded.vldseg (w : VWord) : Coded.Statement (.vldseg w) := Coded.ofVector rfl rfl rfl (by decide) (fun _ => rfl)

theorem Coded.vstseg (w : VWord) : Coded.Statement (.vstseg w) := Coded.ofVector rfl rfl rfl (by decide) (fun _ => rfl)

theorem Coded.vldx (w : VWord) : Coded.Statement (.vldx w) := Coded.ofVector rfl rfl rfl (by decide) (fun _ => rfl)

theorem Coded.vldxb (w : VWord) : Coded.Statement (.vldxb w) := Coded.ofVector rfl rfl rfl (by decide) (fun _ => rfl)

theorem Coded.vstx (w : VWord) : Coded.Statement (.vstx w) := Coded.ofVector rfl rfl rfl (by decide) (fun _ => rfl)

theorem Coded.vskein (w : VWord) : Coded.Statement (.vskein w) :=
  Coded.ofVector rfl rfl rfl (by decide) (fun h => by simp only [Machine.rowSelOk, beq_iff_eq] at h; simp only [Machine.vopOf, vrow, h, if_true])

theorem Coded.vskeinUnbind (w : VWord) : Coded.Statement (.vskeinUnbind w) :=
  Coded.ofVector rfl rfl rfl (by decide) (fun h => by simp only [Machine.rowSelOk, beq_iff_eq] at h; simp [Machine.vopOf, vrow, h])

theorem Coded.vldk (w : VWord) : Coded.Statement (.vldk w) := Coded.ofVector rfl rfl rfl (by decide) (fun _ => rfl)

theorem Coded.vamoswap (w : VWord) : Coded.Statement (.vamoswap w) :=
  Coded.ofVector rfl rfl rfl (by decide) (fun h => by simp only [Machine.rowSelOk, beq_iff_eq] at h; simp only [Machine.vopOf, vrow, h])

theorem Coded.vamoadd (w : VWord) : Coded.Statement (.vamoadd w) :=
  Coded.ofVector rfl rfl rfl (by decide) (fun h => by simp only [Machine.rowSelOk, beq_iff_eq] at h; simp only [Machine.vopOf, vrow, h])

theorem Coded.vamoand (w : VWord) : Coded.Statement (.vamoand w) :=
  Coded.ofVector rfl rfl rfl (by decide) (fun h => by simp only [Machine.rowSelOk, beq_iff_eq] at h; simp only [Machine.vopOf, vrow, h])

theorem Coded.vamoor (w : VWord) : Coded.Statement (.vamoor w) :=
  Coded.ofVector rfl rfl rfl (by decide) (fun h => by simp only [Machine.rowSelOk, beq_iff_eq] at h; simp only [Machine.vopOf, vrow, h])

theorem Coded.vamoxor (w : VWord) : Coded.Statement (.vamoxor w) :=
  Coded.ofVector rfl rfl rfl (by decide) (fun h => by simp only [Machine.rowSelOk, beq_iff_eq] at h; simp only [Machine.vopOf, vrow, h])

theorem Coded.vamomin (w : VWord) : Coded.Statement (.vamomin w) :=
  Coded.ofVector rfl rfl rfl (by decide) (fun h => by simp only [Machine.rowSelOk, beq_iff_eq] at h; simp only [Machine.vopOf, vrow, h])

theorem Coded.vamomax (w : VWord) : Coded.Statement (.vamomax w) :=
  Coded.ofVector rfl rfl rfl (by decide) (fun h => by simp only [Machine.rowSelOk, beq_iff_eq] at h; simp only [Machine.vopOf, vrow, h])

theorem Coded.vamocas (w : VWord) : Coded.Statement (.vamocas w) :=
  Coded.ofVector rfl rfl rfl (by decide) (fun h => by simp only [Machine.rowSelOk, beq_iff_eq] at h; simp only [Machine.vopOf, vrow, h])

theorem Coded.vwait (w : VWord) : Coded.Statement (.vwait w) := Coded.ofVector rfl rfl rfl (by decide) (fun _ => rfl)

theorem Coded.vpgalloc (w : VWord) : Coded.Statement (.vpgalloc w) := Coded.ofVector rfl rfl rfl (by decide) (fun _ => rfl)

theorem Coded.vstk (w : VWord) : Coded.Statement (.vstk w) := Coded.ofVector rfl rfl rfl (by decide) (fun _ => rfl)

theorem Coded.vtmove (w : VWord) : Coded.Statement (.vtmove w) := Coded.ofVector rfl rfl rfl (by decide) (fun _ => rfl)

theorem Coded.vaddrEq (w : VWord) : Coded.Statement (.vaddrEq w) := Coded.ofVector rfl rfl rfl (by decide) (fun _ => rfl)

theorem Coded.topadd (w : VWord) : Coded.Statement (.topadd w) := Coded.ofVector rfl rfl rfl (by decide) (fun _ => rfl)

theorem Coded.topsub (w : VWord) : Coded.Statement (.topsub w) := Coded.ofVector rfl rfl rfl (by decide) (fun _ => rfl)

theorem Coded.topsld (w : VWord) : Coded.Statement (.topsld w) := Coded.ofVector rfl rfl rfl (by decide) (fun _ => rfl)

theorem Coded.brtopadd (w : VWord) : Coded.Statement (.brtopadd w) := Coded.ofVector rfl rfl rfl (by decide) (fun _ => rfl)

theorem Coded.tld (w : VWord) : Coded.Statement (.tld w) := Coded.ofVector rfl rfl rfl (by decide) (fun _ => rfl)

theorem Coded.tst (w : VWord) : Coded.Statement (.tst w) := Coded.ofVector rfl rfl rfl (by decide) (fun _ => rfl)

theorem Coded.tfill (w : VWord) : Coded.Statement (.tfill w) := Coded.ofVector rfl rfl rfl (by decide) (fun _ => rfl)

theorem Coded.trdrow (w : VWord) : Coded.Statement (.trdrow w) := Coded.ofVector rfl rfl rfl (by decide) (fun _ => rfl)

theorem Coded.trdcol (w : VWord) : Coded.Statement (.trdcol w) := Coded.ofVector rfl rfl rfl (by decide) (fun _ => rfl)

theorem Coded.twrrow (w : VWord) : Coded.Statement (.twrrow w) := Coded.ofVector rfl rfl rfl (by decide) (fun _ => rfl)

theorem Coded.sdsort (w : VWord) : Coded.Statement (.sdsort w) := Coded.ofVector rfl rfl rfl (by decide) (fun _ => rfl)

theorem Coded.ptld (w : VWord) : Coded.Statement (.ptld w) := Coded.ofVector rfl rfl rfl (by decide) (fun _ => rfl)

theorem Coded.ptst (w : VWord) : Coded.Statement (.ptst w) := Coded.ofVector rfl rfl rfl (by decide) (fun _ => rfl)

theorem Coded.sdscan (w : VWord) : Coded.Statement (.sdscan w) :=
  Coded.ofVector rfl rfl rfl (by decide) (fun h => by simp only [Machine.rowSelOk, beq_iff_eq] at h; simp only [Machine.vopOf, vrow, h, if_true])

theorem Coded.sdscanMem (w : VWord) : Coded.Statement (.sdscanMem w) :=
  Coded.ofVector rfl rfl rfl (by decide) (fun h => by simp only [Machine.rowSelOk, beq_iff_eq] at h; simp [Machine.vopOf, vrow, h])

theorem Coded.sddot (w : VWord) : Coded.Statement (.sddot w) := Coded.ofVector rfl rfl rfl (by decide) (fun _ => rfl)

theorem Coded.sdfin (w : VWord) : Coded.Statement (.sdfin w) := Coded.ofVector rfl rfl rfl (by decide) (fun _ => rfl)

theorem Coded.sld (w : VWord) : Coded.Statement (.sld w) := Coded.ofVector rfl rfl rfl (by decide) (fun _ => rfl)

theorem Coded.sst (w : VWord) : Coded.Statement (.sst w) := Coded.ofVector rfl rfl rfl (by decide) (fun _ => rfl)

theorem Coded.semv (w : VWord) : Coded.Statement (.semv w) := Coded.ofVector rfl rfl rfl (by decide) (fun _ => rfl)

theorem Coded.storeBufferDrain (core : Nat) : Coded.Statement (.storeBufferDrain core) := fun _ h => absurd rfl h

theorem Coded.moveCommit (line : Nat) : Coded.Statement (.moveCommit line) := fun _ h => absurd rfl h

theorem Coded.tetherReleaseDone (line : Nat) : Coded.Statement (.tetherReleaseDone line) := fun _ h => absurd rfl h

theorem Coded.barrierComplete (key : LaunchKey) (scope : Nat) (unit : Nat) : Coded.Statement (.barrierComplete key scope unit) :=
  fun _ h => absurd rfl h

theorem Coded.tickwaitWake (core : Nat) (slot : Nat) : Coded.Statement (.tickwaitWake core slot) := fun _ h => absurd rfl h

theorem Coded.stopatHalt (scope : Nat) (unit : Nat) : Coded.Statement (.stopatHalt scope unit) := fun _ h => absurd rfl h

theorem Coded.haltRelease (scope : Nat) (unit : Nat) : Coded.Statement (.haltRelease scope unit) := fun _ h => absurd rfl h

theorem Coded.unitsWrite (v : Word) : Coded.Statement (.unitsWrite v) := fun _ h => absurd rfl h

theorem Coded.captureWrite (firmware : Option Word) : Coded.Statement (.captureWrite firmware) := fun _ h => absurd rfl h

theorem Coded.convoyIssue : Coded.Statement (.convoyIssue) := fun _ h => absurd rfl h

theorem Coded.convoyRetire : Coded.Statement (.convoyRetire) := fun _ h => absurd rfl h

theorem Coded.earlyWorkStart : Coded.Statement (.earlyWorkStart) := fun _ h => absurd rfl h

theorem Coded.readAhead (v : Nat) (lines : Nat) : Coded.Statement (.readAhead v lines) := fun _ h => absurd rfl h

theorem Coded.vwaitSatisfied : Coded.Statement (.vwaitSatisfied) := fun _ h => absurd rfl h

theorem Coded.stackGatherRun (k : Nat) : Coded.Statement (.stackGatherRun k) := fun _ h => absurd rfl h

theorem Coded.braidEpochOpen (cluster : Nat) : Coded.Statement (.braidEpochOpen cluster) := fun _ h => absurd rfl h

theorem Coded.braidEpochComplete (cluster : Nat) : Coded.Statement (.braidEpochComplete cluster) := fun _ h => absurd rfl h

theorem Coded.stackSemvRun (k : Nat) : Coded.Statement (.stackSemvRun k) := fun _ h => absurd rfl h

theorem Coded.copyEngineRun (cluster : Nat) : Coded.Statement (.copyEngineRun cluster) := fun _ h => absurd rfl h

theorem Coded.collectiveRun (parts : List ColPart) : Coded.Statement (.collectiveRun parts) := fun _ h => absurd rfl h

theorem Coded.logSlotAccept (die : Nat) (log : Nat) : Coded.Statement (.logSlotAccept die log) := fun _ h => absurd rfl h

theorem Coded.dependenceSatisfied (key : LaunchKey) (j : Nat) : Coded.Statement (.dependenceSatisfied key j) :=
  fun _ h => absurd rfl h

theorem Coded.tickFiringDue (key : LaunchKey) : Coded.Statement (.tickFiringDue key) := fun _ h => absurd rfl h

theorem Coded.tickWaitDeadline (key : LaunchKey) : Coded.Statement (.tickWaitDeadline key) := fun _ h => absurd rfl h

theorem Coded.tokenRecordTake (window : Nat) (addr : Nat) : Coded.Statement (.tokenRecordTake window addr) :=
  fun _ h => absurd rfl h

theorem Coded.strandPlace (die : Nat) : Coded.Statement (.strandPlace die) := fun _ h => absurd rfl h

theorem Coded.queueAging (key : LaunchKey) : Coded.Statement (.queueAging key) := fun _ h => absurd rfl h

theorem Coded.reclaimRecord (key : LaunchKey) : Coded.Statement (.reclaimRecord key) := fun _ h => absurd rfl h

theorem Coded.forcedSave (core : Nat) (slot : Nat) : Coded.Statement (.forcedSave core slot) := fun _ h => absurd rfl h

theorem Coded.firingRetire (key : LaunchKey) : Coded.Statement (.firingRetire key) := fun _ h => absurd rfl h

theorem Coded.launchRetire (key : LaunchKey) : Coded.Statement (.launchRetire key) := fun _ h => absurd rfl h

theorem Coded.rowSwap (stack : Nat) (bank : Nat) (row : Nat) : Coded.Statement (.rowSwap stack bank row) :=
  fun _ h => absurd rfl h

theorem Coded.activationWindow (stack : Nat) : Coded.Statement (.activationWindow stack) := fun _ h => absurd rfl h

theorem Coded.subarrayRefresh (stack : Nat) (bank : Nat) (sub : Nat) : Coded.Statement (.subarrayRefresh stack bank sub) :=
  fun _ h => absurd rfl h

theorem Coded.patrolScrub (stack : Nat) (line : Nat) (found : ScrubResult) : Coded.Statement (.patrolScrub stack line found) :=
  fun _ h => absurd rfl h

theorem Coded.thermalHot (stack : Nat) (hot : Bool) : Coded.Statement (.thermalHot stack hot) := fun _ h => absurd rfl h

theorem Coded.upkctlWrite (stack : Nat) (v : Word) : Coded.Statement (.upkctlWrite stack v) := fun _ h => absurd rfl h

theorem Coded.remap (stack : Nat) (v : Word) : Coded.Statement (.remap stack v) := fun _ h => absurd rfl h

theorem Coded.coreRebind (r : Rebind) : Coded.Statement (.coreRebind r) := fun _ h => absurd rfl h

theorem Coded.hostMemRead (addr : Nat) (n : Nat) : Coded.Statement (.hostMemRead addr n) := fun _ h => absurd rfl h

theorem Coded.hostMemWrite (addr : Nat) (data : List Byte) : Coded.Statement (.hostMemWrite addr data) :=
  fun _ h => absurd rfl h

theorem Coded.backInvalidateDone (line : Nat) : Coded.Statement (.backInvalidateDone line) := fun _ h => absurd rfl h

theorem Coded.slowTierResponse (poison : Bool) (data : List Byte) : Coded.Statement (.slowTierResponse poison data) :=
  fun _ h => absurd rfl h

theorem Coded.remoteAccessArrival (r : RemoteReq) : Coded.Statement (.remoteAccessArrival r) := fun _ h => absurd rfl h

theorem Coded.flitReceive (port : Nat) (flit : List Byte) : Coded.Statement (.flitReceive port flit) :=
  fun _ h => absurd rfl h

theorem Coded.flitReplay (port : Nat) (seq : Nat) : Coded.Statement (.flitReplay port seq) := fun _ h => absurd rfl h

theorem Coded.laneRepair (port : Nat) (lane : Nat) : Coded.Statement (.laneRepair port lane) := fun _ h => absurd rfl h

theorem Coded.remoteReadTimeout (core : Nat) (slot : Nat) : Coded.Statement (.remoteReadTimeout core slot) :=
  fun _ h => absurd rfl h

theorem Coded.moduleLost (m : Nat) : Coded.Statement (.moduleLost m) := fun _ h => absurd rfl h

theorem Coded.portStatusRead (port : Nat) : Coded.Statement (.portStatusRead port) := fun _ h => absurd rfl h

theorem Coded.ptpAddendWrite (v : Word) : Coded.Statement (.ptpAddendWrite v) := fun _ h => absurd rfl h

theorem Coded.ptpStepWrite (v : Word) : Coded.Statement (.ptpStepWrite v) := fun _ h => absurd rfl h

theorem Coded.ptpStatWrite (v : Word) : Coded.Statement (.ptpStatWrite v) := fun _ h => absurd rfl h

theorem Coded.reset : Coded.Statement (.reset) := fun _ h => absurd rfl h

theorem Coded.imgChunk (off : Nat) (data : List Byte) : Coded.Statement (.imgChunk off data) := fun _ h => absurd rfl h

theorem Coded.imgCommit (len : Nat) : Coded.Statement (.imgCommit len) := fun _ h => absurd rfl h

theorem Coded.imageCheckDone : Coded.Statement (.imageCheckDone) := fun _ h => absurd rfl h

theorem Coded.attest (nonce : List Byte) : Coded.Statement (.attest nonce) := fun _ h => absurd rfl h

theorem Coded.rollbackAdvance (v : Nat) : Coded.Statement (.rollbackAdvance v) := fun _ h => absurd rfl h

theorem Coded.logRegister (die : Nat) (log : Nat) (addr : Nat) : Coded.Statement (.logRegister die log addr) :=
  fun _ h => absurd rfl h

theorem Coded.windowRegister (w : Nat) (addr : Nat) : Coded.Statement (.windowRegister w addr) := fun _ h => absurd rfl h

theorem Coded.ringRegister (ring : RingId) (addr : Nat) : Coded.Statement (.ringRegister ring addr) := fun _ h => absurd rfl h

theorem Coded.trapQueueRegister (q : Nat) (addr : Nat) : Coded.Statement (.trapQueueRegister q addr) :=
  fun _ h => absurd rfl h

theorem Coded.islandLevelApply (core : Nat) (slice : Nat) (level : Nat) : Coded.Statement (.islandLevelApply core slice level) :=
  fun _ h => absurd rfl h

theorem Coded.sliceStoreQueueDrain (core : Nat) (path : Nat) : Coded.Statement (.sliceStoreQueueDrain core path) :=
  fun _ h => absurd rfl h

theorem Coded.softError (line : Nat) (metadata : Bool) : Coded.Statement (.softError line metadata) := fun _ h => absurd rfl h

theorem Coded.subarrayRefreshEnd (stack : Nat) (bank : Nat) (sub : Nat) : Coded.Statement (.subarrayRefreshEnd stack bank sub) :=
  fun _ h => absurd rfl h

theorem Coded.rowSwapDone (stack : Nat) (bank : Nat) : Coded.Statement (.rowSwapDone stack bank) := fun _ h => absurd rfl h

theorem Coded.remapDone (stack : Nat) : Coded.Statement (.remapDone stack) := fun _ h => absurd rfl h

theorem Coded.laneRepairDone (port : Nat) : Coded.Statement (.laneRepairDone port) := fun _ h => absurd rfl h

theorem Coded.hawserLinkTrained (port : Nat) : Coded.Statement (.hawserLinkTrained port) := fun _ h => absurd rfl h

theorem Coded.hawserLinkLost (port : Nat) : Coded.Statement (.hawserLinkLost port) := fun _ h => absurd rfl h

theorem Coded.linkBringUp (cfg : LinkConfig) : Coded.Statement (.linkBringUp cfg) := fun _ h => absurd rfl h

theorem Coded.priorityMapWrite (die : Nat) (map : List Nat) (age : Nat) (cap : Nat) : Coded.Statement (.priorityMapWrite die map age cap) :=
  fun _ h => absurd rfl h

theorem Coded.saveAreaRegister (logical : Nat) (addr : Nat) : Coded.Statement (.saveAreaRegister logical addr) :=
  fun _ h => absurd rfl h

theorem Coded.exportTableRegister (addr : Nat) : Coded.Statement (.exportTableRegister addr) := fun _ h => absurd rfl h

end Sys2Proof.Laws
end

