-- ==== Sys2Proof/Safety.lean ====
section
/-! DEFINITION. What a safe run of the module is, and the terms that statements use: what a word leaves of the state, and
what a write of elements, mask bits or bytes leaves of an image. -/
namespace Sys2Proof.Machine

/-! ## Invariants -/

/-- The memory of the module is in canonical form. -/
def State.memOk (s : State) : Prop := Memory.wf s.mem = true

/-- The memory is canonical, and the fused counter is a count of 8 bits (R388). -/
def State.Inv (s : State) : Prop := s.memOk ∧ s.rollback < 256

/-! ## Scalar words -/

/-- A scalar word of these registers issues: no queued block is direct, and none still has to write one of them (R204,
R207). -/
def State.issues (s : State) (regs : List Reg) : Prop := s.me.stalled regs = false

/-- `t` is `s` after a word that wrote `v` into x[d] and goes on at `pc`. A write to x0 is discarded, and nothing else of the
state changes (R24, R90). -/
def State.wrote (s t : State) (d : Reg) (v pc : Word) : Prop :=
  (∀ r : Reg, t.xget r = if r = d ∧ d ≠ 0 then v else s.xget r) ∧
  t = { s with me := { s.me with x := t.me.x, pc := pc } }

/-- The word `i` completes: it writes `v` into x[d], goes on at the next word, and leaves everything else. -/
def Computes (s : State) (i : Instr) (d : Reg) (v : Word) : Prop :=
  ∃ t, exec i s = .next t ∧ s.wrote t d v (s.me.pc + 4)

/-! ## Memory -/

/-- The n bytes from pa on are named by local addresses, and none is a register that only the hardware writes (R282, R331,
R359). -/
def State.plainBytes (s : State) (pa n : Nat) : Prop :=
  ∀ j, j < n → s.canon (pa + j) = pa + j ∧ s.hwOnly (pa + j) = false ∧ s.isOvf (pa + j) = false

/-- n bytes that a write by the module's own units may be performed at now: plain addresses of a plain line that can be reached, and
not of the slow tier, whose writes wait for the host (R380). -/
def State.lands (s : State) (pa n : Nat) : Prop :=
  s.plainBytes pa n ∧ (∀ j, j < n → s.tether (pa + j) = .plain ∧ s.region (pa + j) ≠ .slow) ∧
  ∀ j m, j < n → s.region (pa + j) = .remote m → s.portOpen m = true

/-- `t` holds the n bytes of v from pa on, and every other byte as `s` does. -/
def State.stored (s t : State) (pa n v : Nat) : Prop :=
  (∀ j, j < n → t.byte (pa + j) = (leBytes n v).getD j 0) ∧
  ∀ q, (∀ j, j < n → s.canon q ≠ pa + j) → t.byte q = s.byte q

/-- Every byte reads alike. -/
def State.sameBytes (s t : State) : Prop := ∀ q, t.byte q = s.byte q

/-- Every core holds the same, but for the lines that its stream-load unit has read ahead (R228) and its scalar data cache
(R225). -/
def State.sameCores (s t : State) : Prop :=
  ∀ k, t.core k = { s.core k with stream := (t.core k).stream, dcache := (t.core k).dcache, invals := (t.core k).invals }

/-! ## Vector words -/

/-- `i` is the word at the head of the first queued block, whose context is `c`, and passes the decode checks of R88; and where
it does memory work no fence of its strand is incomplete (R109 to R111). -/
def State.heads (s : State) (i : Instr) (c : VCtx) : Prop :=
  s.me.queue ≠ [] ∧ c = s.vctx ∧ s.wordCheck c.ctl.vtype i c.addr = none ∧ (worksOf [i] = [] ∨ s.me.debts = [])

/-- The bytes of element i, W bits wide, of the image that begins at register r. -/
def inElem (rb r W i key : Nat) : Prop := ∃ b, i * W < 8 * (b + 1) ∧ 8 * b < (i + 1) * W ∧ key = vkey rb r b

/-- What writing elements leaves: an image m' after m, where the elements of `idx` of the image at register r were given
values. -/
structure Wrote (m m' : Image) (rb r W : Nat) (idx : Nat → Prop) (v : Nat → Nat) : Prop where
  /-- A written element holds the W bits of its value. -/
  new : ∀ i, idx i → vreadImg m' rb r W i = v i % 2 ^ W
  /-- The other elements of the image stay. -/
  old : ∀ i, ¬ idx i → vreadImg m' rb r W i = vreadImg m rb r W i
  /-- Bytes that belong to no written element stay, those of every other register among them. -/
  rest : ∀ key, (∀ i, idx i → ¬ inElem rb r W i key) → imgGet m' key = imgGet m key

/-- Bit i of register r. -/
def bitOf (m : Image) (r i : Nat) : Bool := (imgGet m (65536 * r + i / 8)).getLsbD (i % 8)

/-- What writing mask bits to register r leaves. -/
structure WroteBits (m m' : Image) (r : Nat) (idx : Nat → Prop) (v : Nat → Bool) : Prop where
  new : ∀ i, idx i → bitOf m' r i = v i
  old : ∀ i, ¬ idx i → bitOf m' r i = bitOf m r i
  rest : ∀ key, (∀ i, idx i → key ≠ 65536 * r + i / 8) → imgGet m' key = imgGet m key

/-- The elements that a word works on: below VL and not masked (R30). -/
def State.works (s : State) (c : VCtx) (w : VWord) (i : Nat) : Prop := i < c.vl ∧ ¬ (w.m = true ∧ bitOf s.me.vregs 0 i = false)

/-- What the retirement of a convoy of one word makes of a strand: the sequencer stands at the next word. -/
def Strand.nextWord (t : Strand) (vpc : Word) : Strand :=
  { t with queue := (match t.queue with | q :: qs => { q with vpc := vpc + 8 } :: qs | [] => []),
           issued := none, vwaitDone := [], vwaitAt := 0, timedOut := false,
           parked := if t.parked = .vwait then .no else t.parked }

/-- The word `i` completes: its convoy retires, the vector registers change from m to an m' with P m m', and nothing else of
the state changes. -/
def VComputes (s : State) (i : Instr) (c : VCtx) (P : Image → Image → Prop) : Prop :=
  ∃ m', exec i s = .next { s with me := { s.me.nextWord c.addr with vregs := m' } } ∧ P s.me.vregs m'

end Sys2Proof.Machine
end

