-- ==== Sys2Proof/Certificates/Slice0/Obligations.lean ====
section
/-! DEFINITION. The statements for the provers. -/
open Sys2Proof Sys2Proof.Machine

/-- R92: every word of the ALU family writes the 64 bits of its exact result into x[d], reads its operands before it writes,
faults on nothing, and leaves everything else. SHIFT amounts are the low six bits of the second operand. -/
def AluResults : Prop := ∀ (s : State) (d a b : Reg), s.issues [d, a, b] →
  let x := s.xget a
  let y := s.xget b
  Computes s (.add d a b) d (BitVec.ofNat 64 (x.toNat + y.toNat)) ∧
  Computes s (.sub d a b) d (BitVec.ofInt 64 (x.toInt - y.toInt)) ∧
  Computes s (.and d a b) d (BitVec.ofNat 64 (x.toNat &&& y.toNat)) ∧
  Computes s (.or d a b) d (BitVec.ofNat 64 (x.toNat ||| y.toNat)) ∧
  Computes s (.xor d a b) d (BitVec.ofNat 64 (x.toNat ^^^ y.toNat)) ∧
  Computes s (.andn d a b) d (BitVec.ofNat 64 (x.toNat &&& (2 ^ 64 - 1 - y.toNat))) ∧
  Computes s (.sll d a b) d (BitVec.ofNat 64 (x.toNat * 2 ^ (y.toNat % 64))) ∧
  Computes s (.srl d a b) d (BitVec.ofNat 64 (x.toNat / 2 ^ (y.toNat % 64))) ∧
  Computes s (.sra d a b) d (BitVec.ofInt 64 (x.toInt / 2 ^ (y.toNat % 64))) ∧
  Computes s (.slt d a b) d (if x.toInt < y.toInt then 1 else 0) ∧
  Computes s (.sltN d a b) d (if x.toNat < y.toNat then 1 else 0) ∧
  Computes s (.min d a b) d (BitVec.ofInt 64 (min x.toInt y.toInt)) ∧
  Computes s (.max d a b) d (BitVec.ofInt 64 (max x.toInt y.toInt)) ∧
  Computes s (.minN d a b) d (BitVec.ofNat 64 (min x.toNat y.toNat)) ∧
  Computes s (.maxN d a b) d (BitVec.ofNat 64 (max x.toNat y.toNat)) ∧
  Computes s (.mul d a b) d (BitVec.ofInt 64 (x.toInt * y.toInt)) ∧
  Computes s (.mulh d a b) d (BitVec.ofInt 64 (x.toInt * y.toInt / 2 ^ 64)) ∧
  Computes s (.mulhN d a b) d (BitVec.ofNat 64 (x.toNat * y.toNat / 2 ^ 64)) ∧
  Computes s (.div d a b) d (BitVec.ofInt 64 (
    if y = 0 then (if 0 < x.toInt then 2 ^ 63 - 1 else if x.toInt < 0 then -(2 ^ 63) else 0)
    else if x.toInt = -(2 ^ 63) ∧ y.toInt = -1 then 2 ^ 63 - 1
    else x.toInt.tdiv y.toInt)) ∧
  Computes s (.rem d a b) d (BitVec.ofInt 64 (
    if y = 0 then 0
    else if x.toInt = -(2 ^ 63) ∧ y.toInt = -1 then 0
    else x.toInt - x.toInt.tdiv y.toInt * y.toInt)) ∧
  Computes s (.divN d a b) d (BitVec.ofNat 64 (
    if y = 0 then (if 0 < x.toNat then 2 ^ 64 - 1 else 0) else x.toNat / y.toNat)) ∧
  Computes s (.remN d a b) d (BitVec.ofNat 64 (if y = 0 then 0 else x.toNat % y.toNat)) ∧
  -- the count of leading zero bits, of trailing zero bits, and of one bits
  (∃ n, Computes s (.clz d a) d (BitVec.ofNat 64 n) ∧ n ≤ 64 ∧ x.toNat < 2 ^ (64 - n) ∧
    (n = 64 ∨ 2 ^ (63 - n) ≤ x.toNat)) ∧
  (∃ n, Computes s (.ctz d a) d (BitVec.ofNat 64 n) ∧ n ≤ 64 ∧ 2 ^ n ∣ x.toNat ∧ (n = 64 ∨ ¬ 2 ^ (n + 1) ∣ x.toNat)) ∧
  Computes s (.popc d a) d (BitVec.ofNat 64 ((List.range 64).countP fun k => x.getLsbD k))

/-- R93: the immediate words write the 64 bits of their exact result into x[d] and leave everything else. -/
def ImmediateResults : Prop := ∀ (s : State) (d a : Reg) (i : BitVec 16) (k : BitVec 6), s.issues [d, a] →
  let x := s.xget a
  Computes s (.addi d a i) d (BitVec.ofInt 64 (x.toInt + i.toInt)) ∧
  Computes s (.andi d a i) d (BitVec.ofNat 64 (x.toNat &&& i.toNat)) ∧
  Computes s (.ori d a i) d (BitVec.ofNat 64 (x.toNat ||| i.toNat)) ∧
  Computes s (.xori d a i) d (BitVec.ofNat 64 (x.toNat ^^^ i.toNat)) ∧
  Computes s (.slli d a k) d (BitVec.ofNat 64 (x.toNat * 2 ^ k.toNat)) ∧
  Computes s (.srli d a k) d (BitVec.ofNat 64 (x.toNat / 2 ^ k.toNat)) ∧
  Computes s (.srai d a k) d (BitVec.ofInt 64 (x.toInt / 2 ^ k.toNat)) ∧
  Computes s (.slti d a i) d (if x.toInt < i.toInt then 1 else 0) ∧
  Computes s (.sltiN d a i) d (if x.toNat < i.toNat then 1 else 0) ∧
  Computes s (.lui d i) d (BitVec.ofInt 64 (i.toInt * 65536)) ∧
  Computes s (.addpc d i) d (BitVec.ofInt 64 (s.me.pc.toInt + i.toInt))

/-- What a scalar read of n bytes at p gives before the strand's own stores are laid over it: memory, or the line as the core's
scalar data cache holds it (R225; log 97 says when). -/
def CacheSees (u : State) (p : Probed) (at_ : Nat → Byte) : Prop :=
  at_ = u.byte ∨ (p.device = false ∧ ∃ img, (u.core u.me.core).cachedLine (lineOf p.pa) = some img ∧
    at_ = fun a => imgGet img a ^^^ unlisted a)

/-- A read of n bytes may be made at p: no poison, no write to the slow tier on its way, and the module can be reached (R94,
R380, R383). -/
def Readable (u : State) (pa : Nat) : Prop :=
  u.badLine pa = false ∧ u.slowPending pa = false ∧ ∀ m, u.region pa = .remote m → u.portOpen m = true

/-- No FENCE.C of the executing strand is incomplete (R110), and none of its TMOVEs waits to commit (R155). -/
abbrev ScalarGoes (u : State) : Prop :=
  (∀ k ∈ u.me.debts, k.all = false) ∧ ∀ m ∈ u.moves, m.owner = u.me.owner → m.path ≠ 5

/-- A load of n bytes at va completes: the strand's own moves have committed and its fences that can have acted (u), the address
is a multiple of n and passes translation, tethers and the slot compare, is a tag register only for 8 bytes, and may be read, and
no store of the strand is held at its line (R255). -/
def Loads (s : State) (i : Instr) (d : Reg) (va : Word) (n : Nat) (value : Nat → Word) : Prop :=
  let u := s.settleFirst
  ScalarGoes u → ∀ p : Probed, va.toNat % n = 0 → u.probeRead u.me.ptroot va true = .ok p →
    ((∃ c, u.region p.pa = .tagWindow c) → n = 8) → Readable u p.pa →
    (∀ h ∈ u.heldWrites, h.core = u.me.core → h.entry.slot = u.me.slot → h.entry.path = 5 → h.line ≠ lineOf p.pa) →
    ∃ t at_, exec i s = .next t ∧ CacheSees u p at_ ∧
      (∀ r, t.xget r = if r = d ∧ d ≠ 0 then value (leNat (u.layOver u.ownSbuf at_ p.pa n)) else s.xget r) ∧
      (u.ownSbuf = [] → u.layOver u.ownSbuf at_ p.pa n = (List.range n).map fun j => at_ (p.pa + j)) ∧
      t = { u with mem := t.mem, tlb := t.tlb, cores := t.cores, out := t.out,
                   me := { u.me with x := t.me.x, pc := s.me.pc + 4 } } ∧
      -- a line that is neither device memory nor of the slow tier then stands in the cache; nothing else of a core changes
      (p.device = false → u.region p.pa ≠ .slow → ((t.core u.me.core).cachedLine (lineOf p.pa)).isSome = true) ∧
      (∀ k, k ≠ u.me.core → t.core k = u.core k) ∧
      t.core u.me.core = { u.core u.me.core with dcache := (t.core u.me.core).dcache, invals := (t.core u.me.core).invals } ∧
      (u.region p.pa ≠ .slow → t.out = u.out) ∧
      -- all of memory stays but for the ARM bit of an armed slot that the load read (R224)
      (∀ q, (∀ tag, u.slotTag p.pa = some tag → u.canon q ≠ u.canon (tag + 14)) → t.byte q = u.byte q)

/-- R94, R95, R225: every load writes the bytes at EA, as the strand's own buffered stores and the data cache or memory give them,
sign-extended, zero-extended or as read, and leaves everything else but the TLB, the cache and the ARM bit of a slot.
The model's own choices in it: log 34, 97. -/
def Obligations.LoadResults : Prop := ∀ (s : State) (d a : Reg) (i : BitVec 16), s.issues [d, a] →
  let va := s.xget a + i.signExtend 64
  Loads s (.ldI64 d a i) d va 8 (fun v => BitVec.ofNat 64 v) ∧
  Loads s (.ldI8 d a i) d va 1 (fun v => (BitVec.ofNat 8 v).signExtend 64) ∧
  Loads s (.ldI16 d a i) d va 2 (fun v => (BitVec.ofNat 16 v).signExtend 64) ∧
  Loads s (.ldI32 d a i) d va 4 (fun v => (BitVec.ofNat 32 v).signExtend 64) ∧
  Loads s (.ldN8 d a i) d va 1 (fun v => (BitVec.ofNat 8 v).zeroExtend 64) ∧
  Loads s (.ldN16 d a i) d va 2 (fun v => (BitVec.ofNat 16 v).zeroExtend 64) ∧
  Loads s (.ldN32 d a i) d va 4 (fun v => (BitVec.ofNat 32 v).zeroExtend 64)

/-- A byte at a final address as the executing strand sees it: its own buffered stores over memory (R96). -/
def ownSees (s : State) (q : Nat) : Byte := s.byteOver s.ownSbuf q (s.byte q)

/-- A store of n bytes of x[src] at va completes: what it waits for is done (u), the address is a multiple of n and may be
written, and a tag register is written by 8 bytes of a legal value, TAGW only with no block queued, no write of the strand or of its
copy commands held, none of its copy commands waiting on the slot, and no copy fault posted for a command that writes it. It enters the store buffer; when the buffer is full its oldest entry
leaves first. -/
def Stores (s : State) (i : Instr) (src : Reg) (va : Word) (n : Nat) : Prop :=
  let u := s.beforeStore va n
  let c := u.core u.me.core
  let v := (s.xget src).toNat % 256 ^ n
  ScalarGoes u → ∀ p : Probed, va.toNat % n = 0 → u.probe u.me.ptroot va .write true = .ok p →
    p.pa % n = 0 →
    ((∃ k, u.region p.pa = .tagWindow k) → n = 8 ∧
      (p.pa % 16 = 0 → v < 65536 ∧ u.me.queue = [] ∧
        u.stillHeld u.me.core u.me.slot (fun o => o.path ≤ 5 || o.path = cpyPath) = false ∧
        (∀ q ∈ u.copyQueue (clusterOf u.me.core), q.owner = u.me.owner → p.pa ∉ u.destSlots q ∧ p.pa ∉ u.srcSlots q) ∧
        ∀ f ∈ u.me.postedCpy, p.pa ∉ f.slots) ∧
      (p.pa % 16 ≠ 0 → v / 2 ^ 49 = 0 ∧ v % 2 ^ 32 = 0)) →
    let room := sbufEntries c.sbuf < 16 ∨ ∃ y, c.sbuf.getLast? = some y ∧ y.pa = p.pa / 8 * 8
    ∃ t w e, exec i s = .next t ∧
      -- with room nothing leaves the buffer, else its oldest entry does (log 55)
      (room → w = u) ∧ (¬ room → exec (.storeBufferDrain u.me.core) u = .next w) ∧
      t = { w with cores := t.cores, tlb := t.tlb, me := { u.me with pc := s.me.pc + 4 } } ∧
      (∀ k, k ≠ u.me.core → t.core k = w.core k) ∧
      t.core u.me.core = { w.core u.me.core with sbuf := (t.core u.me.core).sbuf } ∧
      -- the youngest entry holds the store, in the strand's slot and colour VTYPE.CLR; without room it is a new one
      (t.core u.me.core).sbuf.getLast? = some e ∧ (¬ room → (t.core u.me.core).sbuf = (w.core u.me.core).sbuf ++ [e]) ∧
      e.slot = s.me.slot ∧ e.pa = p.pa / 8 * 8 ∧ e.colour = s.me.ctl.vtype.toNat / 2 ^ 21 % 8 ∧ e.via = p.via ∧
      (∀ j, j < n → e.bytes[p.pa % 8 + j]? = some ((leBytes n v).getD j 0, 0xFF)) ∧
      -- the strand sees its store and nothing else changed
      (room → (∀ j, j < n → ownSees t (p.pa + j) = (leBytes n v).getD j 0) ∧
        ∀ q, (∀ j, j < n → q ≠ p.pa + j) → ownSees t q = ownSees u q)

/-- R94, R96, R226: every store enters the store buffer with the bytes of TRUNC(x[XD], 8n) and the strand's colour, and until it
leaves only the strand's own loads see it.
The model's own choices in it: log 34, 55. -/
def StoreWordResults : Prop := ∀ (s : State) (src a : Reg) (i : BitVec 16), s.issues [src, a] →
  let va := s.xget a + i.signExtend 64
  Stores s (.stI8 src a i) src va 1 ∧ Stores s (.stI16 src a i) src va 2 ∧
  Stores s (.stI32 src a i) src va 4 ∧ Stores s (.stI64 src a i) src va 8

/-- R96, R143: when a store leaves its queue it is performed at the line where its address ends: every byte that its masks name
takes the store's bits, other memory stays, and the queue is shorter by it. Bytes that only the hardware writes keep their
values, and OVF of a trap queue only falls (R282, R331, R359). A store to the slow tier is sent to the host, 64 bytes at a time, and
waits for its answer (R380). Stated for a store that lies in one line, where no move is in transit and no store before it is held. -/
def StoreLeavesItsQueue : Prop := ∀ (s : State) (k : Nat) (e : StoreEntry) (es : List StoreEntry), k < 256 →
  let pa := s.follow e.pa
  s.tether pa = .plain → e.path ≤ 5 → (∀ h ∈ s.heldWrites, ¬ (h.core = k ∧ h.entry.path = e.path)) →
  (e.path = 4 → ∀ w ∈ s.portHeld, ¬ (w.origin.core = some k ∧ w.origin.slot = e.slot ∧ w.origin.path = 4)) →
  (∀ m, s.region pa = .remote m → s.portOpen m = true) →
  (∀ j, j < e.bytes.length → s.canon (pa + j) = pa + j) → pa % 128 + e.bytes.length ≤ 128 →
  let performed := fun (t : State) =>
    (∀ j v mask, e.bytes[j]? = some (v, mask) →
      let old := s.byte (pa + j)
      let new := if s.isOvf (pa + j) then v &&& (old ||| 0x7F) else v
      t.byte (pa + j) = if s.hwOnly (pa + j) then old else (old &&& ~~~mask) ||| (new &&& mask)) ∧
    (∀ q, (∀ j, j < e.bytes.length → s.canon q ≠ pa + j) → t.byte q = s.byte q) ∧
    t = { s with mem := t.mem, cores := t.cores, lines := t.lines, windows := t.windows, snoopFilter := t.snoopFilter,
                 out := t.out }
  let origin : Origin := { core := some k, slot := e.slot, path := e.path, colour := e.colour, via := e.via }
  let request := fun (a : Nat) (bs : List (Byte × Byte)) (heal : Bool) =>
    ({ module_ := 64, addr := a, bytes := bs, heal := heal, origin := origin } : PortWrite)
  let room := 64 - pa % 64
  let sent := fun (t : State) =>
    (e.bytes.length ≤ room → t = { s with cores := t.cores, out := s.out ++ [.cxl .wrCur (pa / 64 * 64)],
                                          portHeld := s.portHeld ++ [request pa e.bytes (e.last es).heal] }) ∧
    (room < e.bytes.length → t = { s with
      cores := t.cores, out := s.out ++ [.cxl .wrCur (pa / 64 * 64), .cxl .wrCur (pa / 64 * 64 + 64)],
      portHeld := s.portHeld ++ [request pa (e.bytes.take room) (e.last es).heal,
                                 request (pa + room) (e.bytes.drop room) false] })
  let leaves := fun (t : State) => (s.region pa ≠ .slow → performed t) ∧ (s.region pa = .slow → sent t)
  ((s.core k).sbuf = e :: es → (∀ y, es.head? = some y → y.joined = false) →
    ∃ t, exec (.storeBufferDrain k) s = .next t ∧ (t.core k).sbuf = es ∧ leaves t) ∧
  ((s.core k).squeue = e :: es →
    ∃ t, exec (.sliceStoreQueueDrain k e.path) s = .next t ∧ (t.core k).squeue = es ∧ leaves t)

/-- Where an atomic of n bytes at va acts, and that it does: the strand's own moves have committed and its fences that can have
acted (u), a move of the line has committed, and the strand's buffered stores to the line (with RL every one) have been performed
(v); the line is plain, may be read, and holds no slot whose tag differs; with RL no fence of FENCE.X is incomplete and no scalar
write or move of the strand is held. ARM of a slot that it reads becomes 0 (w). -/
def AtomicAt (s w : State) (va : Word) (n pa : Nat) (rl : Bool) : Prop :=
  let u := s.settleFirst
  ScalarGoes u ∧ ∃ (p : Probed) (v : State), va.toNat % n = 0 ∧ u.probe u.me.ptroot va .write false = .ok p ∧ u.slotMismatch p.pa = false ∧
    pa = (u.settle p.pa).2 ∧
    v = (u.settle p.pa).1.drainSbuf s.me.core
      (fun e => e.slot = s.me.slot && (rl || lineOf ((u.settle p.pa).1.follow e.pa) = lineOf pa)) ∧
    v.tether pa = .plain ∧ Readable v pa ∧
    (rl = true → (∀ k ∈ u.me.debts, k.next = none) ∧ v.stillHeld s.me.core s.me.slot (fun o => o.path = 5) = false) ∧
    w = v.disarm pa ∧ pa % n = 0 ∧ w.plainBytes pa n

/-- An atomic of n bytes completes: x[d] takes the old value (sign-extended from 4 bytes), memory the new one. -/
def Atomics (s : State) (i : Instr) (d a b : Reg) (n : Nat) (rl : Bool) (new : BitVec (8 * n) → BitVec (8 * n) → BitVec (8 * n) →
    Option (BitVec (8 * n))) : Prop :=
  ∀ w pa, AtomicAt s w (s.xget a) n pa rl →
    let old := BitVec.ofNat (8 * n) (w.natAt pa n)
    ∃ t, exec i s = .next t ∧
      (∀ r, t.xget r = if r = d ∧ d ≠ 0 then old.signExtend 64 else s.xget r) ∧
      (match new old ((s.xget b).truncate (8 * n)) ((s.xget d).truncate (8 * n)) with
       | some v => w.stored t pa n v.toNat
       | none => w.sameBytes t) ∧
      w.sameCores t ∧
      t = { w with mem := t.mem, tlb := t.tlb, cores := t.cores, windows := t.windows, snoopFilter := t.snoopFilter,
                   out := t.out, me := { w.me with x := t.me.x, pc := s.me.pc + 4 } }

/-- The forms of one atomic: 4 and 8 bytes, with and without AQ and RL, of every scope. -/
def AtomicForms (s : State) (f : BitVec 2 → Bool → Bool → BitVec 3 → Instr) (d a b : Reg)
    (new : {w : Nat} → BitVec w → BitVec w → BitVec w → Option (BitVec w)) : Prop :=
  ∀ (q l : Bool) (scope : BitVec 3),
    Atomics s (f 2 q l scope) d a b 4 l new ∧ Atomics s (f 3 q l scope) d a b 8 l new

/-- R101: every scalar atomic returns the old value and stores the new one that its operation gives; a failed AMOCAS writes
nothing.
The model's own choices in it: log 3, 34. -/
def AtomicWordResults : Prop := ∀ (s : State) (d a b : Reg), s.issues [d, a, b] →
  AtomicForms s (.amoswap d a b) d a b (fun _ y _ => some y) ∧
  AtomicForms s (.amoadd d a b) d a b (fun o y _ => some (o + y)) ∧
  AtomicForms s (.amoand d a b) d a b (fun o y _ => some (o &&& y)) ∧
  AtomicForms s (.amoor d a b) d a b (fun o y _ => some (o ||| y)) ∧
  AtomicForms s (.amoxor d a b) d a b (fun o y _ => some (o ^^^ y)) ∧
  AtomicForms s (.amomin d a b) d a b (fun o y _ => some (if y.toInt < o.toInt then y else o)) ∧
  AtomicForms s (.amomax d a b) d a b (fun o y _ => some (if o.toInt < y.toInt then y else o)) ∧
  AtomicForms s (.amominN d a b) d a b (fun o y _ => some (if y.toNat < o.toNat then y else o)) ∧
  AtomicForms s (.amomaxN d a b) d a b (fun o y _ => some (if o.toNat < y.toNat then y else o)) ∧
  AtomicForms s (.amocas d a b) d a b (fun o y x => if o = x then some y else none)

/-- R112: CLAIM takes g = min(request, limit - index) iterations of the record, 0 past the limit, advances the record by g,
writes the index into x[d] and g into VL; an exhausted record is only read. In replay it returns the captured pair, and goes on as
an ordinary one when the ring holds no further pair (R367; the model's choice: log 105). While CAPTURE.CAP is 1 it is followed by
the append of its record (R366), stated elsewhere. -/
def ClaimResult : Prop := ∀ (s : State) (d a b : Reg), s.issues [d, a, b] →
  ∀ w pa, AtomicAt s w (s.xget a) 16 pa false →
    let base := w.natAt pa 8
    let lim := w.natAt (pa + 8) 8
    let req := min (s.xget b).toNat s.me.ctl.mvl.toNat
    let g := if base < lim then min req (lim - base) else 0
    let takes := fun (index share : Nat) => ∃ t, exec (.claim d a b) s = .next t ∧
      (∀ r, t.xget r = if r = d ∧ d ≠ 0 then BitVec.ofNat 64 index else s.xget r) ∧
      t.me.ctl = { s.me.ctl with vl := BitVec.ofNat 64 share } ∧
      (s.capture.getLsbD 0 = false ∨ s.ring (.capture (dieOf s.me.core)) = none →
        (share ≠ 0 → w.stored t pa 8 (index + share)) ∧ (share = 0 → w.sameBytes t) ∧ w.sameCores t ∧
        t = { w with mem := t.mem, tlb := t.tlb, cores := t.cores, windows := t.windows, snoopFilter := t.snoopFilter,
                     out := t.out, replayAt := t.replayAt,
                     me := { w.me with x := t.me.x, ctl := t.me.ctl, pc := s.me.pc + 4 } } ∧
        (s.capture.getLsbD 1 = false → t.replayAt = s.replayAt))
    (s.capture.getLsbD 1 = false → takes base g) ∧
    (s.capture.getLsbD 1 = true → ∀ r, w.replayClaim = some r → takes r.1 r.2.1) ∧
    (s.capture.getLsbD 1 = true → w.replayClaim = none → takes base g)

/-- R99: ADDR.EQ compares where 1-byte reads of the two addresses end, and reads no data. The strand's earlier scalar stores and
moves are performed first (u), and none of them still waits. -/
def AddrEqResult : Prop := ∀ (s : State) (d a b : Reg), s.issues [d, a, b] →
  let u := s.beforeMove
  ScalarGoes u → u.stillHeld s.me.core s.me.slot (fun o => o.path = 5) = false →
  ∀ p q : Probed, u.probeRead u.me.ptroot (s.xget a) true = .ok p → u.probeRead u.me.ptroot (s.xget b) true = .ok q →
    (∀ k, u.region p.pa ≠ .tagWindow k) → (∀ k, u.region q.pa ≠ .tagWindow k) →
    ∃ t, exec (.addrEq d a b) s = .next t ∧ u.wrote t d (if p.pa = q.pa then 1 else 0) (s.me.pc + 4)

/-- A fence takes its effect: the word is done, and its debt d stands among the strand's while its earlier side is not complete
(`unpaid`). Once no queued block owes it work, the VEC and MAT stores that it waits for have left their queues, but where a MAT
store must wait for one that is not performed (R162); once it is complete, the fences that apply invalidations have applied all that
the core received (R225). Copy and gather commands that fences wait for run, and may post a fault (R109 to R111). -/
def Owed (s t : State) (d : Debt) : Prop :=
  let d := { d with blocks := s.me.queue.length, before := s.free }
  t.me = { s.me with pc := s.me.pc + 4, debts := (s.me.debts ++ [d]).filter t.unpaid,
                     postedCpy := t.me.postedCpy, postedStk := t.me.postedStk } ∧
  ((∀ k ∈ s.me.debts ++ [d], k.cpy = false ∧ k.stk = false) →
    t.me.postedCpy = s.me.postedCpy ∧ t.me.postedStk = s.me.postedStk) ∧
  t.owes d = s.owes d ∧
  (t.owes d = false → ∀ e ∈ (t.core s.me.core).squeue, e.slot = s.me.slot → d.covers e.path e.colour = true →
    ∃ x ∈ (t.core s.me.core).squeue, x.path = 4) ∧
  (t.unpaid d = false → d.all = true ∨ d.next ≠ none → (t.core s.me.core).invals = [])

/-- R109 to R111, R208: a fence leaves the registers, and all but FVS let the scalar stream go on. FSV leaves no scalar store of the
strand in the store buffer. FVS, with every block retired, leaves none of its vector or MAT stores in a queue, but where a MAT store
must wait for one that is not performed; it waits for a write or a move that is held. FENCE.C leaves no scalar store of a named colour
in the buffer, and owes the VEC ones; FVV, and FENCE.X of class VEC, MAT or COL, owe their class. FENCE.X CPY and STK let the strand's
commands run and take a fault posted for one, the first, else owe those that wait.
The model's own choices in it: log 34, 98, 99. -/
def FenceResults : Prop := ∀ (s : State), s.issues [] →
  let core := s.me.core
  let slot := s.me.slot
  let vector := (s.settleOwn.drainSqueue core fun e => e.slot = slot).settleHeld core slot
  let copied := s.settleOwn.settleCopies (clusterOf core) (fun c => c.owner = s.me.owner)
  let running := (s.collectives.filter fun c => c.owner = s.me.owner && c.status = none).map (·.ticket)
  let gathered := s.settleOwn.settleStacks s.me.owner
  let posted := fun (k : FaultKind) (p : Posted) => ({ kind := k, detail := p.detail, posted := some p } : FaultInfo)
  (∃ t, exec .fsv s = .next t ∧ Owed s t { blocks := 0, fsv := true } ∧
    ∀ e ∈ (t.core core).sbuf, e.slot = slot → e.path ≠ 5) ∧
  (∀ e ∈ (vector.core core).squeue, e.slot = slot → ∃ x ∈ (vector.core core).squeue, x.path = 4) ∧
  (s.me.queue = [] → exec .fvs s = .next (if vector.stillHeld core slot (fun o => o.path < 5) then s
    else { vector.applyInvals core with me := { vector.me with pc := s.me.pc + 4 } })) ∧
  (s.me.queue ≠ [] → exec .fvs s = .next s) ∧
  (∃ t, exec .fvv s = .next t ∧ Owed s t { blocks := 0, vec := true }) ∧
  (∀ scope mask, ∃ t, exec (.fenceC scope mask) s = .next t ∧ Owed s t { blocks := 0, colours := mask.toNat, all := true } ∧
    ∀ e ∈ (t.core core).sbuf, e.slot = slot → mask.toNat.testBit e.colour = false) ∧
  (∀ scope (b : BitVec 3),
    (∃ t, exec (.fenceX scope 0 b) s = .next t ∧ Owed s t { blocks := 0, vec := true, next := some b.toNat }) ∧
    (∃ t, exec (.fenceX scope 1 b) s = .next t ∧ Owed s t { blocks := 0, mat := true, next := some b.toNat }) ∧
    (∃ t, exec (.fenceX scope 4 b) s = .next t ∧
      Owed s t { blocks := 0, col := true, cols := running, next := some b.toNat })) ∧
  (∀ scope b,
    (copied.me.postedCpy = [] → ∃ t, exec (.fenceX scope 2 b) s = .next t ∧
      Owed copied t { blocks := 0, cpy := true, next := some b.toNat }) ∧
    (∀ p ps, copied.me.postedCpy = p :: ps → exec (.fenceX scope 2 b) s =
      .next (copied.takeTrap (posted .cpyElement p) s.me.pc false 0))) ∧
  (∀ scope b,
    (gathered.me.postedStk = [] → ∃ t, exec (.fenceX scope 3 b) s = .next t ∧
      Owed gathered t { blocks := 0, stk := true, next := some b.toNat }) ∧
    (∀ p ps, gathered.me.postedStk = p :: ps → exec (.fenceX scope 3 b) s =
      .next (gathered.takeTrap (posted .stkElement p) s.me.pc false 0)))

/-- R97, R98: a branch goes to PC + 4 × OFF16 exactly when its comparison holds, and to the next word otherwise; JAL and JALR
write the link and jump; a JALR target that is no multiple of 4 raises MISALIGNED and leaves the link. -/
def BranchAndJumpResults : Prop := ∀ (s : State) (d a b : Reg) (o i : BitVec 16) (j : BitVec 21),
  s.issues [d, a, b] →
  let goes := fun (e : Instr) (p : Prop) =>
    (p → exec e s = .next { s with me := { s.me with pc := BitVec.ofInt 64 (s.me.pc.toInt + 4 * o.toInt) } }) ∧
    (¬ p → exec e s = .next { s with me := { s.me with pc := s.me.pc + 4 } })
  let x := s.xget a
  let y := s.xget b
  let target := BitVec.ofInt 64 (x.toInt + i.toInt)
  goes (.beq a b o) (x = y) ∧ goes (.bne a b o) (x ≠ y) ∧ goes (.blt a b o) (x.toInt < y.toInt) ∧
  goes (.bltN a b o) (x.toNat < y.toNat) ∧ goes (.bge a b o) (y.toInt ≤ x.toInt) ∧ goes (.bgeN a b o) (y.toNat ≤ x.toNat) ∧
  (∃ t, exec (.jal d j) s = .next t ∧ s.wrote t d (s.me.pc + 4) (BitVec.ofInt 64 (s.me.pc.toInt + 4 * j.toInt))) ∧
  (target.toNat % 4 = 0 → ∃ t, exec (.jalr d a i) s = .next t ∧ s.wrote t d (s.me.pc + 4) target) ∧
  (target.toNat % 4 ≠ 0 →
    exec (.jalr d a i) s = .next (s.takeTrap { kind := .misaligned, addr := target } s.me.pc false 0))

/-- The shape that the applying step of SETVL, STRIP and VWHILE leaves (R32, R103): the recorded grant and the pending NREG are
in force, every VTYPE bit above NREG stays, registers keep the bytes that exist before and after, the others read 0 when they
come into existence, and skeins of registers that cease to exist are dropped. -/
def Shaped (s t : Strand) : Prop :=
  t.cur = s.recd ∧ t.pend = false ∧ vtypeNreg t.ctl.vtype = s.pendNreg % 4 ∧
  (∀ k, 4 ≤ k → t.ctl.vtype.getLsbD k = s.ctl.vtype.getLsbD k) ∧
  t.ctl.mvl = BitVec.ofNat 64 (regBytes s.recd t.ctl.vtype / (lewOf t.ctl.vtype / 8)) ∧
  (s.reshapes = false → t.vregs = s.vregs ∧ t.skeins = s.skeins) ∧
  (s.reshapes = true →
    t.skeins = s.skeins.filter (fun k => k.reg < min (nregOf s.ctl.vtype) (nregOf t.ctl.vtype)) ∧
    ∀ r b, b < 65536 → imgGet t.vregs (65536 * r + b) =
      if r < nregOf s.ctl.vtype ∧ r < nregOf t.ctl.vtype ∧ b < regBytes s.cur s.ctl.vtype ∧ b < regBytes s.recd t.ctl.vtype
      then imgGet s.vregs (65536 * r + b) else 0)

/-- R103, R104: SETVL sets EW, applies the shape, sets MVL to RB / (LEW / 8) and VL to the lesser of x[a] and MVL, and writes VL
into x[d]; it waits for earlier blocks only when the shape changes. VCONF records the pending NREG and changes nothing else. -/
def ShapeResults : Prop := ∀ (s : State) (d a : Reg) (e n : BitVec 2), s.issues [d, a] →
  (s.me.reshapes = false ∨ s.me.queue = [] → ∃ t, exec (.setvl d a e) s = .next t ∧
    vtypeEw t.me.ctl.vtype = e.toNat ∧ Shaped s.me t.me ∧
    t.me.ctl.vl = BitVec.ofNat 64 (min (s.xget a).toNat t.me.ctl.mvl.toNat) ∧
    (∀ r, t.xget r = if r = d ∧ d ≠ 0 then t.me.ctl.vl else s.xget r) ∧
    t = { s with me := { s.me with
      x := t.me.x, pc := s.me.pc + 4, cur := s.me.recd, pend := false, left := t.me.left, vregs := t.me.vregs,
      skeins := t.me.skeins, early := t.me.early,
      ctl := { s.me.ctl with vtype := t.me.ctl.vtype, mvl := t.me.ctl.mvl, vl := t.me.ctl.vl } } }) ∧
  (s.me.reshapes = true ∧ s.me.queue ≠ [] → exec (.setvl d a e) s = .next s) ∧
  exec (.vconf n) s = .next { s with me := { s.me with pendNreg := n.toNat, pc := s.me.pc + 4 } }

/-- Pointer register and size code of entry e of STRIPCFG (R39), and the bytes that c elements advance it by (R105). -/
def stripPtr (cfg : Word) (e : Nat) : Reg := BitVec.ofNat 5 (cfg.toNat / 2 ^ (8 * e + 3))
def stripAdv (cfg : Word) (e c : Nat) : Nat :=
  let sz := cfg.toNat / 2 ^ (8 * e) % 8
  if sz = 4 then (c + 1) / 2 else c * 2 ^ sz

/-- x[r] after the count and pointer steps of STRIP for c elements (R105). -/
def stripped (s : State) (a : Reg) (c : Nat) (r : Reg) : Word :=
  if r = 0 then 0
  else (if r = a then BitVec.ofNat 64 ((s.xget a).toNat - c) else s.xget r) +
    ((List.range 4).map fun e =>
      if stripPtr s.me.ctl.stripcfg e = r then BitVec.ofNat 64 (stripAdv s.me.ctl.stripcfg e c) else 0).sum

/-- SBASE after them. -/
def strippedBase (s : State) (c : Nat) : Word :=
  if s.me.ctl.stripcfg.getLsbD 32 then s.me.ctl.sbase + BitVec.ofNat 64 c else s.me.ctl.sbase

/-- The registers that a loop step of count register a touches. -/
def stripRegs (s : State) (a : Reg) : List Reg := a :: (List.range 4).map (stripPtr s.me.ctl.stripcfg)

/-- R105: STRIP consumes VL elements: it lowers the count, advances the pointers and SBASE, applies the shape, grants the new VL,
writes it into x[b] and branches while it is not 0. With VL 0 it has no effect but to fall through; where the shape changes it
waits for earlier blocks. Early work stands only while the outcome is the one it assumed (R215). -/
def StripResult : Prop := ∀ (s : State) (a b : Reg) (o : BitVec 16),
  (s.me.ctl.vl = 0 → s.issues [a, b] → exec (.strip a b o) s = .next { s with me := { s.me with pc := s.me.pc + 4 } }) ∧
  (s.me.ctl.vl ≠ 0 → s.me.reshapes = true → s.me.queue ≠ [] → exec (.strip a b o) s = .next s) ∧
  (s.me.ctl.vl ≠ 0 → s.issues (b :: stripRegs s a) → (s.me.reshapes = false ∨ s.me.queue = []) →
    let c := s.me.ctl.vl.toNat
    ∃ t, exec (.strip a b o) s = .next t ∧ Shaped s.me t.me ∧
      t.me.ctl.vl = BitVec.ofNat 64 (min (stripped s a c a).toNat t.me.ctl.mvl.toNat) ∧
      (∀ r, t.xget r = if r = b ∧ b ≠ 0 then t.me.ctl.vl else stripped s a c r) ∧
      t.me.pc = (if t.me.ctl.vl = 0 then s.me.pc + 4 else BitVec.ofInt 64 (s.me.pc.toInt + 4 * o.toInt)) ∧
      vtypeEw t.me.ctl.vtype = vtypeEw s.me.ctl.vtype ∧
      (∀ e, t.me.early = some e ↔
        s.me.early = some e ∧ s.me.reshapes = false ∧ e.ctl = t.me.ctl ∧ t.me.ctl.vl ≠ 0) ∧
      t = { s with me := { s.me with
        x := t.me.x, pc := t.me.pc, cur := s.me.recd, pend := false, left := t.me.left, vregs := t.me.vregs,
        skeins := t.me.skeins, early := t.me.early,
        ctl := { s.me.ctl with vtype := t.me.ctl.vtype, mvl := t.me.ctl.mvl, vl := t.me.ctl.vl,
                               sbase := strippedBase s c } } })

/-- The first element of vb below VL whose LEW bits are 0, VL if there is none (R106). -/
def FirstZero (s : State) (b : Reg) (k : Nat) : Prop :=
  let at_ := fun i => vreadImg s.me.vregs (regBytes s.me.cur s.me.ctl.vtype) b.toNat (lewOf s.me.ctl.vtype) i
  k ≤ s.me.ctl.vl.toNat ∧ (∀ i, i < k → at_ i ≠ 0) ∧ (k < s.me.ctl.vl.toNat → at_ k = 0)

/-- R106: VWHILE finds the first zero element k of vb, sets v0 bit i below VL to i < k, consumes k elements as STRIP does, and
either leaves VL = k and falls through, or grants the next VL and branches while it is not 0; EW stays. A register that is not declared
raises VREG-UNDECLARED, VL 0 falls through, and it waits for every earlier block.
The model's own choices in it: log 54. -/
def WhileResult : Prop := ∀ (s : State) (a b : Reg) (o : BitVec 16),
  (nregOf s.me.ctl.vtype ≤ b.toNat → s.issues [a] → exec (.vwhile a b o) s =
    .next (s.takeTrap { kind := .vregUndeclared, addr := BitVec.ofNat 64 b.toNat } s.me.pc false 0)) ∧
  (b.toNat < nregOf s.me.ctl.vtype → s.me.ctl.vl = 0 → s.issues [a] →
    exec (.vwhile a b o) s = .next { s with me := { s.me with pc := s.me.pc + 4 } }) ∧
  (b.toNat < nregOf s.me.ctl.vtype → s.me.ctl.vl ≠ 0 → s.issues (stripRegs s a) → s.me.queue ≠ [] →
    exec (.vwhile a b o) s = .next s) ∧
  (b.toNat < nregOf s.me.ctl.vtype → s.me.ctl.vl ≠ 0 → s.me.queue = [] → ∀ k, FirstZero s b k →
    ∃ t m, exec (.vwhile a b o) s = .next t ∧
      WroteBits s.me.vregs m 0 (fun i => i < s.me.ctl.vl.toNat) (fun i => decide (i < k)) ∧
      (∀ r, t.xget r = stripped s a k r) ∧ t.me.ctl.sbase = strippedBase s k ∧
      (k < s.me.ctl.vl.toNat → t = { s with me := { s.me with
        x := t.me.x, pc := s.me.pc + 4, vregs := m, early := none,
        ctl := { s.me.ctl with vl := BitVec.ofNat 64 k, sbase := t.me.ctl.sbase } } }) ∧
      (k = s.me.ctl.vl.toNat → Shaped { s.me with vregs := m } t.me ∧ vtypeEw t.me.ctl.vtype = vtypeEw s.me.ctl.vtype ∧
        t.me.ctl.vl = BitVec.ofNat 64 (min (stripped s a k a).toNat t.me.ctl.mvl.toNat) ∧
        (∀ e, t.me.early = some e ↔
          s.me.early = some e ∧ s.me.reshapes = false ∧ e.ctl = t.me.ctl ∧ t.me.ctl.vl ≠ 0) ∧
        t = { s with me := { s.me with
          x := t.me.x, cur := s.me.recd, pend := false, left := t.me.left, vregs := t.me.vregs, skeins := t.me.skeins,
          early := t.me.early,
          pc := if t.me.ctl.vl = 0 then s.me.pc + 4 else BitVec.ofInt 64 (s.me.pc.toInt + 4 * o.toInt),
          ctl := { s.me.ctl with vtype := t.me.ctl.vtype, mvl := t.me.ctl.mvl, vl := t.me.ctl.vl,
                                 sbase := t.me.ctl.sbase } } }))

/-- The register sets that VFETCH uses: those that the core's scan cache keeps for the block, else those of a scan (R206). -/
def ScannedAs (s : State) (target : Word) (c : Scan) : Prop :=
  let kept := (s.blockAddr target).bind fun a => (s.core s.me.core).scans.find? fun e => e.block = a
  match kept with
  | none => c = s.scan s.me.ctl.vtype target
  | some e => c.ok = true ∧ c.reads = e.reads ∧ c.writes = e.writes.map (fun p => (p.1, p.2 + target.toNat)) ∧
      c.work = e.work.map fun p => (p.1, p.2 + target.toNat)

/-- R73, R91, R206, R207, R215: VFETCH queues the block at PC + 4 × OFF21 with the control values in force and the scalar registers
it reads, and goes on; early reads made for this block under these control values become its reads. A target that is no multiple
of 8 raises ILLEGAL-ENCODING; a full queue stalls it, and so does a register of the block that an earlier block still has to
write. A large or broken block waits until no block is queued.
The model's own choices in it: log 49, 101. -/
def FetchResult : Prop := ∀ (s : State) (o : BitVec 21), s.issues [] →
  let target := BitVec.ofInt 64 (s.me.pc.toInt + 4 * o.toInt)
  ∀ c, ScannedAs s target c →
  let large := c.ok = false ∨ 16 < c.reads.length
  (target.toNat % 8 ≠ 0 → exec (.vfetch o) s =
    .next (s.takeTrap { kind := .illegalEncoding, addr := s.me.pc } s.me.pc false 0)) ∧
  (target.toNat % 8 = 0 → 8 ≤ s.me.queue.length → exec (.vfetch o) s = .next s) ∧
  (target.toNat % 8 = 0 → s.me.queue.length < 8 →
    ((large ∧ s.me.queue ≠ []) ∨ (¬ large ∧ ∃ r ∈ c.reads, s.me.pending r = true) → exec (.vfetch o) s = .next s) ∧
    ((large ∧ s.me.queue = []) ∨ (¬ large ∧ ∀ r ∈ c.reads, s.me.pending r = false) →
      ∃ t q, exec (.vfetch o) s = .next t ∧
        q.target = target ∧ q.vpc = target ∧ q.ctl = s.me.ctl ∧ (q.direct = true ↔ large) ∧ q.writes = c.writes ∧
        q.work = c.work ∧ (∀ r (h : r < 32), r ∈ c.reads ∨ large → (capsOf q)[r] = s.xget (BitVec.ofNat 5 r)) ∧
        (∀ e, s.me.early = some e → e.target = target → e.ctl = s.me.ctl → q.early = e.reads) ∧
        ((∀ e, s.me.early = some e → e.target ≠ target ∨ e.ctl ≠ s.me.ctl) → q.early = []) ∧
        (∀ k, t.core k = { s.core k with scans := (t.core k).scans }) ∧ (∀ k, k ≠ s.me.core → t.core k = s.core k) ∧
        t = { s with tlb := t.tlb, cores := t.cores,
                     me := { s.me with queue := s.me.queue ++ [q], early := none, pc := s.me.pc + 4 } }))

/-- CRRD of a selector completes with a value. -/
def CrReads (s : State) (d : Reg) (sel : BitVec 16) (v : Word) : Prop := Computes s (.crrd d sel) d v

/-- The word raises a fault of kind k with address a at itself, and has no effect. -/
def RaisesAt (s : State) (i : Instr) (k : FaultKind) (a : Word) : Prop :=
  exec i s = .next (s.takeTrap { kind := k, addr := a } s.me.pc false 0)

/-- R36, R42, R203, R300, R364: what CRRD reads from every selector, and the fault of each that it may not read. -/
def ControlRegistersRead : Prop := ∀ (s : State) (d : Reg), s.issues [d] →
  CrReads s d 0x0001 s.me.ctl.vl ∧ CrReads s d 0x0002 s.me.ctl.vtype ∧ CrReads s d 0x0003 s.me.ctl.seed ∧
  CrReads s d 0x0004 s.me.ctl.sbase ∧ CrReads s d 0x0005 s.me.ctl.stripcfg ∧ CrReads s d 0x0006 s.me.wid ∧
  CrReads s d 0x0007 s.me.ctl.mvl ∧ CrReads s d 0x0108 s.me.tcount ∧
  CrReads s d 0x0200 (if s.me.priv then 1 else 0) ∧
  -- TREC0 to TREC7 are the bytes of the last record
  (s.me.trec.length = 64 → ∀ k : Fin 8, ∃ v : Word, CrReads s d (BitVec.ofNat 16 (0x0100 + k)) v ∧
    ∀ j, j < 8 → BitVec.ofNat 8 (v.toNat / 256 ^ j) = s.me.trec.getD (8 * k + j) 0) ∧
  -- UNITS: one bit for each unit that the strand's slot holds
  (∃ v : Word, CrReads s d 0x0110 v ∧ (((s.core s.me.core).units.map fun e => e.1).Nodup →
    (∀ e ∈ (s.core s.me.core).units, e.1 < 21) →
    ∀ u, u < 64 → v.getLsbD u = decide ((u, s.me.slot) ∈ (s.core s.me.core).units))) ∧
  -- GRANT: CUR, REC, PEND and LEFT
  CrReads s d 0x0111 (BitVec.ofNat 64 (s.me.cur.toNat + 16 * s.me.recd.toNat +
    if s.me.pend then 256 + 2 ^ 32 * min s.me.left (2 ^ 32 - 1) else 0)) ∧
  (s.me.priv = true →
    CrReads s d 0x0201 s.me.ptroot ∧ CrReads s d 0x0202 (s.capture.zeroExtend 64) ∧
    CrReads s d 0x0204 (s.core s.me.core).island ∧
    -- STOPCNT: the least count armed in an instance that holds the core
    ∃ v, CrReads s d 0x0203 v ∧
      (∀ a ∈ s.armed, a.unit = unitOf a.scope s.me.core → v.toNat ≤ a.count.toNat) ∧
      (v = allOnes ∨ ∃ a ∈ s.armed, a.unit = unitOf a.scope s.me.core ∧ v = a.count)) ∧
  (s.me.priv = false → ∀ sel : BitVec 16, 0x0201 ≤ sel.toNat → sel.toNat ≤ 0x0204 →
    RaisesAt s (.crrd d sel) .privilege s.me.pc) ∧
  (∀ sel : BitVec 16, ¬ (1 ≤ sel.toNat ∧ sel.toNat ≤ 7) → ¬ (0x0100 ≤ sel.toNat ∧ sel.toNat ≤ 0x0108) →
    ¬ (0x0110 ≤ sel.toNat ∧ sel.toNat ≤ 0x0111) → ¬ (0x0200 ≤ sel.toNat ∧ sel.toNat ≤ 0x0204) →
    RaisesAt s (.crrd d sel) .illegalEncoding s.me.pc)

/-- R38, R39, R43, R203, R391: what CRWR writes to each writable selector and which values it takes; every other selector is
ILLEGAL-ENCODING, a privileged one PRIVILEGE in an unprivileged strand. CAPTURE stands written until its SCC edge.
The model's own choices in it: log 56. -/
def ControlRegistersWritten : Prop := ∀ (s : State) (a : Reg), s.issues [a] →
  let v := s.xget a
  let f := fun lo n => v.toNat / 2 ^ lo % 2 ^ n
  let writes := fun (sel : BitVec 16) (legal : Prop) (ctl : Ctl) =>
    (legal → exec (.crwr a sel) s = .next { s with me := { s.me with ctl := ctl, pc := s.me.pc + 4 } }) ∧
    (¬ legal → RaisesAt s (.crwr a sel) .illegalEncoding s.me.pc)
  writes 0x0002 (f 24 40 = 0 ∧ f 4 4 = 0 ∧ 4 ≤ f 14 4 ∧ f 14 4 ≤ 8 ∧ f 10 2 ≠ 3 ∧ f 8 2 ≠ 3)
    { s.me.ctl with vtype := (v &&& ~~~15) ||| (s.me.ctl.vtype &&& 15) } ∧
  writes 0x0003 True { s.me.ctl with seed := v } ∧
  writes 0x0004 True { s.me.ctl with sbase := v } ∧
  writes 0x0005 (f 33 31 = 0 ∧ ∀ e, e < 4 → f (8 * e + 3) 5 ≠ 0 → f (8 * e) 3 ≤ 4) { s.me.ctl with stripcfg := v } ∧
  (s.me.priv = true →
    exec (.crwr a 0x0201) s = .next { s with me := { s.me with ptroot := v, pc := s.me.pc + 4 } } ∧
    (v.toNat < 3 → exec (.crwr a 0x0202) s = .next { s with
      captureNext := some (v.truncate 2), captureBy := s.scc.toNat + 1024, me := { s.me with pc := s.me.pc + 4 } }) ∧
    (3 ≤ v.toNat → RaisesAt s (.crwr a 0x0202) .illegalEncoding s.me.pc) ∧
    ((∀ k, k < 4 → f (16 * k + 2) 14 = 0) → ∃ t, exec (.crwr a 0x0204) s = .next t ∧
      (∀ k, t.core k = if k = s.me.core then { s.core k with island := v } else s.core k) ∧
      t = { s with cores := t.cores, me := { s.me with pc := s.me.pc + 4 } }) ∧
    (¬ (∀ k, k < 4 → f (16 * k + 2) 14 = 0) → RaisesAt s (.crwr a 0x0204) .illegalEncoding s.me.pc)) ∧
  -- in an unprivileged strand an illegal value still ranks first (R88)
  (s.me.priv = false →
    RaisesAt s (.crwr a 0x0201) .privilege s.me.pc ∧
    RaisesAt s (.crwr a 0x0202) (if v.toNat < 3 then .privilege else .illegalEncoding) s.me.pc ∧
    ((∀ k, k < 4 → f (16 * k + 2) 14 = 0) → RaisesAt s (.crwr a 0x0204) .privilege s.me.pc) ∧
    (¬ (∀ k, k < 4 → f (16 * k + 2) 14 = 0) → RaisesAt s (.crwr a 0x0204) .illegalEncoding s.me.pc)) ∧
  (∀ sel : BitVec 16, ¬ (2 ≤ sel.toNat ∧ sel.toNat ≤ 5) → sel.toNat ≠ 0x0110 → sel.toNat ≠ 0x0201 → sel.toNat ≠ 0x0202 →
    sel.toNat ≠ 0x0204 → RaisesAt s (.crwr a sel) .illegalEncoding s.me.pc)

/-- The contents of a unit (R35): the bytes of a tile, a p-register or an s-register; the scratchpad's entries. -/
def unitContents (c : Core) (u : Nat) : List Byte :=
  if u < 8 then imgBytes c.tiles (32768 * u) 32768
  else if u < 16 then imgBytes c.pregs (1280 * (u - 8)) 1280
  else imgBytes c.sregs (8192 * (u - 16)) 8192

/-- R300: a write to UNITS, by CRWR or as its own step, waits for every earlier block and for an open epoch whose tile it would
release; then exactly the held units whose bit is 0 are released and their contents lost. Bits [63:21] must be 0. -/
def UnitsReleased : Prop := ∀ (s : State) (a : Reg) (v : Word),
  let c := s.core s.me.core
  let gone := fun (u : Nat) => (u, s.me.slot) ∈ c.units ∧ v.getLsbD u = false
  let released := fun (t : State) =>
    (∀ k, k ≠ s.me.core → t.core k = s.core k) ∧
    (∀ e, e ∈ (t.core s.me.core).units ↔ e ∈ c.units ∧ ¬ gone e.1) ∧
    (∀ u, u < 20 → unitContents (t.core s.me.core) u =
      if gone u then (unitContents c u).map (fun _ => 0) else unitContents c u) ∧
    (t.core s.me.core).ix = (if gone 20 then [] else c.ix)
  (s.me.queue = [] → (∀ tile, s.openTile s.me = some tile → ¬ gone tile) →
    (∀ e ∈ c.units, ∀ e' ∈ c.units, e.1 = e'.1 → e = e') → (∀ e ∈ c.units, e.1 < 21) →
    (∃ t, exec (.unitsWrite v) s = .next t ∧ t = { s with cores := t.cores } ∧ released t) ∧
    (v = s.xget a → v.toNat < 2 ^ 21 → ∃ t, exec (.crwr a 0x0110) s = .next t ∧
      t = { s with cores := t.cores, me := { s.me with pc := s.me.pc + 4 } } ∧ released t)) ∧
  (s.me.queue ≠ [] → exec (.unitsWrite v) s = .next s ∧
    (v = s.xget a → v.toNat < 2 ^ 21 → s.issues [a] → exec (.crwr a 0x0110) s = .next s)) ∧
  (v = s.xget a → 2 ^ 21 ≤ v.toNat → s.issues [a] → RaisesAt s (.crwr a 0x0110) .illegalEncoding s.me.pc)

/-- The fields of a trap record (R361). -/
structure RecordFields (bytes : List Byte) (seq : Nat) (k : FaultKind) (elem addr : Word) (detail : Nat) (resume : Word)
    (vector : Bool) (widx : Nat) (t : Strand) : Prop where
  size : bytes.length = 64
  seq : leNat bytes % 2 ^ 32 = seq % 2 ^ 32
  kind : leNat bytes / 2 ^ 40 % 2 ^ 8 = k.code
  cls : leNat bytes / 2 ^ 48 % 2 ^ 2 = k.cls
  v : leNat bytes / 2 ^ 51 % 2 = if vector then 1 else 0
  widx : leNat bytes / 2 ^ 52 % 2 ^ 2 = widx % 4
  slot : leNat bytes / 2 ^ 54 % 2 ^ 2 = t.slot % 4
  unit : leNat bytes / 2 ^ 56 % 2 ^ 8 = t.logical % 256
  resume : leNat bytes / 2 ^ 64 % 2 ^ 64 = resume.toNat
  elem : leNat bytes / 2 ^ 128 % 2 ^ 64 = elem.toNat
  addr : leNat bytes / 2 ^ 192 % 2 ^ 64 = addr.toNat
  req : leNat bytes / 2 ^ 256 % 2 ^ 64 = t.req.toNat
  detail : leNat bytes / 2 ^ 320 = detail % 2 ^ 192

/-- n bytes at which the hardware's own write is performed at once: of plain lines in this module, or in another that can be reached
and admits it (R251, R338, R383), and not of the slow tier (R380). -/
def HwPlain (u : State) (a n : Nat) : Prop :=
  ∀ j, j < n → u.canon (a + j) = a + j ∧ u.tether (a + j) = .plain ∧ u.region (a + j) ≠ .slow ∧
    ∀ m, u.region (a + j) = .remote m → u.portOpen m = true ∧ u.farTether ⟨a + j, []⟩ = none ∧ u.admitted (a + j) .write = true

/-- R359 to R364: taking an exception. Every store and move of the strand is performed first (u); while one can't be, no record is
made and the word is issued again. An issued convoy completes, its tags are disarmed (R224), early work and what a parked VWAIT found
are discarded; the record goes into the core's registered queue while it has room, WR advances, the trap registers keep a copy and
TCOUNT rises by 1; without a queue only the trap registers take it. The strand is held, replayable or fatal by the kind's class; a
replayable record for the last entry becomes QUEUE-FULL; a full queue writes nothing, sets OVF and holds the strand as if a fatal
record stood. A notice leaves the strand as it is and is dropped and counted where a queue has one entry left. Registers, the
program counter and everything else of the strand stay; the posted fault of the record counts as taken. TRAP takes exactly this
entry and resumes after itself (R113).
The model's own choices in it: log 62, 88, 99. -/
def Obligations.TrapEntry : Prop := ∀ (s : State) (f : FaultInfo) (resume : Word) (vector : Bool) (widx : Nat),
  f.waits = false →
  let u := s.finishStrand s.me
  let t := s.takeTrap f resume vector widx
  let notice := f.kind.cls = 2
  let base := s.me.completed.dropWork
  let taken := fun (k : FaultKind) (l : List Posted) => if f.kind = k then (f.posted.map l.erase).getD l else l
  let held := fun (h : Held) (trec : List Byte) (count : Word) =>
    t.me = if notice ∧ h ≠ .fatal then { s.me with trec := trec, tcount := count }
      else { base with
        trec := trec, tcount := count, held := h, timedOut := false,
        parked := if vector = true ∧ s.me.parked ≠ .vwait then s.me.parked else .no,
        postedStk := taken .stkElement s.me.postedStk, postedCpy := taken .cpyElement s.me.postedCpy }
  let byClass := if f.kind.cls = 1 then Held.fatal else .replayable resume vector
  let record := fun (seq : Nat) (k : FaultKind) (detail : Nat) =>
    RecordFields t.me.trec seq k f.elem f.addr detail resume vector widx s.me
  -- an address of the byte that holds ARM of a tag that the issued convoy read
  let arm := fun (a : Nat) => ∃ tag ∈ s.me.disarms, u.canon a = u.canon (tag + 14)
  (u.unfinished s.me = true → t = { u with me := s.me }) ∧
  (u.unfinished s.me = false →
  (u.trapqs.find? (fun q => q.q = s.me.logical && u.trapBase q ≠ 0) = none →
    (¬ notice → held byClass t.me.trec (s.me.tcount + 1) ∧ record 0 f.kind f.detail ∧
      t = { u with mem := t.mem, me := t.me } ∧ (∀ a, t.byte a = if arm a then 0 else u.byte a)) ∧
    (notice → t.me = s.me ∧ (s.me.disarms = [] ∨ s.me.issued ≠ none → t = { u with me := s.me }))) ∧
  (∀ q, u.trapqs.find? (fun q => q.q = s.me.logical && u.trapBase q ≠ 0) = some q →
    let n := 2 ^ u.trapLgn q
    let o := (q.wr + 2 ^ 64 - u.hwRead (q.addr + 16) 8) % 2 ^ 64
    let place := u.trapBase q + 64 * (q.wr % n)
    let others := fun (lo len lo' len' : Nat) => ∀ a, ¬ (lo ≤ u.canon a ∧ u.canon a < lo + len) →
      ¬ (lo' ≤ u.canon a ∧ u.canon a < lo' + len') → ¬ arm a → t.byte a = u.byte a
    let apart := fun (lo len : Nat) => ∀ a, arm a → ¬ (lo ≤ u.canon a ∧ u.canon a < lo + len)
    let kept := HwPlain u place 64 → HwPlain u (q.addr + 8) 8 → q.addr + 32 ≤ place ∨ place + 64 ≤ q.addr →
      apart place 64 → apart (q.addr + 8) 8 →
      t.bytesAt place 64 = t.me.trec ∧ t.natAt (q.addr + 8) 8 = (q.wr + 1) % 2 ^ 64 ∧ others place 64 (q.addr + 8) 8
    (o + 1 < n ∨ (f.kind.cls = 1 ∧ o < n) →
      held byClass t.me.trec (s.me.tcount + 1) ∧ record q.seq f.kind f.detail ∧ kept) ∧
    (f.kind.cls = 0 ∧ o + 1 = n →
      held .fatal t.me.trec (s.me.tcount + 1) ∧ record q.seq .queueFull f.kind.code ∧ kept) ∧
    (notice ∧ o + 1 = n → t.me = s.me ∧ (HwPlain u (q.addr + 25) 4 → apart (q.addr + 25) 4 →
      t.natAt (q.addr + 25) 4 = (q.dropn + 1) % 2 ^ 32 ∧ others (q.addr + 25) 4 0 0)) ∧
    (n ≤ o → held .fatal s.me.trec s.me.tcount ∧ (HwPlain u (q.addr + 24) 1 → apart (q.addr + 24) 1 →
      (t.byte (q.addr + 24)).getLsbD 7 = true ∧ others (q.addr + 24) 1 0 0)))) ∧
  (∀ (a : Reg) (c : BitVec 16), s.issues [a] → f = { kind := .softwareTrap, addr := s.xget a, detail := c.toNat } →
    resume = s.me.pc + 4 → vector = false → widx = 0 → exec (.trap a c) s = .next t)

/-- The strand that a privileged word on core acts upon in slot n (R202): placed there, another than the executing one, and waiting
on a trap, halted by a cut, or marked for saving. -/
def ServedBy (u : State) (n : Nat) (t : Strand) : Prop :=
  n ≠ u.me.slot ∧ u.strandAt u.me.core n = some t ∧ (t.held ≠ .no ∨ u.halted u.me.core = true ∨ t.mark = true)

/-- R202, R363: TRET. Action 0 on a strand that waits on a replayable record resumes it, a scalar record at RESUME and a convoy's
where its sequencer stands; on a marked strand without a record it takes the mark back; on a fatal record it raises CTX-STATE and
changes nothing; action 1 ends the strand, which leaves its slot. A slot or action out of range, the executing strand's own
slot and a strand that may not be served raise CTX-STATE.
Action 1 waits for a store or a move that the target has issued.
The model's own choices in it: log 34, 43. -/
def Obligations.TrapReturn : Prop := ∀ (s : State) (a b : Reg), s.issues [a, b] → s.me.priv = true →
  let u := s.settleFirst
  ScalarGoes u →
  let n := (s.xget a).toNat
  let raises := fun (x : Word) => exec (.tret a b) s = .next (u.takeTrap { kind := .ctxState, addr := x } s.me.pc false 0)
  let done := fun (t' : Strand) => ∃ r, exec (.tret a b) s = .next r ∧ r.me = { u.me with pc := s.me.pc + 4 } ∧
    r.strandAt s.me.core n = some t' ∧
    (∀ c k, (c, k) ≠ (s.me.core, n) → (c, k) ≠ (s.me.core, s.me.slot) → r.strandAt c k = u.strandAt c k) ∧
    r = { u with me := r.me, strands := r.strands }
  (4 ≤ n → raises (s.xget a)) ∧
  (n < 4 → 1 < (s.xget b).toNat → raises (s.xget b)) ∧
  (n < 4 → (s.xget b).toNat ≤ 1 → (∀ t, ¬ ServedBy u n t) → raises (s.xget a)) ∧
  (s.me.placed = true → n < 4 → ∀ t, ServedBy u n t →
    ((s.xget b).toNat = 0 → ∀ resume, t.held = .replayable resume false → done { t with held := .no, pc := resume }) ∧
    ((s.xget b).toNat = 0 → ∀ resume, t.held = .replayable resume true → done { t with held := .no }) ∧
    ((s.xget b).toNat = 0 → t.held = .fatal → raises (s.xget a)) ∧
    ((s.xget b).toNat = 0 → t.held = .no → u.halted s.me.core = false → done { t with mark := false }) ∧
    ((s.xget b).toNat = 0 → t.held = .no → u.halted s.me.core = true → raises (s.xget a)) ∧
    ((s.xget b).toNat = 1 → (u.finishStrand t).unfinished t = true → exec (.tret a b) s = .next u) ∧
    ((s.xget b).toNat = 1 → (u.finishStrand t).unfinished t = false → s.me.parked = .no → ∃ r, exec (.tret a b) s = .next r ∧ r.me.pc = s.me.pc + 4 ∧ r.me.x = s.me.x ∧
      r.strandAt s.me.core n = none))

/-- R183, R201, R203: a strand is privileged as the launch log is that it was placed from. A word of the privileged family (CTXSAVE, CTXLOAD, TLBINV,
TLBINVA, TRET) in an unprivileged strand raises PRIVILEGE at its own address and has no effect; so do, after the decode checks, CRRD and
CRWR of the selectors 0x0201 to 0x0204 that are assigned, a CRWR of a value that its register takes, and STOPAT of a scope wider than the
core.
The model's own choices in it: log 34 (the strand's own moves and fences are settled in the same step). -/
def Obligations.PrivilegeFaults : Prop :=
  (∀ (s : State) (d a b : Reg) (scope : BitVec 5), s.issues [d, a, b] →
    ScalarGoes s.settleFirst → s.me.priv = false →
    let u := s.settleFirst
    let v := s.xget a
    let legal := fun sel : Nat => sel = 0x0201 ∨ (sel = 0x0202 ∧ v.toNat < 3) ∨
      (sel = 0x0204 ∧ ∀ k, k < 4 → v.toNat / 2 ^ (16 * k + 2) % 2 ^ 14 = 0)
    (∀ i ∈ [Instr.ctxsave d a b, .ctxload a b, .tlbinv a b, .tlbinva b, .tret a b],
      exec i s = .next (u.takeTrap { kind := .privilege, addr := s.me.pc } s.me.pc false 0)) ∧
    (∀ sel : BitVec 16, 0x0201 ≤ sel.toNat → sel.toNat ≤ 0x0204 →
      RaisesAt s (.crrd d sel) .privilege s.me.pc ∧ (legal sel.toNat → RaisesAt s (.crwr a sel) .privilege s.me.pc)) ∧
    (1 < scope.toNat → RaisesAt s (.stopat d a scope) .privilege s.me.pc)) ∧
  (∀ (s : State) (g : Log) (h : List Byte) (t hpa wid logical slot serial : Nat) (state : LaunchState) (grant : BitVec 4),
    (s.freshStrand (g.fresh t h hpa state) wid logical slot grant serial).priv = g.priv)

/-- R198, R199: TIMERD reads the nanosecond count and latches its fraction, reads the latched fraction, the SCC, or CLKSTAT and
clears its STEPPED bit; TICKWAIT returns the count at once for a time that has come, else parks until TICKWAIT_WAKE finds the
count there, writes it and lets the strand go on. -/
def TimeResults : Prop := ∀ (s : State) (d a : Reg), s.issues [d, a] →
  (∃ t, exec (.timerd d 0) s = .next t ∧ { s with me := { s.me with frac := s.ptpFrac } }.wrote t d s.ptpNs (s.me.pc + 4)) ∧
  Computes s (.timerd d 1) d (s.me.frac.zeroExtend 64) ∧
  Computes s (.timerd d 2) d s.scc ∧
  (∃ t, exec (.timerd d 3) s = .next t ∧ { s with me := { s.me with stepped := false } }.wrote t d
    (BitVec.ofNat 64 ((if s.lock then 1 else 0) + (if s.me.stepped then 2 else 0))) (s.me.pc + 4)) ∧
  ((s.xget a).toNat ≤ s.ptpNs.toNat → ∃ t, exec (.tickwait d a) s = .next t ∧
    { s with me := { s.me with parked := .no } }.wrote t d s.ptpNs (s.me.pc + 4)) ∧
  (s.ptpNs.toNat < (s.xget a).toNat →
    exec (.tickwait d a) s = .next { s with me := { s.me with parked := .tickwait (s.xget a) d } }) ∧
  (∀ time r, s.me.placed = true → s.me.parked = .tickwait time r →
    (time.toNat ≤ s.ptpNs.toNat → s.halted s.me.core = false → ∃ t, exec (.tickwaitWake s.me.core s.me.slot) s = .next t ∧
      { s with me := { s.me with parked := .no } }.wrote t r s.ptpNs (s.me.pc + 4)) ∧
    (s.ptpNs.toNat < time.toNat ∨ s.halted s.me.core = true → exec (.tickwaitWake s.me.core s.me.slot) s = .next s))

/-- R201, R240, R310: STOPAT arms a count at least 4,096 cycles away, keeping the lesser of two for one instance, and writes the
count armed; a nearer count raises STOPAT-LATE. STOPAT_HALT halts the instance of a count that has been reached: issued convoys
complete and early work is gone. HALT_RELEASE, once no work issued before the halt is left, lets its strands go on with the memory of
the halt, drops the counts inside it that have passed, and writes the records that waited for it (R365). -/
def CutResults : Prop := ∀ (s : State) (d a : Reg) (scope : BitVec 5), s.issues [d, a] →
  let n := s.xget a
  let unit := unitOf scope.toNat s.me.core
  let allowed := scope.toNat ≤ 1 ∨ s.me.priv = true
  (allowed → s.scc.toNat + 4096 ≤ n.toNat →
    ∃ t c, exec (.stopat d a scope) s = .next t ∧ { s with armed := t.armed }.wrote t d c (s.me.pc + 4) ∧
      t.armed.find? (fun e => e.scope = scope.toNat && e.unit = unit) = some ⟨scope.toNat, unit, c⟩ ∧
      (match s.armed.find? (fun e => e.scope = scope.toNat && e.unit = unit) with
       | some e => c.toNat = min e.count.toNat n.toNat
       | none => c = n) ∧
      (∀ e, ¬ (e.scope = scope.toNat ∧ e.unit = unit) → (e ∈ t.armed ↔ e ∈ s.armed))) ∧
  (allowed → n.toNat < s.scc.toNat + 4096 → RaisesAt s (.stopat d a scope) .stopatLate n) ∧
  (∀ e, s.armed.find? (fun e' => e'.scope = e.scope && e'.unit = e.unit && s.due e') = some e →
    ∃ t, exec (.stopatHalt e.scope e.unit) s = .next t ∧ e ∈ t.halts ∧
      (∀ e' ∈ t.armed, ¬ (e'.scope = e.scope ∧ e'.unit = e.unit)) ∧
      (∀ k, unitOf e.scope k = e.unit → t.halted k = true) ∧
      ((s.all.map fun x => (x.core, x.slot)).Nodup → ∀ x ∈ t.all, unitOf e.scope x.core = e.unit →
        x.issued = none ∧ x.early = none)) ∧
  (∀ h, s.firmware = true → s.halts.find? (fun h' => h'.scope = h.scope && h'.unit = h.unit) = some h →
    (s.cutOpen h.scope h.unit = true → exec (.haltRelease h.scope h.unit) s = .next s) ∧
    (s.cutOpen h.scope h.unit = false → ∃ u : State, exec (.haltRelease h.scope h.unit) s = .next u.lateRecords ∧
      (∀ g, g ∈ u.halts ↔ g ∈ s.halts ∧ ¬ (g.scope = h.scope ∧ g.unit = h.unit)) ∧
      (∀ g, g ∈ u.armed ↔ g ∈ s.armed ∧ ¬ (h.covers g = true ∧ g.count.toNat ≤ s.scc.toNat)) ∧
      u = { s with halts := u.halts, armed := u.armed, cores := u.cores } ∧
      -- the data caches of the instance have applied the invalidations they received (R246)
      (∀ k, unitOf h.scope k = h.unit → (u.core k).invals = []) ∧
      (∀ k, u.core k = { s.core k with dcache := (u.core k).dcache, invals := (u.core k).invals }) ∧
      (∀ k, unitOf h.scope k ≠ h.unit → u.core k = s.core k) ∧
      ((∀ e ∈ s.cores, e.2.lateRecs = []) → u.lateRecords = u)))

/-- What a pattern holds as an element of a format: an S9 element has its value in bits [8:0] of its 16 (R45). -/
def inFormat (f v : Nat) : Nat := if f = 18 then v % 2 ^ 9 else v

/-- The word `i` of fields `w` completes: it writes `value c n`, as its format holds it, to every element n of VD below VL that is not
masked, every source read first, and changes nothing else (R11, R30, R45, R114). -/
def Elementwise (s : State) (w : VWord) (i : Instr) (value : VCtx → Nat → Nat) : Prop :=
  ∀ c, s.heads i c → VComputes s i c fun m m' =>
    Wrote m m' (regBytes s.me.cur c.ctl.vtype) w.vd.toNat (ew w.f) (s.works c w) (fun n => inFormat w.f (value c n))

/-- The same for a word that writes one mask bit for each element (R117). -/
def Maskwise (s : State) (w : VWord) (i : Instr) (value : VCtx → Nat → Bool) : Prop :=
  ∀ c, s.heads i c → VComputes s i c fun m m' => WroteBits m m' w.vd.toNat (s.works c w) (value c)

/-- Element n, W bits wide, of the register or group that a field names, as the block sees it. -/
def laneOf (s : State) (c : VCtx) (r : BitVec 6) (W n : Nat) : Nat :=
  vreadImg s.me.vregs (regBytes s.me.cur c.ctl.vtype) r.toNat W n

/-- Source a of element n through the lane exchange XL (R115): XL[4:3] is 0 for no exchange, 1 for a swap at distance D = 2^XL[2:0],
2 and 3 for a shift within groups of 2 D up and down; what comes from outside VL or its group is 0. -/
def srcA (s : State) (c : VCtx) (w : VWord) (W n : Nat) : Nat :=
  let dist := 2 ^ (w.xl.toNat % 8)
  let from_ := fun (j : Nat) => if j < c.ctl.vl.toNat then laneOf s c w.va W j else 0
  match w.xl.toNat / 8 with
  | 0 => laneOf s c w.va W n
  | 1 => from_ (n ^^^ dist)
  | 2 => if dist ≤ n % (2 * dist) then from_ (n - dist) else 0
  | _ => if n % (2 * dist) < dist then from_ (n + dist) else 0

/-- Source b of element n (R114): a vector element, the captured scalar register, or the immediate of FN[13:2]. -/
def srcB (s : State) (c : VCtx) (w : VWord) (W n : Nat) : Nat :=
  match w.fn.toNat % 4 with
  | 0 => laneOf s c w.vb W n
  | 1 => (c.x w.vb).toNat % 2 ^ W
  | _ => ((BitVec.ofNat 12 (w.fn.toNat / 4)).toInt % 2 ^ W).toNat

/-- R118: every floating-point word rounds one exact result per element, in the rounding mode in force and with the element's own
stochastic bits. The sources are read, the exact sum of R52 formed and rounded once.
The model's own choices in it: log 23. -/
def VectorFloatWordResults : Prop := ∀ (s : State) (w : VWord),
  let a := fun (c : VCtx) n => fpDecode w.f (srcA s c w (ew w.f) n)
  let b := fun (c : VCtx) n => fpDecode w.f (srcB s c w (ew w.f) n)
  let x := fun (c : VCtx) n => fpDecode w.f (laneOf s c w.vc (ew w.f) n)
  let rm := fun (c : VCtx) => if w.rm = 6 then c.ctl.vtype.toNat / 2 ^ 18 % 8 else w.rm.toNat
  let rounds := fun (i : Instr) (v : VCtx → Nat → FVal) => Elementwise s w i fun c n =>
    roundVal w.f (rm c) (srbits c.ctl.seed c.ctl.sbase n) (v c n)
  let sum := fun (c : VCtx) (l : List FVal) => fsumExact (rm c) l
  rounds (.vfadd w) (fun c n => sum c [a c n, b c n]) ∧
  rounds (.vfsub w) (fun c n => sum c [a c n, (b c n).negate]) ∧
  rounds (.vfmul w) (fun c n => fmulExact (a c n) (b c n)) ∧
  rounds (.vfdiv w) (fun c n => fdivExact (a c n) (b c n)) ∧
  rounds (.vfsqrt w) (fun c n => fsqrtExact (a c n)) ∧
  rounds (.vfma w) (fun c n => sum c [fmulExact (a c n) (b c n), x c n]) ∧
  rounds (.vfms w) (fun c n => sum c [fmulExact (a c n) (b c n), (x c n).negate]) ∧
  rounds (.vfnma w) (fun c n => sum c [(fmulExact (a c n) (b c n)).negate, x c n]) ∧
  rounds (.vfnms w) (fun c n => sum c [(fmulExact (a c n) (b c n)).negate, (x c n).negate]) ∧
  Elementwise s w (.vfrece w) (fun c n => roundEstimate w.f (fdivExact (.fin false 1 0) (a c n))) ∧
  Elementwise s w (.vfrsqe w) (fun c n => roundEstimate w.f (frsqExact (a c n)))

/-! Numbers of the floating-point formats, by their patterns (R47 to R53) -/

/-- The floating-point formats (R45). -/
def floatFormats : List Nat := [8, 9, 10, 11, 12, 13, 19]

/-- Fraction bits and bias of a floating-point format (R47). -/
def fpFields : Nat → Nat × Nat
  | 8 => (10, 15) | 9 => (7, 127) | 10 => (23, 127) | 11 => (52, 1023) | 12 => (3, 7) | 13 => (2, 15) | _ => (1, 1)

/-- The pattern of the largest finite number (R47, R48); in a format with infinities the next pattern is infinity. -/
def fpTop : Nat → Nat
  | 8 => 0x7BFF | 9 => 0x7F7F | 10 => 0x7F7FFFFF | 11 => 0x7FEFFFFFFFFFFFFF | 12 => 0x7E | 13 => 0x7B | _ => 0x7

/-- The canonical NaN (R48), and the zero that E2M1 has for it (R53). -/
def canonicalNaN : Nat → Nat
  | 8 => 0x7E00 | 9 => 0x7FC0 | 10 => 0x7FC00000 | 11 => 0x7FF8000000000000 | 12 => 0x7F | 13 => 0x7E | _ => 0

/-- The number that a pattern without its sign bit stands for (R47). After the largest finite one the row goes on, as R52 measures
overflow. -/
def fpMag (f p : Nat) : ℚ :=
  let m := (fpFields f).1
  let bias : ℤ := (fpFields f).2
  if p / 2 ^ m = 0 then (p : ℚ) / 2 ^ m * 2 ^ (1 - bias)
  else (1 + ((p % 2 ^ m : ℕ) : ℚ) / 2 ^ m) * 2 ^ (((p / 2 ^ m : ℕ) : ℤ) - bias)

/-- The number that a finite value is. -/
def valOf : FVal → ℚ
  | .fin n m e => (if n then -1 else 1) * m * 2 ^ e
  | _ => 0

/-- The value is the number x; a zero has the sign z. -/
def IsNumber (v : FVal) (x : ℚ) (z : Bool) : Prop := ∃ n m e, v = .fin n m e ∧ valOf v = x ∧ (x = 0 → n = z)

/-- R51, R13: a magnitude that lies the part t of the way from a representable one to the next rounds up under code rm. `odd`: the
lower one's last kept bit is 1. -/
def RoundsUp (rm sr : Nat) (neg odd : Bool) (t : ℝ) : Prop :=
  match rm with
  | 0 => 1 < 2 * t ∨ (2 * t = 1 ∧ odd = true)
  | 1 => False
  | 2 => neg = true ∧ 0 < t
  | 3 => neg = false ∧ 0 < t
  | 4 => 1 ≤ 2 * t
  | _ => (sr : ℤ) < ⌊t * 65536⌋

/-- R50 to R53: r is the pattern of the magnitude x and a sign, rounded once into a format. -/
def RoundsTo (f rm sr : Nat) (neg : Bool) (x : ℝ) (r : Nat) : Prop :=
  let sign := if neg then 2 ^ (ew f - 1) else 0
  let past := if f = 12 ∨ f = 19 ∨ rm = 1 ∨ (rm = 2 ∧ neg = false) ∨ (rm = 3 ∧ neg = true) then fpTop f else fpTop f + 1
  ((fpMag f (fpTop f + 1) : ℝ) ≤ x ∧ r = sign + past) ∨
  ∃ p, p ≤ fpTop f ∧ (fpMag f p : ℝ) ≤ x ∧ x < fpMag f (p + 1) ∧
    let up := RoundsUp rm sr neg (p % 2 = 1) ((x - fpMag f p) / (fpMag f (p + 1) - fpMag f p))
    (up → r = sign + if p = fpTop f then past else p + 1) ∧ (¬ up → r = sign + p)

/-- R47, R48: how a pattern reads. -/
def PatternsRead : Prop := ∀ f ∈ floatFormats, ∀ v < 2 ^ ew f,
  let p := v % 2 ^ (ew f - 1)
  let neg := v.testBit (ew f - 1)
  if p ≤ fpTop f then ∃ a q, fpDecode f v = .fin neg a q ∧ valOf (.fin false a q) = fpMag f p
  else if p = fpTop f + 1 ∧ f ≠ 12 then fpDecode f v = .inf neg else fpDecode f v = .nan

/-- R49 to R53: how a value is written into a format: a number rounded once, a NaN as the canonical one, an infinity as the largest
number where the format has none. -/
def ValuesRound : Prop := ∀ f ∈ floatFormats, ∀ rm sr, rm < 6 → sr < 65536 →
  roundVal f rm sr .nan = canonicalNaN f ∧
  (∀ n, roundVal f rm sr (.inf n) =
    (if n then 2 ^ (ew f - 1) else 0) + if f = 12 ∨ f = 19 then fpTop f else fpTop f + 1) ∧
  ∀ n m e, RoundsTo f rm sr n (valOf (.fin false m e)) (roundVal f rm sr (.fin n m e))

/-- R51, R118: sums and products are the exact ones, with the IEEE results of special operands; an exact zero sum of opposite signs is
positive but under code 2. -/
def SumsAndProducts : Prop := ∀ (a b : FVal) (rm : Nat),
  (match a, b with
    | .nan, _ | _, .nan => fmulExact a b = .nan ∧ fsumExact rm [a, b] = .nan
    | .inf s, .inf t => fmulExact a b = .inf (s != t) ∧ fsumExact rm [a, b] = if s = t then .inf s else .nan
    | .inf s, .fin t m _ | .fin t m _, .inf s =>
      fmulExact a b = (if m = 0 then .nan else .inf (s != t)) ∧ fsumExact rm [a, b] = .inf s
    | .fin s m _, .fin t k _ => IsNumber (fmulExact a b) (valOf a * valOf b) (s != t) ∧
      IsNumber (fsumExact rm [a, b]) (valOf a + valOf b) (if m = 0 ∧ k = 0 ∧ s = t then s else decide (rm = 2)))

/-- R118: the quotient and the root, rounded, are those of the exact quotient and root. -/
def QuotientsAndRoots : Prop := ∀ (a b : FVal),
  (match a, b with
    | .nan, _ | _, .nan | .inf _, .inf _ => fdivExact a b = .nan
    | .inf s, .fin t _ _ => fdivExact a b = .inf (s != t)
    | .fin s _ _, .inf t => IsNumber (fdivExact a b) 0 (s != t)
    | .fin s m _, .fin t k _ =>
      if k = 0 then fdivExact a b = if m = 0 then .nan else .inf (s != t)
      else ∀ f ∈ floatFormats, ∀ rm sr, rm < 6 → sr < 65536 →
        RoundsTo f rm sr (s != t) |(valOf a : ℝ) / valOf b| (roundVal f rm sr (fdivExact a b))) ∧
  (match a with
    | .nan | .inf true => fsqrtExact a = .nan
    | .inf false => fsqrtExact a = .inf false
    | .fin s m e =>
      if m = 0 then fsqrtExact a = .fin s m e
      else if s then fsqrtExact a = .nan
      else ∀ f ∈ floatFormats, ∀ rm sr, rm < 6 → sr < 65536 →
        RoundsTo f rm sr false (Real.sqrt (valOf a)) (roundVal f rm sr (fsqrtExact a)))

/-- R120: r is the magnitude x and a sign, rounded once to nearest even at 12 significant bits or at the format's own spacing,
whichever is coarser. -/
def Estimates (f : Nat) (neg : Bool) (x : ℝ) (r : Nat) : Prop :=
  let m : ℤ := (fpFields f).1
  let bias : ℤ := (fpFields f).2
  ∃ j : ℤ, 2 ^ j ≤ x ∧ x < 2 ^ (j + 1) ∧
    let q := max (j - 11) (max (j - m) (1 - bias - m))
    ∃ k : ℕ, |x - k * 2 ^ q| * 2 ≤ 2 ^ q ∧ (|x - k * 2 ^ q| * 2 = 2 ^ q → k % 2 = 0) ∧ RoundsTo f 0 0 neg (k * 2 ^ q) r

/-- R120: the estimates of 1/a and 1/√a, for significands of the formats' sizes. -/
def EstimatesRound : Prop := ∀ f ∈ [8, 9, 10, 11], ∀ a : FVal,
  let rece := roundEstimate f (fdivExact (.fin false 1 0) a)
  let rsqe := roundEstimate f (frsqExact a)
  let inf := fun (s : Bool) => (if s then 2 ^ (ew f - 1) else 0) + fpTop f + 1
  let zero := fun (s : Bool) => if s then 2 ^ (ew f - 1) else 0
  match a with
  | .nan => rece = canonicalNaN f ∧ rsqe = canonicalNaN f
  | .inf s => rece = zero s ∧ rsqe = if s then canonicalNaN f else 0
  | .fin s m _ =>
    if m = 0 then rece = inf s ∧ rsqe = inf s
    else m < 2 ^ 64 → Estimates f s |1 / (valOf a : ℝ)| rece ∧
      if s then rsqe = canonicalNaN f else Estimates f false (1 / Real.sqrt (valOf a)) rsqe

/-- R118, R120: the floating-point words, and what their results are: patterns read by R47 and R48, exact operations, one rounding by
R50 to R53, and the estimates of R120.
The model's own choices in it: log 23. -/
def Obligations.VectorFloatResults : Prop :=
  VectorFloatWordResults ∧ PatternsRead ∧ ValuesRound ∧ SumsAndProducts ∧ QuotientsAndRoots ∧ EstimatesRound

/-- R119: minimum and maximum choose between the patterns, the sign words join the magnitude of a with a sign made of both signs
(a NaN gives the canonical NaN), and VFCLASS tests whether the class of a lies in the set FN[8:0]. -/
def VectorPatternWordResults : Prop := ∀ (s : State) (w : VWord),
  let W := ew w.f
  let sign := fun (i : Instr) (g : Bool → Bool → Bool) => Elementwise s w i fun c n =>
    let a := srcA s c w W n
    let b := srcB s c w W n
    if (fpDecode w.f a).isNaN then fpNaN w.f
    else a % 2 ^ (W - 1) + if g (a.testBit (W - 1)) (b.testBit (W - 1)) then 2 ^ (W - 1) else 0
  Elementwise s w (.vfmin w) (fun c n => fminPat w.f (srcA s c w W n) (srcB s c w W n)) ∧
  Elementwise s w (.vfmax w) (fun c n => fmaxPat w.f (srcA s c w W n) (srcB s c w W n)) ∧
  sign (.vfsgnj w) (fun _ b => b) ∧ sign (.vfsgnjn w) (fun _ b => !b) ∧ sign (.vfsgnjx w) (fun a b => a != b) ∧
  Maskwise s w (.vfclass w) (fun c n => w.fn.getLsbD (fclass w.f (srcA s c w W n)))

/-- The place of a pattern that is no NaN in the order of its numbers, with -0 below +0 (R119). -/
def fpPlace (f v : Nat) : Int :=
  if v.testBit (ew f - 1) then -((v % 2 ^ (ew f - 1) : Nat) : Int) - 1 else (v % 2 ^ (ew f - 1) : Nat)

/-- R119: what the minimum and the maximum of two patterns are, and the class of a pattern. -/
def PatternRules : Prop := ∀ f ∈ floatFormats, ∀ a < 2 ^ ew f,
  let nan := fun v => fpDecode f v = .nan
  (∀ b < 2 ^ ew f,
    (nan a ∧ nan b → fminPat f a b = canonicalNaN f ∧ fmaxPat f a b = canonicalNaN f) ∧
    (nan a ∧ ¬ nan b → fminPat f a b = b ∧ fmaxPat f a b = b) ∧
    (¬ nan a ∧ nan b → fminPat f a b = a ∧ fmaxPat f a b = a) ∧
    (¬ nan a ∧ ¬ nan b → fminPat f a b = (if fpPlace f b < fpPlace f a then b else a) ∧
      fmaxPat f a b = if fpPlace f a < fpPlace f b then b else a)) ∧
  let p := a % 2 ^ (ew f - 1)
  let neg := a.testBit (ew f - 1)
  fclass f a = if p = 0 then (if neg then 3 else 4) else if p < 2 ^ (fpFields f).1 then (if neg then 2 else 5)
    else if p ≤ fpTop f then (if neg then 1 else 6) else if p = fpTop f + 1 ∧ f ≠ 12 then (if neg then 0 else 7) else 8

/-- R119: the words that choose or build patterns, and the rules of minimum, maximum and class. -/
def Obligations.VectorPatternResults : Prop := VectorPatternWordResults ∧ PatternRules

/-- The integer that a W-bit pattern stands for: signed for the formats of even code, natural for the others (R46). -/
def intOf (f v : Nat) : Int :=
  let u : Int := v % 2 ^ ew f
  if f < 8 ∧ f % 2 = 0 ∧ 2 ^ (ew f - 1) ≤ u then u - 2 ^ ew f else u

/-- R121: the integer words write the W bits of their exact result. Division by zero and the one quotient out of range saturate,
the remainder has the sign of the dividend, shift amounts are modulo W, and VSRA shifts copies of the sign in. -/
def VectorIntegerWordResults : Prop := ∀ (s : State) (w : VWord), isInt w.f = true →
  let W := ew w.f
  let signed := w.f % 2 = 0
  let exact := fun (i : Instr) (g : Int → Int → Int) => Elementwise s w i fun c n =>
    (g (intOf w.f (srcA s c w W n)) (intOf w.f (srcB s c w W n)) % 2 ^ W).toNat
  let pattern := fun (i : Instr) (g : Nat → Nat → Nat) => Elementwise s w i fun c n =>
    g (srcA s c w W n) (srcB s c w W n)
  exact (.vadd w) (fun a b => a + b) ∧ exact (.vsub w) (fun a b => a - b) ∧ exact (.vrsub w) (fun a b => b - a) ∧
  exact (.vmul w) (fun a b => a * b) ∧ exact (.vmulh w) (fun a b => a * b / 2 ^ W) ∧
  exact (.vdiv w) (fun a b =>
    if b = 0 then (if 0 < a then (if signed then 2 ^ (W - 1) - 1 else 2 ^ W - 1) else if a < 0 then -(2 ^ (W - 1)) else 0)
    else if signed ∧ a = -(2 ^ (W - 1)) ∧ b = -1 then 2 ^ (W - 1) - 1 else a.tdiv b) ∧
  exact (.vrem w) (fun a b => if b = 0 then 0 else a - a.tdiv b * b) ∧
  exact (.vmin w) (fun a b => min a b) ∧ exact (.vmax w) (fun a b => max a b) ∧
  exact (.vavg w) (fun a b => (a + b + 1) / 2) ∧
  pattern (.vand w) (fun a b => a &&& b) ∧ pattern (.vor w) (fun a b => a ||| b) ∧ pattern (.vxor w) (fun a b => a ^^^ b) ∧
  pattern (.vsll w) (fun a b => a * 2 ^ (b % W)) ∧ pattern (.vsrl w) (fun a b => a / 2 ^ (b % W)) ∧
  pattern (.vsra w) (fun a b => ((if 2 ^ (W - 1) ≤ a then (a : Int) - 2 ^ W else a) / 2 ^ (b % W) % 2 ^ W).toNat) ∧
  Elementwise s w (.vmadd w) (fun c n =>
    srcA s c w W n * srcB s c w W n + laneOf s c w.vc W n)

/-- R122: saturating words clamp the exact result into the format; VABS saturates; VCLZ and VPOPC count; the modular words reduce
the exact result of the patterns by q = x[VC], 2^W for q = 0. -/
def VectorSaturatingAndModularResults : Prop := ∀ (s : State) (w : VWord), isInt w.f = true →
  let W := ew w.f
  let lo : Int := if w.f % 2 = 0 then -(2 ^ (W - 1)) else 0
  let hi : Int := if w.f % 2 = 0 then 2 ^ (W - 1) - 1 else 2 ^ W - 1
  let clamps := fun (i : Instr) (g : Int → Int → Int) => Elementwise s w i fun c n =>
    (max lo (min hi (g (intOf w.f (srcA s c w W n)) (intOf w.f (srcB s c w W n)))) % 2 ^ W).toNat
  let reduces := fun (i : Instr) (g : Int → Int → Int) => Elementwise s w i fun c n =>
    let q := (c.x w.vc).toNat % 2 ^ W
    (g (srcA s c w W n) (srcB s c w W n) % ((if q = 0 then 2 ^ W else q : Nat) : Int)).toNat
  clamps (.vadds w) (fun a b => a + b) ∧ clamps (.vsubs w) (fun a b => a - b) ∧ clamps (.vmuls w) (fun a b => a * b) ∧
  (w.f % 2 = 0 → Elementwise s w (.vabs w) (fun c n => min (intOf w.f (srcA s c w W n)).natAbs (2 ^ (W - 1) - 1))) ∧
  (∃ clz : Nat → Nat, Elementwise s w (.vclz w) (fun c n => clz (srcA s c w W n)) ∧
    ∀ a, a < 2 ^ W → clz a ≤ W ∧ a < 2 ^ (W - clz a) ∧ (clz a = W ∨ 2 ^ (W - 1 - clz a) ≤ a)) ∧
  Elementwise s w (.vpopc w) (fun c n => (List.range W).countP fun k => (srcA s c w W n).testBit k) ∧
  reduces (.vaddm w) (fun a b => a + b) ∧ reduces (.vsubm w) (fun a b => a - b) ∧ reduces (.vmulm w) (fun a b => a * b)

/-- R47, R123: how the values of two patterns compare: a NaN is below nothing and nothing is below it, -0 equals +0, and the infinities
lie at the ends. -/
def NumbersOrdered : Prop := ∀ (a b : FVal),
  match a, b with
  | .nan, _ | _, .nan => fltB a b = false
  | .inf s, .inf t => fltB a b = (s && !t)
  | .inf s, .fin _ _ _ => fltB a b = s
  | .fin _ _ _, .inf t => fltB a b = !t
  | .fin _ _ _, .fin _ _ _ => fltB a b = true ↔ valOf a < valOf b

/-- R123, R127: VCMP writes the truth of its condition CC, with a NaN unordered and different from everything; the mask words
combine the bits of two masks. -/
def VectorCompareAndMaskWordResults : Prop := ∀ (s : State) (w : VWord),
  let W := ew w.f
  let cc := w.fn.toNat / 4 % 16
  let bit := fun (r : BitVec 6) n => bitOf s.me.vregs r.toNat n
  (isInt w.f = true → cc < 6 → Maskwise s w (.vcmp w) fun c n =>
    let a := intOf w.f (srcA s c w W n)
    let b := intOf w.f (srcB s c w W n)
    match cc with
    | 0 => decide (a = b) | 1 => decide (a ≠ b) | 2 => decide (a < b) | 3 => decide (a ≤ b) | 4 => decide (b < a)
    | _ => decide (b ≤ a)) ∧
  (isInt w.f = false → cc < 8 → Maskwise s w (.vcmp w) fun c n =>
    let a := fpDecode w.f (srcA s c w W n)
    let b := fpDecode w.f (srcB s c w W n)
    let un := a.isNaN || b.isNaN
    let lt := !un && fltB a b
    let gt := !un && fltB b a
    match cc with
    | 0 => !un && !lt && !gt | 1 => un || lt || gt | 2 => lt | 3 => !un && !gt | 4 => gt | 5 => !un && !lt | 6 => un
    | _ => !un) ∧
  Maskwise s w (.vmand w) (fun _ n => bit w.va n && bit w.vb n) ∧
  Maskwise s w (.vmor w) (fun _ n => bit w.va n || bit w.vb n) ∧
  Maskwise s w (.vmxor w) (fun _ n => bit w.va n != bit w.vb n) ∧
  Maskwise s w (.vmandn w) (fun _ n => bit w.va n && !bit w.vb n)

/-- R123, R127: the comparisons and the mask words, and how the numbers that floating-point patterns stand for compare. -/
def Obligations.VectorCompareAndMaskResults : Prop := VectorCompareAndMaskWordResults ∧ NumbersOrdered ∧ PatternsRead

/-- R124 to R126: VMERGE selects by v0, VMV moves a, VSPLAT and VID write captured scalars, VCVT converts each element at its own
width, and VUNPACK takes fields of n = FN[5:0] + 1 bits from bit x[VB] of one register, bits past it reading 0. -/
def VectorMoveWordResults : Prop := ∀ (s : State) (w : VWord),
  let W := ew w.f
  Elementwise s w (.vmerge w) (fun c n => if bitOf s.me.vregs 0 n then srcA s c w W n else srcB s c w W n) ∧
  Elementwise s w (.vmv w) (fun c n => srcA s c w W n) ∧
  Elementwise s w (.vsplat w) (fun c _ => (c.x w.va).toNat) ∧
  Elementwise s w (.vsplatImm w) (fun _ _ => ((BitVec.ofNat 13 (w.fn.toNat / 2)).toInt % 2 ^ W).toNat) ∧
  Elementwise s w (.vid w) (fun c n => (c.x w.va).toNat + n) ∧
  Elementwise s w (.vcvt w) (fun c n =>
    convert w.f (w.fn.toNat % 32) (if w.rm = 6 then c.ctl.vtype.toNat / 2 ^ 18 % 8 else w.rm.toNat)
      (srbits c.ctl.seed c.ctl.sbase n) (w.fn.getLsbD 5) (srcA s c w (ew (w.fn.toNat % 32)) n)) ∧
  Elementwise s w (.vunpack w) (fun c n =>
    let len := w.fn.toNat % 64 + 1
    let lo := (c.x w.vb).toNat + len * n
    let rb := regBytes s.me.cur c.ctl.vtype
    -- bit k of the register image
    let bit := fun (k : Nat) => decide (k < 8 * rb) && (imgGet s.me.vregs (65536 * w.va.toNat + k / 8)).getLsbD (k % 8)
    let v := BitVec.ofNat len (((List.range len).map fun k => if bit (lo + k) then 2 ^ k else 0).sum)
    if w.fn.getLsbD 6 then (v.toInt % 2 ^ W).toNat else v.toNat)

/-- R51, R54: k is the number y rounded to an integer. -/
def RoundsToInt (rm sr : Nat) (y : ℚ) (k : Int) : Prop :=
  let lo := ⌊|y|⌋
  let up := RoundsUp rm sr (y < 0) (lo % 2 = 1) ((|y| - lo : ℚ) : ℝ)
  let signed := fun (i : Int) => if y < 0 then -i else i
  (up → k = signed (lo + 1)) ∧ (¬ up → k = signed lo)

/-- R53, R54, R58, R125: what VCVT makes of one pattern. -/
def Conversions : Prop := ∀ d s rm sr v, rm < 6 → sr < 65536 → v < 2 ^ ew s →
  let r := fun wrap => convert d s rm sr wrap v
  let lo : Int := if d % 2 = 0 then -(2 ^ (ew d - 1)) else 0
  let hi : Int := if d % 2 = 0 then 2 ^ (ew d - 1) - 1 else 2 ^ ew d - 1
  let pattern := fun (x : Int) => (x % 2 ^ ew d).toNat
  (d < 8 → s < 8 → r true = pattern (intOf s v) ∧ r false = pattern (max lo (min hi (intOf s v)))) ∧
  (d ∈ floatFormats → s < 8 → RoundsTo d rm sr (intOf s v < 0) |(intOf s v : ℝ)| (r false)) ∧
  (s ∈ floatFormats ∨ s = 18 →
    let x := if s = 18 then s9Val v else fpDecode s v
    (d < 8 → match x with
      | .nan => r false = 0
      | .inf n => r false = pattern (if n then lo else hi)
      | .fin _ _ _ => ∃ k, RoundsToInt rm sr (valOf x) k ∧ r false = pattern (max lo (min hi k))) ∧
    (d ∈ floatFormats → match x with
      | .nan => r false = canonicalNaN d
      | .inf n => r false = (if n then 2 ^ (ew d - 1) else 0) + if d = 12 ∨ d = 19 then fpTop d else fpTop d + 1
      | .fin n m e => RoundsTo d rm sr n (valOf (.fin false m e)) (r false)))

/-- R58: the number of an S9 scale. -/
def ScalesRead : Prop := ∀ v : Nat,
  let e : ℕ := v / 2 % 2 ^ 8
  if e = 255 then s9Val v = .nan
  else IsNumber (s9Val v) (if e = 0 then 0 else 2 ^ ((e : ℤ) - 127) * (1 + ((v % 2 : ℕ) : ℚ) / 2)) false

/-- R124 to R126: the moves and conversions, and what a conversion is: R54 and R125, with the scales of R58.
The model's own choices in it: log 23. -/
def Obligations.VectorMoveResults : Prop := VectorMoveWordResults ∧ Conversions ∧ ScalesRead

/-- The word `i` completes: it writes v into the scalar register of a field, its convoy retires, and nothing else changes. -/
def VScalar (s : State) (i : Instr) (c : VCtx) (r : BitVec 6) (v : Word) : Prop :=
  ∃ t, exec i s = .next t ∧ (∀ q : Reg, t.xget q = if q = r.truncate 5 ∧ q ≠ 0 then v else s.xget q) ∧
    t = { s with me := { s.me.nextWord c.addr with x := t.me.x } }

/-- The elements that a word works on, in ascending order. -/
def worked (s : State) (c : VCtx) (w : VWord) : List Nat :=
  (List.range c.ctl.vl.toNat).filter fun n => !(w.m && !bitOf s.me.vregs 0 n)

/-- A W-bit pattern in a scalar register: sign-extended for the formats 0, 2, 4 and 6, else zero-extended (R116). -/
def asScalar (f v : Nat) : Word :=
  if f < 8 ∧ f % 2 = 0 then (BitVec.ofNat (ew f) v).signExtend 64 else BitVec.ofNat 64 (v % 2 ^ ew f)

/-- What the tree of R129 holds at index j once entries closer than 2^L have been combined: a node joins its halves at the index of
the upper one, and an absent half leaves the other. -/
def treeNode (add : Nat → Nat → Nat → Nat) (leaf : Nat → Option Nat) : Nat → Nat → Option Nat
  | 0, j => leaf j
  | n + 1, j =>
    match treeNode add leaf n j, treeNode add leaf n (j + 2 ^ n) with
    | none, y => y
    | x, none => x
    | some x, some y => some (add (j + 2 ^ n) x y)

/-- R124, R128, R129: VEXT returns one element, or 0 at or past VL; the integer reductions combine the worked elements with x[VB];
VFREDSUM adds along the fixed tree, each addition rounded with the stochastic bits of its own index, and the input last. -/
def ReductionResults : Prop := ∀ (s : State) (w : VWord),
  let W := ew w.f
  let elems := fun (c : VCtx) => (worked s c w).map fun n => laneOf s c w.va W n
  let input := fun (c : VCtx) => (c.x w.vb).toNat % 2 ^ W
  let reduces := fun (i : Instr) (v : VCtx → Word) => ∀ c, s.heads i c → VScalar s i c w.vd (v c)
  reduces (.vext w) (fun c => let k := (c.x w.vb).toNat
    asScalar w.f (if k < c.ctl.vl.toNat then inFormat w.f (laneOf s c w.va W k) else 0)) ∧
  (isInt w.f = true →
    let ints := fun (c : VCtx) => (elems c).map (intOf w.f)
    let of := fun (r : Int) => asScalar w.f (r % 2 ^ W).toNat
    reduces (.vredsum w) (fun c => of (intOf w.f (input c) + (ints c).sum)) ∧
    reduces (.vredmin w) (fun c => of ((ints c).foldl min (intOf w.f (input c)))) ∧
    reduces (.vredmax w) (fun c => of ((ints c).foldl max (intOf w.f (input c)))) ∧
    reduces (.vredand w) (fun c => asScalar w.f ((elems c).foldl (· &&& ·) (input c))) ∧
    reduces (.vredor w) (fun c => asScalar w.f ((elems c).foldl (· ||| ·) (input c))) ∧
    reduces (.vredxor w) (fun c => asScalar w.f ((elems c).foldl (· ^^^ ·) (input c)))) ∧
  reduces (.vfredmin w) (fun c => BitVec.ofNat 64 ((elems c).foldl (fminPat w.f) (input c))) ∧
  reduces (.vfredmax w) (fun c => BitVec.ofNat 64 ((elems c).foldl (fmaxPat w.f) (input c))) ∧
  reduces (.vfredsum w) (fun c =>
    let rm := if w.rm = 6 then c.ctl.vtype.toNat / 2 ^ 18 % 8 else w.rm.toNat
    let add := fun (n x y : Nat) => roundVal w.f rm (srbits c.ctl.seed c.ctl.sbase n)
      (fsumExact rm [fpDecode w.f x, fpDecode w.f y])
    let leaf := fun (n : Nat) => if n ∈ worked s c w then some (laneOf s c w.va W n) else none
    BitVec.ofNat 64 (match treeNode add leaf (Nat.log2 c.ctl.vl.toNat + 1) 0 with
      | none => input c
      | some v => add 0 (input c) v))

/-- R130, R131: VMPOP counts the worked elements whose bit of va is set, VMFIRST gives the least or all ones, VIOTA writes how many
precede each element; VCOMPRESS packs the elements whose bit of v0 is set and VEXPAND spreads them, leaving every other one. -/
def MaskScanResults : Prop := ∀ (s : State) (w : VWord),
  let W := ew w.f
  let acts := fun (c : VCtx) => (worked s c w).filter fun n => bitOf s.me.vregs w.va.toNat n
  let picked := fun (n : Nat) => (List.range n).filter fun j => bitOf s.me.vregs 0 j
  (∀ c, s.heads (.vmpop w) c → VScalar s (.vmpop w) c w.vd (BitVec.ofNat 64 (acts c).length)) ∧
  (∀ c, s.heads (.vmfirst w) c → ∃ v, VScalar s (.vmfirst w) c w.vd v ∧
    (acts c = [] → v = allOnes) ∧ (acts c ≠ [] → ∃ n ∈ acts c, v = BitVec.ofNat 64 n ∧ ∀ k ∈ acts c, n ≤ k)) ∧
  Elementwise s w (.viota w) (fun c n => ((acts c).filter fun j => j < n).length) ∧
  (∀ c, s.heads (.vcompress w) c → VComputes s (.vcompress w) c fun m m' =>
    Wrote m m' (regBytes s.me.cur c.ctl.vtype) w.vd.toNat W (fun k => k < (picked c.ctl.vl.toNat).length)
      (fun k => inFormat w.f (laneOf s c w.va W ((picked c.ctl.vl.toNat).getD k 0)))) ∧
  (∀ c, s.heads (.vexpand w) c → VComputes s (.vexpand w) c fun m m' =>
    Wrote m m' (regBytes s.me.cur c.ctl.vtype) w.vd.toNat W (fun n => n ∈ picked c.ctl.vl.toNat)
      (fun n => inFormat w.f (laneOf s c w.va W (picked n).length)))

/-- R132, R133: VLUT reads a table of 2^LGN entries that must lie inside the register or group, VPERM any element below VL; what
is not there reads 0. VSLDN slides down with zeros from VL on, VSLUP up, leaving the elements below the offset. -/
def LookupAndSlideResults : Prop := ∀ (s : State) (w : VWord),
  let W := ew w.f
  let room := fun (c : VCtx) => 8 * regBytes s.me.cur c.ctl.vtype * (if W ≤ lewOf c.ctl.vtype then 1 else W / lewOf c.ctl.vtype)
  Elementwise s w (.vlut w) (fun c n =>
    let k := laneOf s c w.vb (ew (w.fn.toNat % 32)) n
    if k < 2 ^ (w.fn.toNat / 32 % 16) ∧ W * (k + 1) ≤ room c then laneOf s c w.va W k else 0) ∧
  Elementwise s w (.vperm w) (fun c n =>
    let k := inFormat w.f (laneOf s c w.vb W n)
    if k < c.ctl.vl.toNat then laneOf s c w.va W k else 0) ∧
  Elementwise s w (.vsldn w) (fun c n =>
    let k := n + (c.x w.vb).toNat
    if k < c.ctl.vl.toNat then laneOf s c w.va W k else 0) ∧
  (∀ c, s.heads (.vslup w) c → VComputes s (.vslup w) c fun m m' =>
    Wrote m m' (regBytes s.me.cur c.ctl.vtype) w.vd.toNat W (fun n => s.works c w n ∧ (c.x w.vb).toNat ≤ n)
      (fun n => inFormat w.f (laneOf s c w.va W (n - (c.x w.vb).toNat))))

/-- R194: VROUTE takes the tokens in order. Token n reads its expert and that expert's counter as the tokens before it left the
registers. A token below the capacity gets the count as its slot and its bit of v0; every token of an expert that there is advances the
counter, one that was refused too; a token of no expert or masked loses its bit.
The model's own choices in it: log 124. -/
def RouteResult : Prop := ∀ (s : State) (w : VWord) (c : VCtx), s.heads (.vroute w) c →
  let W := ew w.f
  let rb := regBytes s.me.cur c.ctl.vtype
  let experts := 8 * rb * (if W ≤ lewOf c.ctl.vtype then 1 else W / lewOf c.ctl.vtype) / W
  VComputes s (.vroute w) c fun m m' => ∃ st : Nat → Image, st 0 = m ∧ st c.ctl.vl.toNat = m' ∧
    ∀ n, n < c.ctl.vl.toNat →
      let e := vreadImg (st n) rb w.va.toNat W n
      let k := vreadImg (st n) rb w.vc.toNat W e
      (s.works c w n ∧ e < experts →
        ∃ m1 m2, (if k < (c.x w.vb).toNat then Wrote (st n) m1 rb w.vd.toNat W (· = n) (fun _ => k) else m1 = st n) ∧
          WroteBits m1 m2 0 (· = n) (fun _ => decide (k < (c.x w.vb).toNat)) ∧
          Wrote m2 (st (n + 1)) rb w.vc.toNat W (· = e) (fun _ => min (k + 1) (2 ^ W - 1))) ∧
      (¬ (s.works c w n ∧ e < experts) → WroteBits (st n) (st (n + 1)) 0 (· = n) (fun _ => false))

/-- The entry at a position of the index scratchpad. -/
def ixAt (l : List (Nat × Word × Word)) (p : Nat) : Option (Word × Word) := (l.find? fun e => e.1 = p).map (·.2)

/-- R191, R192: one element of IXINS or IXACC with key k and value b. A key that is present takes a new value; a new key takes the
lowest free way of its set; in a full set nothing changes and the element's bit is 0. -/
def IxElem (new : Word → Word) (k b : Word) (l l' : List (Nat × Word × Word)) (bit : Bool) : Prop :=
  let set := (List.range 8).foldl (fun a j => a ^^^ k.toNat / 2 ^ (8 * j) % 256) 0
  let puts := fun (p : Nat) (v : Word) => bit = true ∧ ∀ q, ixAt l' q = if q = p then some (k, v) else ixAt l q
  (∃ p v, (p, k, v) ∈ l ∧ puts p (new v)) ∨
  ((∀ e ∈ l, e.2.1 ≠ k) ∧
    ((∃ n, n < 16 ∧ (∀ e ∈ l, e.1 ≠ 16 * set + n) ∧ (∀ n' < n, ∃ e ∈ l, e.1 = 16 * set + n') ∧ puts (16 * set + n) b) ∨
     ((∀ n < 16, ∃ e ∈ l, e.1 = 16 * set + n) ∧ bit = false ∧ l' = l)))

/-- R191 to R193, R299: the index words. A strand that does not hold the scratchpad is granted it empty. IXINS,
IXACC and IXLOOK take their elements in order, each reading the registers as the elements below it left them; IXLOOK writes the values
that are present and a bit of v0 for every element; IXDRAIN takes the next entries from its cursor on, frees them with CLRF, and leaves
the cursor after them. -/
def Obligations.IndexScratchpadResults : Prop := ∀ (s : State) (w : VWord),
  let core := s.core s.me.core
  let ix := if (20, s.me.slot) ∈ core.units then core.ix else []
  let slotted := (∀ e ∈ core.units, ∀ e' ∈ core.units, e.1 = e'.1 → e = e')
  -- the word completes with these entries and changes no other core's state and no other part of this one but UNITS
  let completes := fun (i : Instr) (c : VCtx) (P : List (Nat × Word × Word) → Image → Prop) => ∃ t, exec i s = .next t ∧
    P (t.core s.me.core).ix t.me.vregs ∧ (20, s.me.slot) ∈ (t.core s.me.core).units ∧
    (∀ u, u ≠ (20, s.me.slot) → (u ∈ (t.core s.me.core).units ↔ u ∈ core.units)) ∧
    (∀ k, k ≠ s.me.core → t.core k = s.core k) ∧
    t.core s.me.core = { core with ix := (t.core s.me.core).ix, units := (t.core s.me.core).units } ∧
    t = { s with cores := t.cores, me := { s.me.nextWord c.addr with vregs := t.me.vregs, x := t.me.x } }
  let keeps := fun (i : Instr) (P : VCtx → List (Nat × Word × Word) → Image → Prop) => ∀ c, s.heads i c →
    completes i c (P c) ∧ ∀ t, exec i s = .next t → t.me.x = s.me.x
  let rb := fun (c : VCtx) => regBytes s.me.cur c.ctl.vtype
  -- element n of a key or value register in an image
  let elem := fun (c : VCtx) (m : Image) (r : BitVec 6) n => BitVec.ofNat 64 (vreadImg m (rb c) r.toNat 64 n)
  let inserts := fun (i : Instr) (new : VCtx → Nat → Word → Word → Word) => keeps i fun c l m' =>
    ∃ (ls : Nat → List (Nat × Word × Word)) (ms : Nat → Image), ls 0 = ix ∧ ls c.ctl.vl.toNat = l ∧ ms 0 = s.me.vregs ∧
      ms c.ctl.vl.toNat = m' ∧ ∀ n, n < c.ctl.vl.toNat →
        (s.works c w n → ∃ bit, IxElem (new c n (elem c (ms n) w.vb n)) (elem c (ms n) w.va n) (elem c (ms n) w.vb n)
            (ls n) (ls (n + 1)) bit ∧ WroteBits (ms n) (ms (n + 1)) w.vd.toNat (· = n) (fun _ => bit)) ∧
        (¬ s.works c w n → ls (n + 1) = ls n ∧ ms (n + 1) = ms n)
  slotted →
  inserts (.ixins w) (fun _ _ b _ => b) ∧
  (w.f = 6 ∨ w.f = 7 → inserts (.ixacc w) (fun _ _ b v => v + b)) ∧
  (w.f = 11 → inserts (.ixacc w) (fun c n b v =>
    let rm := if w.rm = 6 then c.ctl.vtype.toNat / 2 ^ 18 % 8 else w.rm.toNat
    BitVec.ofNat 64 (roundVal 11 rm (srbits c.ctl.seed c.ctl.sbase n)
      (fsumExact rm [fpDecode 11 v.toNat, fpDecode 11 b.toNat])))) ∧
  keeps (.ixlook w) (fun c l m' => l = ix ∧ ∃ ms : Nat → Image, ms 0 = s.me.vregs ∧ ms c.ctl.vl.toNat = m' ∧
    ∀ n, n < c.ctl.vl.toNat →
      let found := ix.find? fun e => e.2.1 = elem c (ms n) w.va n
      (∀ e, s.works c w n → found = some e → ∃ m1,
        Wrote (ms n) m1 (rb c) w.vd.toNat 64 (· = n) (fun _ => e.2.2.toNat) ∧
        WroteBits m1 (ms (n + 1)) 0 (· = n) (fun _ => true)) ∧
      (¬ s.works c w n ∨ found = none → WroteBits (ms n) (ms (n + 1)) 0 (· = n) (fun _ => false))) ∧
  (∀ c, s.heads (.ixdrain w) c → c.ctl.vl ≠ 0 →
    let pos := (c.x w.vb).toNat
    let es := (ix.filter fun e => pos ≤ e.1).take c.ctl.vl.toNat
    let next := if es.length = c.ctl.vl.toNat then ((es.getLast?.map fun e => e.1 + 1).getD pos) else max pos 4096
    completes (.ixdrain w) c (fun l m' =>
      l = (if w.fn.getLsbD 0 then ix.filter (fun e => e ∉ es) else ix) ∧ ∃ m1 m2,
        Wrote s.me.vregs m1 (rb c) w.vd.toNat 64 (· < es.length) (fun n => ((es[n]?).map fun e => e.2.1.toNat).getD 0) ∧
        Wrote m1 m2 (rb c) w.vc.toNat 64 (· < es.length) (fun n => ((es[n]?).map fun e => e.2.2.toNat).getD 0) ∧
        WroteBits m2 m' 0 (· < c.ctl.vl.toNat) (fun n => decide (n < es.length))) ∧
    ∀ t, exec (.ixdrain w) s = .next t → ∀ q : Reg, t.xget q =
      if q = w.vb.truncate 5 ∧ q ≠ 0 then BitVec.ofNat 64 next else s.xget q) ∧
  (∀ c, s.heads (.ixdrain w) c → c.ctl.vl = 0 → completes (.ixdrain w) c (fun l m' => l = ix ∧ m' = s.me.vregs) ∧
    ∀ t, exec (.ixdrain w) s = .next t → t.me.x = s.me.x)

/-- No move is in transit, and so no write is held for one (R255). -/
abbrev Still (s : State) : Prop := s.moves = [] ∧ s.heldWrites = []

/-- Every store, atomic and move that the strand has issued can be performed now, so that a trap record may be made (R360). -/
abbrev Finishes (s : State) : Prop := (s.finishStrand s.me).unfinished s.me = false

/-- A vector read of n bytes at va passes its checks and ends at pa (R136, R137, R224, R383). -/
def ReadsAt (s : State) (va : Word) (n pa : Nat) : Prop :=
  va.toNat % n = 0 ∧ (∃ p : Probed, s.probeRead s.me.ptroot va false = .ok p ∧ s.follow p.pa = pa) ∧ Readable s pa

/-- Memory stays but for the ARM bits of the chamber slots that were read (R224). -/
def ReadOnly (s t : State) (pas : Nat → Prop) : Prop :=
  ∀ q, (∀ pa tag, pas pa → s.slotTag pa = some tag → s.canon q ≠ s.canon (tag + 14)) → t.byte q = s.byte q

/-- Bytes of an element in memory; a 4-bit element shares its byte. -/
def memBytes (f : Nat) : Nat := if ew f = 4 then 1 else ew f / 8

/-- The n bytes at pa as the slice of element e sees them: memory, and over it the strand's own stores that have not been performed, those
of the same slice and those of its own convoy (R78, R140). -/
def seenBytes (s : State) (c : VCtx) (W e pa n : Nat) : List Byte := s.bytesOver (s.ownStores c (s.slice c W e)) pa n

/-- What the load buffer holds of the accesses of the word that issues next, in its order, each with its size (R215). -/
def buffered (s : State) (l : List (Word × Nat)) : Option (List (List Byte)) :=
  s.earlyBytes (l.map fun x => { elem := 0, va := x.1, n := x.2, path := 0 })

/-- The word `i` completes: the elements that it reads, in ascending order, take what `va` names, the other elements of `idx` are
zero. With `hi` an element is the high nibble of its byte. Reads that were made early and confirmed are its reads (R215). Stated
where no move is in transit. -/
def VLoads (s : State) (w : VWord) (i : Instr) (reads : VCtx → List Nat) (idx : VCtx → Nat → Prop) (va : VCtx → Nat → Word)
    (hi : VCtx → Nat → Bool) (P : VCtx → State → Prop) : Prop :=
  ∀ c, s.heads i c → Still s → ∀ pa : Nat → Nat, (∀ e ∈ reads c, ReadsAt s (va c e) (memBytes w.f) (pa e)) →
    let early := buffered s ((reads c).map fun e => (va c e, memBytes w.f))
    let raw := fun e => leNat (match early with
      | some bs => bs.getD ((reads c).idxOf e) []
      | none => seenBytes s c (ew w.f) e (pa e) (memBytes w.f))
    let value := fun e => if ew w.f = 4 then raw e / (if hi c e then 16 else 1) % 16 else raw e
    ∃ t v, exec i s = .next t ∧ P c t ∧
      (∀ e, e ∈ reads c → v e = inFormat w.f (value e)) ∧ (∀ e, e ∉ reads c → v e = 0) ∧
      Wrote s.me.vregs t.me.vregs (regBytes s.me.cur c.ctl.vtype) w.vd.toNat (ew w.f) (idx c) v ∧
      ReadOnly s t (fun q => ∃ e ∈ reads c, q = pa e) ∧ ((∀ e ∈ reads c, s.region (pa e) ≠ .slow) → t.out = s.out)

/-- Nothing else changes but the TLB and what has been asked of the host. -/
def keepsRest (s : State) (c : VCtx) (t : State) : Prop :=
  t = { s with mem := t.mem, tlb := t.tlb, out := t.out, me := { s.me.nextWord c.addr with vregs := t.me.vregs } }

/-- x[VA] + SX(FN, 14), and offset n of the vector of field r, LEW bits wide (R134). -/
def vbase (c : VCtx) (w : VWord) : Word := c.x w.va + w.fn.signExtend 64
def voffset (s : State) (c : VCtx) (r : BitVec 6) (n : Nat) : Int :=
  (BitVec.ofNat (lewOf c.ctl.vtype) (laneOf s c r (lewOf c.ctl.vtype) n)).toInt

/-- R142, R145: contiguous, strided and indexed loads read every worked element at its address, a 4-bit element from the nibble
of its parity; VLDXB reads only what lies inside x[VC] bytes and gives zero elsewhere.
The model's own choices in it: log 12, 19. -/
def VectorLoadWordResults : Prop := ∀ (s : State) (w : VWord),
  let n := memBytes w.f
  let odd := fun (_ : VCtx) (e : Nat) => decide (e % 2 = 1)
  let loads := fun (i : Instr) (va : VCtx → Nat → Word) =>
    VLoads s w i (fun c => worked s c w) (fun c => s.works c w) va odd (keepsRest s)
  let indexed := fun (c : VCtx) e => vbase c w + BitVec.ofInt 64 (voffset s c w.vb e)
  let inside := fun (c : VCtx) e => decide (0 ≤ voffset s c w.vb e) && decide (voffset s c w.vb e + n ≤ (c.x w.vc).toNat)
  loads (.vld w) (fun c e => vbase c w + BitVec.ofNat 64 (if ew w.f = 4 then e / 2 else e * n)) ∧
  loads (.vlds w) (fun c e => vbase c w + BitVec.ofNat 64 e * c.x w.vb) ∧
  loads (.vldx w) indexed ∧
  VLoads s w (.vldxb w) (fun c => (worked s c w).filter (inside c)) (fun c => s.works c w) indexed odd (keepsRest s)

/-- R144: VLDSEG takes the pairs of element and field in order, element by element; field f of element e, in format MFMT at
base + (e NF + f) bytes of MFMT, goes converted into element e of the f-th register group. -/
def SegmentLoadResult : Prop := ∀ (s : State) (w : VWord) (c : VCtx), s.heads (.vldseg w) c → Still s →
  let nf := w.vb.toNat
  let mf := w.vc.toNat
  let mb := ew mf / 8
  let size := if ew w.f ≤ lewOf c.ctl.vtype then 1 else ew w.f / lewOf c.ctl.vtype
  let rm := if w.rm = 6 then c.ctl.vtype.toNat / 2 ^ 18 % 8 else w.rm.toNat
  let pairs := (worked s c w).flatMap fun e => (List.range nf).map fun f => (e, f)
  let va := fun (p : Nat × Nat) => vbase c w + BitVec.ofNat 64 ((p.1 * nf + p.2) * mb)
  ∀ pa : Nat × Nat → Nat, (∀ p ∈ pairs, ReadsAt s (va p) mb (pa p)) →
    ∃ (t : State) (ms : Nat → Image), exec (.vldseg w) s = .next t ∧ ms 0 = s.me.vregs ∧ ms pairs.length = t.me.vregs ∧
      (∀ k p, pairs[k]? = some p →
        let bytes := match buffered s (pairs.map fun p => (va p, mb)) with
          | some bs => bs.getD k []
          | none => seenBytes s c (ew w.f) p.1 (pa p) mb
        Wrote (ms k) (ms (k + 1)) (regBytes s.me.cur c.ctl.vtype) (w.vd.toNat + p.2 * size) (ew w.f) (· = p.1)
          (fun _ => convert w.f mf rm (srbits c.ctl.seed c.ctl.sbase p.1) false (leNat bytes))) ∧
      ReadOnly s t (fun q => ∃ p ∈ pairs, q = pa p) ∧ ((∀ p ∈ pairs, s.region (pa p) ≠ .slow) → t.out = s.out) ∧
      keepsRest s c t

/-- The word `i` completes: its stores enter the strand's store queues behind those that wait there, and nothing else changes but the
units that the word is granted (R35; none for a STORE word). The k-th store is `at_ k` = (address, bytes with masks, path unit). -/
def VStores (s : State) (w : VWord) (i : Instr) (c : VCtx) (count : Nat) (at_ : Nat → Word × List (Byte × Byte) × Nat) : Prop :=
  let g := s.grantUnits (instrUnits i)
  s.heads i c → ∀ pa : Nat → Nat,
    (∀ k, k < count → (at_ k).1.toNat % (at_ k).2.1.length = 0 ∧
      ∃ p : Probed, s.probe s.me.ptroot (at_ k).1 .write false = .ok p ∧ p.pa = pa k) →
    ∃ t es, exec i s = .next t ∧ (t.core s.me.core).squeue = (s.core s.me.core).squeue ++ es ∧ es.length = count ∧
      (∀ k e, es[k]? = some e → e.slot = s.me.slot ∧ e.path = (at_ k).2.2 ∧ e.pa = pa k ∧ e.bytes = (at_ k).2.1 ∧
        e.colour = w.clr.toNat ∧ e.convoy = s.nextSerial) ∧
      (∀ k, k ≠ s.me.core → t.core k = s.core k) ∧
      t.core s.me.core = { g.core s.me.core with squeue := (t.core s.me.core).squeue } ∧
      t = { s with cores := t.cores, tlb := t.tlb, nextSerial := s.nextSerial + 1, me := s.me.nextWord c.addr }

/-- What a store of an element writes: all its bytes, or the nibble of its parity (R143). -/
def elemStore (f e v : Nat) : List (Byte × Byte) :=
  if ew f = 4 then [if e % 2 = 1 then (BitVec.ofNat 8 (16 * v), 0xF0) else (BitVec.ofNat 8 v, 0x0F)]
  else (leBytes (ew f / 8) (inFormat f v)).map fun b => (b, 0xFF)

/-- R142 to R146: the store words put every worked element, in ascending order, into the store queues of its slice in their
colour, VSTSEG every field of each converted to MFMT. -/
def Obligations.VectorStoreResults : Prop := ∀ (s : State) (w : VWord) (c : VCtx),
  let es := worked s c w
  let n := memBytes w.f
  let stores := fun (i : Instr) (va : Nat → Word) => VStores s w i c es.length fun k =>
    let e := es.getD k 0
    (va e, elemStore w.f e (laneOf s c w.vd (ew w.f) e), s.slice c (ew w.f) e)
  let nf := w.vb.toNat
  let mb := ew w.vc.toNat / 8
  let size := if ew w.f ≤ lewOf c.ctl.vtype then 1 else ew w.f / lewOf c.ctl.vtype
  let rm := if w.rm = 6 then c.ctl.vtype.toNat / 2 ^ 18 % 8 else w.rm.toNat
  stores (.vst w) (fun e => vbase c w + BitVec.ofNat 64 (if ew w.f = 4 then e / 2 else e * n)) ∧
  stores (.vsts w) (fun e => vbase c w + BitVec.ofNat 64 e * c.x w.vb) ∧
  stores (.vstx w) (fun e => vbase c w + BitVec.ofInt 64 (voffset s c w.vb e)) ∧
  (VStores s w (.vstseg w) c (es.length * nf) fun k =>
    let e := es.getD (k / nf) 0
    let v := vreadImg s.me.vregs (regBytes s.me.cur c.ctl.vtype) (w.vd.toNat + k % nf * size) (ew w.f) e
    (vbase c w + BitVec.ofNat 64 ((e * nf + k % nf) * mb),
      (leBytes mb (convert w.vc.toNat w.f rm (srbits c.ctl.seed c.ctl.sbase e) false v)).map (fun b => (b, 0xFF)),
      s.slice c (ew w.f) e))

/-- The strand's binding of a register. -/
def boundTo (t : Strand) (r : Nat) : Option Skein := t.skeins.find? fun k => k.reg = r

/-- R147 to R149: VSKEIN binds a copy of the record at its base to a register, with cursor 0, or takes a binding away; VLDK reads the
next VL elements of the bound stream in rows of CNT0, zero past the end, and moves the cursor. A record with a zero count is
SKEIN-FORM, a fifth binding of a sound record SKEIN-LIMIT, a register without binding SKEIN-UNBOUND, and a 4-bit stream whose STR0 is
not 0, 1 or -1 SKEIN-FORM. With VL = 0 the words do nothing.
The model's own choices in it: log 12, 52. -/
def Obligations.SkeinResults : Prop := ∀ (s : State) (w : VWord),
  let r := w.vd.toNat
  let raises := fun (i : Instr) (c : VCtx) (k : FaultKind) (a : Word) =>
    s.me.held = .no → Finishes s →
      exec i s = .next (({ s with me := { s.me with issued := none, vwaitDone := [], vwaitAt := 0, disarms := [] } } : State).takeTrap
        { kind := k, addr := a } c.addr true 0)
  (∀ c, c.ctl.vl = 0 → ∀ i ∈ [Instr.vskein w, .vskeinUnbind w], s.heads i c →
    exec i s = .next { s with me := s.me.nextWord c.addr }) ∧
  (∀ c pa, s.heads (.vskein w) c → Still s → c.ctl.vl ≠ 0 → ReadsAt s (vbase c w) 32 pa →
    let v := leNat (match buffered s [(vbase c w, 32)] with
      | some bs => bs.flatten
      | none => s.bytesOver (s.ownStores c (2 ^ 64 - 1)) pa 32)
    let f := fun lo n => v / 2 ^ lo % 2 ^ n
    let k : Skein := { reg := r, base := BitVec.ofNat 64 (f 0 64), str0 := BitVec.ofNat 64 (f 64 64),
                       str1 := BitVec.ofNat 64 (f 128 64), cnt0 := f 192 32, cnt1 := f 224 32, cursor := 0 }
    let sound := f 192 32 ≠ 0 ∧ f 224 32 ≠ 0
    let room := (boundTo s.me r).isSome ∨ s.me.skeins.length < 4
    (room → sound → ∃ t, exec (.vskein w) s = .next t ∧ boundTo t.me r = some k ∧
      (∀ q, q ≠ r → boundTo t.me q = boundTo s.me q) ∧ ReadOnly s t (· = pa) ∧ s.sameCores t ∧
      (s.region pa ≠ .slow → t.out = s.out) ∧
      t = { s with mem := t.mem, tlb := t.tlb, out := t.out, cores := t.cores,
                   me := { s.me.nextWord c.addr with skeins := t.me.skeins } }) ∧
    (¬ sound → raises (.vskein w) c .skeinForm (vbase c w)) ∧
    (sound → ¬ room → raises (.vskein w) c .skeinLimit (vbase c w))) ∧
  (∀ c, s.heads (.vskeinUnbind w) c → c.ctl.vl ≠ 0 → ∃ t, exec (.vskeinUnbind w) s = .next t ∧ boundTo t.me r = none ∧
    (∀ q, q ≠ r → boundTo t.me q = boundTo s.me q) ∧
    t = { s with me := { s.me.nextWord c.addr with skeins := t.me.skeins } }) ∧
  (∀ c, s.heads (.vldk w) c → c.ctl.vl ≠ 0 → boundTo s.me r = none → raises (.vldk w) c .skeinUnbound 0) ∧
  (∀ c, s.heads (.vldk w) c → c.ctl.vl = 0 → exec (.vldk w) s = .next { s with me := s.me.nextWord c.addr }) ∧
  (∀ c k, s.heads (.vldk w) c → c.ctl.vl ≠ 0 → boundTo s.me r = some k → ew w.f = 4 → k.str0 ∉ [0, 1, allOnes] →
    raises (.vldk w) c .skeinForm 0) ∧
  (∀ k, boundTo s.me r = some k → k.cnt0 ≠ 0 → (ew w.f = 4 → k.str0 ∈ [0, 1, allOnes]) →
    let tot := k.cnt0 * k.cnt1
    let row := fun e => (k.cursor + e) / k.cnt0
    let col := fun e => (k.cursor + e) % k.cnt0
    -- in a 4-bit format the stream counts nibbles along a row
    let nibble := fun e => 2 * (k.base.toNat : Int) + 2 * (row e : Nat) * k.str1.toInt + (col e : Nat) * k.str0.toInt
    VLoads s w (.vldk w) (fun c => if c.ctl.vl = 0 then [] else (worked s c w).filter fun e => k.cursor + e < tot)
      (fun c => s.works c w)
      (fun _ e => if ew w.f = 4 then BitVec.ofInt 64 (nibble e / 2)
        else k.base + BitVec.ofNat 64 (row e) * k.str1 + BitVec.ofNat 64 (col e) * k.str0)
      (fun _ e => decide (nibble e % 2 = 1))
      (fun c t => c.ctl.vl ≠ 0 →
        boundTo t.me r = some { k with cursor := min (k.cursor + c.ctl.vl.toNat) tot } ∧
        (∀ q, q ≠ r → boundTo t.me q = boundTo s.me q) ∧ s.sameCores t ∧
        t = { s with mem := t.mem, tlb := t.tlb, out := t.out, cores := t.cores,
                     me := { s.me.nextWord c.addr with vregs := t.me.vregs, skeins := t.me.skeins } }))

/-- An access that a vector atomic of the executing strand may read and write, ending at pa: a plain line, its slot's tag right, not
poisoned, reachable, no register that only the hardware writes (R136, R150, R224). -/
def WritesAt (s : State) (va : Word) (n pa : Nat) : Prop :=
  va.toNat % n = 0 ∧
  (∃ p : Probed, s.probe s.me.ptroot va .write false = .ok p ∧ s.follow p.pa = pa ∧ s.slotMismatch p.pa = false) ∧
  s.tether pa = .plain ∧ Readable s pa ∧ s.plainBytes pa n

/-- R150, R151: a vector atomic updates the addresses of its worked elements one after another, in ascending order, and writes each
old value into VD. Stated where no move is in transit, no store of the strand waits in its store queues, and with RL no VEC write of
it is held. -/
def Obligations.VectorAtomicResults : Prop := ∀ (s : State) (w : VWord), 4 ≤ w.f ∧ w.f < 8 →
  let W := ew w.f
  let n := memBytes w.f
  let atomics := fun (i : Instr) (new : BitVec W → BitVec W → BitVec W → Option (BitVec W)) => ∀ c, s.heads i c →
    Still s → (∀ e ∈ (s.core s.me.core).squeue, e.slot ≠ s.me.slot) →
    (w.fn.getLsbD 8 = true → s.stillHeld s.me.core s.me.slot (fun o => decide (o.path < 4)) = false) → ∀ pa : Nat → Nat,
    (∀ e, s.works c w e → WritesAt s (c.x w.va + BitVec.ofInt 64 (voffset s c w.vb e)) n (pa e)) →
    let es := worked s c w
    let arg := fun (r : BitVec 6) e => BitVec.ofNat W (laneOf s c r W e)
    ∃ (t : State) (st : Nat → State) (old : Nat → Nat), exec i s = .next t ∧ s.sameBytes (st 0) ∧
      ReadOnly (st es.length) t (fun q => ∃ e ∈ es, q = pa e) ∧
      (∀ k e, es[k]? = some e → old e = (st k).natAt (pa e) n ∧
        match new (BitVec.ofNat W (old e)) (arg w.vc e) (arg w.vd e) with
        | some v => (st k).stored (st (k + 1)) (pa e) n v.toNat
        | none => (st k).sameBytes (st (k + 1))) ∧
      Wrote s.me.vregs t.me.vregs (regBytes s.me.cur c.ctl.vtype) w.vd.toNat W (s.works c w) old ∧ s.sameCores t ∧
      t = { s with mem := t.mem, tlb := t.tlb, cores := t.cores, windows := t.windows, snoopFilter := t.snoopFilter,
                   out := t.out, me := { s.me.nextWord c.addr with vregs := t.me.vregs } }
  let lt := fun (a b : BitVec W) => if w.f % 2 = 0 then decide (a.toInt < b.toInt) else decide (a.toNat < b.toNat)
  atomics (.vamoswap w) (fun _ y _ => some y) ∧
  atomics (.vamoadd w) (fun o y _ => some (o + y)) ∧
  atomics (.vamoand w) (fun o y _ => some (o &&& y)) ∧
  atomics (.vamoor w) (fun o y _ => some (o ||| y)) ∧
  atomics (.vamoxor w) (fun o y _ => some (o ^^^ y)) ∧
  atomics (.vamomin w) (fun o y _ => some (if lt y o then y else o)) ∧
  atomics (.vamomax w) (fun o y _ => some (if lt o y then y else o)) ∧
  atomics (.vamocas w) (fun o y x => if o = x then some y else none)

/-- The condition of a VWAIT holds for element e, read at pa (R152). -/
def WaitHolds (s : State) (c : VCtx) (w : VWord) (pa e : Nat) : Prop :=
  let a := intOf w.f (leNat (seenBytes s c (ew w.f) e pa (memBytes w.f)))
  let b := intOf w.f (laneOf s c w.vc (ew w.f) e)
  match w.fn.toNat / 4 % 16 with
  | 0 => a = b | 1 => a ≠ b | 2 => a < b | 3 => a ≤ b | 4 => a > b | _ => a ≥ b

/-- R152: VWAIT completes once each worked element has been seen to meet its condition, by this reading or by an earlier one of the same
word; until then the convoy parks, and what has been met stays met. With AQ every invalidation that the core's data cache has received is then
applied (R225). -/
def VectorWaitResults : Prop := ∀ (s : State) (w : VWord) (c : VCtx), s.heads (.vwait w) c → Still s →
  isInt w.f = true →
  let done := if s.me.vwaitAt = c.addr then s.me.vwaitDone else []
  ∀ pa : Nat → Nat,
    (∀ e, s.works c w e → ReadsAt s (c.x w.va + BitVec.ofInt 64 (voffset s c w.vb e)) (memBytes w.f) (pa e)) →
    let met := fun e => WaitHolds s c w (pa e) e
    ((∀ e, s.works c w e → e ∈ done ∨ met e) → ∃ t, exec (.vwait w) s = .next t ∧
      ReadOnly s t (fun q => ∃ e, s.works c w e ∧ q = pa e) ∧ s.sameCores t ∧
      (w.fn.getLsbD 6 = true → (t.core s.me.core).invals = []) ∧ (w.fn.getLsbD 6 = false → t.cores = s.cores) ∧
      ((∀ e, s.works c w e → s.region (pa e) ≠ .slow) → t.out = s.out) ∧
      t = { s with mem := t.mem, tlb := t.tlb, out := t.out, cores := t.cores, me := s.me.nextWord c.addr }) ∧
    ((∃ e, s.works c w e ∧ e ∉ done ∧ ¬ met e) → ∃ done', exec (.vwait w) s = .next
        { s with me := { s.me with vwaitDone := done', vwaitAt := c.addr, parked := .vwait } } ∧
      ∀ e, e ∈ done' ↔ e ∈ done ∨ (s.works c w e ∧ met e))

/-- R153: VPGALLOC takes from the record at x[VA] = (TOP, ARR) one entry from the top down for each worked element while there are
any, writes the entries into VD, which elements were served into v0, and how many into x[VC], and lowers TOP. With VL = 0 it only clears
x[VC]. -/
def PageGrantResult : Prop := ∀ (s : State) (w : VWord) (c : VCtx), s.heads (.vpgalloc w) c →
  (c.ctl.vl = 0 → VScalar s (.vpgalloc w) c w.vc 0) ∧
  (Still s → c.ctl.vl ≠ 0 → (∀ e ∈ (s.core s.me.core).squeue, e.slot ≠ s.me.slot) → ∀ rec : Nat, WritesAt s (c.x w.va) 16 rec →
  s.region (rec + 8) = s.region rec →
  let top := s.natAt rec 8
  let arr := s.natAt (rec + 8) 8
  let served := (worked s c w).take top
  arr % 8 = 0 → ∀ pa : Nat → Nat,
    (∀ k, k < served.length → ReadsAt s (BitVec.ofNat 64 (arr + 8 * (top - 1 - k))) 8 (pa k)) →
    ∃ t m1, exec (.vpgalloc w) s = .next t ∧
      Wrote s.me.vregs m1 (regBytes s.me.cur c.ctl.vtype) w.vd.toNat 64 (· ∈ served)
        (fun e => s.natAt (pa (served.idxOf e)) 8) ∧
      WroteBits m1 t.me.vregs 0 (· < c.ctl.vl.toNat) (fun e => decide (e ∈ served)) ∧
      (∀ q : Reg, t.xget q = if q = w.vc.truncate 5 ∧ q ≠ 0 then BitVec.ofNat 64 served.length else s.xget q) ∧
      (served ≠ [] → t.natAt rec 8 = top - served.length) ∧
      (∀ q, ¬ (rec ≤ s.canon q ∧ s.canon q < rec + 8) →
        (∀ k tag, k < served.length → s.slotTag (pa k) = some tag → s.canon q ≠ s.canon (tag + 14)) →
        (∀ tag, s.slotTag rec = some tag → s.canon q ≠ s.canon (tag + 14)) → t.byte q = s.byte q) ∧
      s.sameCores t ∧
      t = { s with mem := t.mem, tlb := t.tlb, cores := t.cores, windows := t.windows, snoopFilter := t.snoopFilter,
                   out := t.out, me := { s.me.nextWord c.addr with vregs := t.me.vregs, x := t.me.x } })

/-- R154, R156, R158: VSTK hands a command of its elements to the stack engines; VADDR.EQ writes whether two addresses end at one
byte; VTMOVE moves the line of each element in order, as TMOVE and its commit do, in the colour of the word.
The model's own choices in it: log 85, 102. -/
def Obligations.GatherMoveAndCompareResults : Prop := ∀ (s : State) (w : VWord) (c : VCtx),
  let es := worked s c w
  let first := fun e => vbase c w + BitVec.ofInt 64 (voffset s c w.vb e)
  let second := fun e => vbase c w + BitVec.ofInt 64 (voffset s c w.vc e)
  (s.heads (.vstk w) c →
    let n := memBytes w.f
    let dest := fun e => c.x w.vc + BitVec.ofNat 64 (e * n)
    ∀ x y : Nat → Xl, (∀ e ∈ es, (first e).toNat % n = 0 ∧ (dest e).toNat % n = 0 ∧
      s.xlate s.me.ptroot (first e) .read = .ok (x e) ∧ s.xlate s.me.ptroot (dest e) .write = .ok (y e) ∧
      (x e).device = false ∧ (y e).device = false ∧ ∃ k, s.region (x e).pa = .hbm k) →
    exec (.vstk w) s = .next { s with
      stackq := if es = [] then s.stackq else s.stackq ++
        [{ owner := ⟨s.me.core, s.me.slot, s.me.serial⟩, kind := .gather w.f (es.map fun e => (e, (x e).pa, (y e).pa)),
           recd := [], pages := [], colour := w.clr.toNat, step := s.free }],
      me := s.me.nextWord c.addr }) ∧
  (s.heads (.vaddrEq w) c → ∀ a b : Nat → Nat,
    (∀ e ∈ es, (∃ p : Probed, s.probeRead s.me.ptroot (first e) false = .ok p ∧ p.pa = a e) ∧
      ∃ p : Probed, s.probeRead s.me.ptroot (second e) false = .ok p ∧ p.pa = b e) →
    VComputes s (.vaddrEq w) c fun m m' => WroteBits m m' w.vd.toNat (s.works c w) (fun e => decide (a e = b e))) ∧
  -- VTMOVE in general: element by element, each checked on the state h that the committed moves of those before it leave, their
  -- destinations held; the moves begin in that order (st), and then each goes as far as it can
  (s.heads (.vtmove w) c → ∀ (st h u : Nat → State) (m : Nat → MoveTo), st 0 = s.fresh.1 → h 0 = s.fresh.1 →
    let word := s.fresh.2
    (∀ k e, es[k]? = some e → (h k).moveStages (first e) (second e) = .ok () ∧
      (h k).moveCheck (first e) (second e) ((List.range k).map fun j => (m j).dst) = .ok (u k, m k) ∧
      st (k + 1) = ((st k).followMoves (u k) word).beginMove (m k) w.clr.toNat 0 word ∧
      h (k + 1) = ((u k).beginMove (m k) w.clr.toNat 0 word).finishMove
        { line := (m k).src, dest := (m k).dst, colour := w.clr.toNat, owner := (u k).me.owner, via := (m k).via, path := 0,
          word := word }) →
    exec (.vtmove w) s = .next { (List.range es.length).foldl (fun v k => v.settleLine (m k).src) (st es.length) with
      me := s.me.nextWord c.addr }) ∧
  -- and of one element, where no write waits anywhere: the line and its poison at the destination, a tether word behind them
  (s.heads (.vtmove w) c → ∀ (e : Nat) (p : Probed) (x : Xl), es = [e] → Still s → s.portHeld = [] →
    (∀ k ∈ s.cores, k.2.sbuf = [] ∧ k.2.squeue = []) → (first e).toNat % 128 = 0 → (second e).toNat % 128 = 0 →
    s.probe s.me.ptroot (first e) .write false = .ok p → s.xlate s.me.ptroot (second e) .write = .ok x → x.device = false →
    s.admitted x.pa .write = true → s.hasTether p.pa = true → p.sink = false → p.pin = false → s.onChip p.pa = false →
    x.sink = false → x.pin = false → s.onChip x.pa = false → s.tether x.pa = .plain → s.farTether ⟨x.pa, []⟩ = none →
    s.tether p.pa = .plain → s.region x.pa ≠ .slow → s.destReady p.pa = true → s.silent p.pa = false →
    let l := lineOf p.pa
    let d := lineOf x.pa
    l ≠ d → (∀ j, j < 128 → s.canon (l + j) = l + j) → s.plainBytes d 128 →
    (∀ n, s.region x.pa = .remote n → s.portOpen n = true) →
    ∃ t, exec (.vtmove w) s = .next t ∧ t.bytesAt d 128 = s.bytesAt l 128 ∧ t.poisoned d = s.badLine l ∧
      t.natAt l 8 = d / 128 % 2 ^ 42 * 2 ^ 22 + s.scc.toNat / 2 ^ 30 % 2 ^ 22 ∧ t.tether l = .tethered ∧
      t.poisoned l = s.poisoned l ∧ (∀ j, 8 ≤ j → j < 128 → t.byte (l + j) = s.byte (l + j)) ∧
      (∀ q, lineOf (s.canon q) ≠ l → lineOf (s.canon q) ≠ d →
        t.byte q = s.byte q ∧ t.poisoned q = s.poisoned q ∧ t.tether q = s.tether q) ∧ s.sameCores t ∧
      t = { s with mem := t.mem, lines := t.lines, cores := t.cores, windows := t.windows, snoopFilter := t.snoopFilter,
                   out := t.out, nextSerial := s.nextSerial + 1, me := s.me.nextWord c.addr })

/-- R35, R299: what a grant does. Each named unit that no strand holds becomes the slot's with zero contents; a unit that is held,
and every other one, keeps its holder and its contents. -/
def UnitsGranted : Prop := ∀ (s : State) (us : List Nat), (∀ u ∈ us, u < 21) →
  let c := s.core s.me.core
  let t := s.grantUnits us
  let d := t.core s.me.core
  let free := fun (u : Nat) => ∀ e ∈ c.units, e.1 ≠ u
  (∀ e, e ∈ d.units ↔ e ∈ c.units ∨ (e.1 ∈ us ∧ free e.1 ∧ e.2 = s.me.slot)) ∧
  (∀ u, u < 20 → unitContents d u = if u ∈ us ∧ (∀ e ∈ c.units, e.1 ≠ u) then (unitContents c u).map (fun _ => 0) else unitContents c u) ∧
  ((20 ∈ us ∧ free 20) → d.ix = []) ∧ (¬ (20 ∈ us ∧ free 20) → d.ix = c.ix) ∧
  (∀ k, k ≠ s.me.core → t.core k = s.core k) ∧
  d = { c with units := d.units, tiles := d.tiles, pregs := d.pregs, sregs := d.sregs, ix := d.ix } ∧
  t = { s with cores := t.cores }

/-- The core as a word finds it once the units that it names have been granted. -/
def foundCore (s : State) (i : Instr) : Core := (s.grantUnits (instrUnits i)).core s.me.core

/-- The word `i` completes: of its core only what P says of (before, after) changes, with the strand's vector registers, and
what its reads touch and ask of the host; VL = 0 changes nothing. -/
def MComputes (s : State) (i : Instr) (c : VCtx) (P : Core → State → Prop) : Prop :=
  let k := foundCore s i
  ∃ t, exec i s = .next t ∧ (c.ctl.vl ≠ 0 → P k t) ∧
    (c.ctl.vl = 0 → t.core s.me.core = k ∧ t.me.vregs = s.me.vregs ∧ t.mem = s.mem ∧ t.tlb = s.tlb ∧ t.out = s.out) ∧
    (∀ n, n ≠ s.me.core → t.core n = s.core n) ∧
    let me := { s.me.nextWord c.addr with vregs := t.me.vregs }
    t = { s with cores := t.cores, mem := t.mem, tlb := t.tlb, out := t.out, me := me }

/-- Where a MATRIX word reads memory, no move is in transit and every earlier MATRIX store of the strand is performed; else they would
be performed first (R162). -/
abbrev MatCalm (s : State) : Prop := Still s ∧ s.stillHeld s.me.core s.me.slot (fun o => o.path = 4) = false

/-- Reads of these addresses asked the host for nothing but lines of the slow tier, and left memory but for ARM bits (R224). -/
def OnlyRead (s t : State) (pas : Nat → Prop) : Prop :=
  ReadOnly s t pas ∧ ((∀ q, pas q → s.region q ≠ .slow) → t.out = s.out)

/-- The word `i` also names no tile of an open epoch. -/
def tileFree (s : State) (tile : BitVec 6) : Prop := s.openTile s.me ≠ some tile.toNat

/-- Cell (r, col) of a tile in the view of a format: 64 rows of 128 cells of 4 bytes, or of 64 cells of 8 bytes for F64 (R33, R163). -/
def cellOf (k : Core) (f tile r col : Nat) : Nat :=
  if f = 11 then leNat (imgBytes k.tiles (32768 * tile + 8 * (64 * r + col)) 8)
  else leNat (imgBytes k.tiles (32768 * tile + 4 * (128 * r + col)) 4)

/-- Columns of a row, and the columns that TCOLS selects. -/
def fullCols (f : Nat) : Nat := if f = 11 then 64 else 128
def usedCols (c : VCtx) (f : Nat) : Nat := (if f = 11 then 16 else 32) * 2 ^ (c.ctl.vtype.toNat / 2 ^ 8 % 4)

/-- Cells (r, col) with `sel r col` take a new value, the other cells of the tile and every other byte of the core's tiles stay. -/
def CellsSet (k k' : Core) (f tile : Nat) (sel : Nat → Nat → Prop) (v : Nat → Nat → Nat) : Prop :=
  (∀ r col, r < 64 → col < fullCols f →
    (sel r col → cellOf k' f tile r col = v r col % 2 ^ (if f = 11 then 64 else 32)) ∧
    (¬ sel r col → cellOf k' f tile r col = cellOf k f tile r col)) ∧
  (∀ a, a < 32768 * tile ∨ 32768 * (tile + 1) ≤ a → imgGet k'.tiles a = imgGet k.tiles a) ∧
  k' = { k with tiles := k'.tiles }

/-- A source element of a MATRIX word: zero at and above VL (R160). -/
def matElem (s : State) (c : VCtx) (r : BitVec 6) (W n : Nat) : Nat := if n < c.ctl.vl.toNat then laneOf s c r W n else 0

/-- Element n of v1, W bits wide; zero past the register (R161). -/
def v1Elem (s : State) (c : VCtx) (W n : Nat) : Nat :=
  if (n + 1) * (W / 8) ≤ regBytes s.me.cur c.ctl.vtype then laneOf s c 1 W n else 0

/-- An outer product of K terms for each cell of the selected columns and of the rows that v0 doesn't mask: the exact sum of the old
value and of the products, or for TOPSUB of their negations, rounded once (R163, R164, R166, R167). `row k r` gives A(k, r). -/
def Outer (s : State) (w : VWord) (i : Instr) (sub : Bool) (row : VCtx → Nat → Nat → Nat) : Prop :=
  ∀ c, s.heads i c → tileFree s w.vd → c.ctl.vtype.toNat / 2 ^ 8 % 4 ≠ 3 →
  let f := w.f
  let K := match f with | 0 | 1 | 12 | 13 | 15 | 19 => 2 | 14 => 4 | _ => 1
  let kix := w.fn.toNat % 128
  let rm := if w.rm = 6 then c.ctl.vtype.toNat / 2 ^ 18 % 8 else w.rm.toNat
  let a := fun r k => row c k r
  let b := fun col k => matElem s c w.vb (ew f) ((kix * K + k) * fullCols f + col)
  let signed := fun (v : FVal) => if sub then v.negate else v
  -- the descriptor of the column's group: BF16 scale and zero point (R167)
  let desc := fun col => v1Elem s c 32 (128 * (kix * K / grpSize (c.ctl.vtype.toNat / 2 ^ 10 % 4)) + col)
  let terms := fun r col => if f = 11 then [signed (split64 (c.ctl.vtype.toNat / 2 ^ 14 % 16) (a r 0) (b col 0))]
    else if f = 14 ∨ f = 15 then
      let z : Int := desc col / 2 ^ 16 % (if f = 14 then 16 else 256)
      let sum := ((List.range K).map fun k => (BitVec.ofNat 8 (a r k)).toInt * ((b col k : Int) - z)).sum
      [signed (fmulExact (fpDecode 8 (desc col % 2 ^ 16)) (FVal.ofDyadic false ⟨sum, 0⟩))]
    else (List.range K).map fun k => signed (fmulExact (fpDecode f (a r k)) (fpDecode f (b col k)))
  MComputes s i c fun k t => t.me.vregs = s.me.vregs ∧ t.mem = s.mem ∧ t.tlb = s.tlb ∧ t.out = s.out ∧
    CellsSet k (t.core s.me.core) f w.vd.toNat
      (fun r col => ¬ (w.m = true ∧ bitOf s.me.vregs 0 r = false) ∧ col < usedCols c f)
      (fun r col =>
        let old := cellOf k f w.vd.toNat r col
        if isInt f then
          let p := ((List.range K).map fun k => intOf f (a r k) * intOf f (b col k)).sum
          (((old : Int) + if sub then -p else p) % 2 ^ 32).toNat
        else
          let g := if f = 11 then 11 else 10
          roundVal g rm (srbits c.ctl.seed c.ctl.sbase (fullCols f * r + col)) (fsumExact rm (fpDecode g old :: terms r col)))

/-- The integer significand of a finite F64 pattern, and its exponent (R64). -/
def sig64 (v : Nat) : Int :=
  (if v.testBit 63 then -1 else 1) * (v % 2 ^ 52 + if v / 2 ^ 52 % 2 ^ 11 = 0 then 0 else 2 ^ 52 : Nat)
def exp64 (v : Nat) : Int := max (v / 2 ^ 52 % 2 ^ 11) 1

/-- R64: s_0 to s_(n-1) are the balanced slices, -128 to 127 each, of the significand scaled by 2^(8n - 55) and rounded to the nearest
integer, the even one of two. -/
def SlicesOf (n v : Nat) (s : Nat → Int) : Prop :=
  let q : Int := ((List.range n).map fun j => s j * 256 ^ (n - 1 - j)).sum
  let x : ℚ := sig64 v * 2 ^ (8 * (n : ℤ) - 55)
  (∀ j, j < n → -128 ≤ s j ∧ s j ≤ 127) ∧ |x - q| * 2 ≤ 1 ∧ (|x - q| * 2 = 1 → 2 ∣ q)

/-- R64 to R66: the split product of two F64 patterns keeps the slice pairs on and above diagonal n - 1; with an infinity or a NaN it is
the IEEE product. A product that is 0 has the sign of the operands' signs together (log 103). -/
def SplitProducts : Prop := ∀ n a b, 4 ≤ n → n ≤ 8 → a < 2 ^ 64 → b < 2 ^ 64 →
  let finite := fun (v : Nat) => v / 2 ^ 52 % 2 ^ 11 ≠ 2047
  (finite a → finite b → ∃ s u, SlicesOf n a s ∧ SlicesOf n b u ∧
    let sum : Int := ((List.range n).map fun d =>
      256 ^ (2 * n - 2 - d) * ((List.range (d + 1)).map fun j => s j * u (d - j)).sum).sum
    IsNumber (split64 n a b) (2 ^ (exp64 a + exp64 b - 2150 - 16 * (n : ℤ) + 110) * sum) (a.testBit 63 != b.testBit 63)) ∧
  (¬ finite a ∨ ¬ finite b → split64 n a b = fmulExact (fpDecode 11 a) (fpDecode 11 b))

/-- R163 to R167: the outer products of a strand's own core. TOPSLD slides its row operand by STR = FN[8:7] + 1. -/
def OuterProductWordResults : Prop := ∀ (s : State) (w : VWord),
  let K := match w.f with | 0 | 1 | 12 | 13 | 15 | 19 => 2 | 14 => 4 | _ => 1
  let kix := w.fn.toNat % 128
  let rows := fun c k r => matElem s c w.va (if w.f = 14 ∨ w.f = 15 then 8 else ew w.f) ((kix * K + k) * 64 + r)
  Outer s w (.topadd w) false rows ∧ Outer s w (.topsub w) true rows ∧
  Outer s w (.topsld w) false fun c k r => matElem s c w.va (ew w.f) (r * (w.fn.toNat / 128 % 4 + 1) + kix * K + k)

/-- R64 to R66, R163 to R167: the outer products of a strand's own core, and the numbers that their split F64 products are.
The model's own choices in it: log 60, 103. -/
def Obligations.OuterProductResults : Prop := OuterProductWordResults ∧ SplitProducts

/-- An access of the MAT path (R162). -/
def matSeen (s : State) (c : VCtx) (pa n : Nat) : Nat := leNat (s.bytesOver (s.ownStores c 4) pa n)

/-- The value that a tile readout gives for a cell (R168): saturated to 8 bits, rounded, or as it is. -/
def cellOut (f rm sr v : Nat) : Nat :=
  if f = 0 then (max (-128) (min 127 (BitVec.ofNat 32 v).toInt) % 256).toNat
  else if f = 8 ∨ f = 9 ∨ f = 12 ∨ f = 13 then roundVal f rm sr (fpDecode 10 v)
  else v

/-- R168 to R170: TLD and TWRROW write cells, TST stores them converted, TFILL writes every one, TRDROW and TRDCOL read a row or a
column; an index past the tile is TILE-INDEX. -/
def Obligations.TileMoveResults : Prop := ∀ (s : State) (w : VWord) (c : VCtx), c.ctl.vtype.toNat / 2 ^ 8 % 4 ≠ 3 →
  let f := w.f
  let rm := if w.rm = 6 then c.ctl.vtype.toNat / 2 ^ 18 % 8 else w.rm.toNat
  let sr := fun n => srbits c.ctl.seed c.ctl.sbase n
  let row := fun r => ¬ (w.m = true ∧ bitOf s.me.vregs 0 r = false)
  let rows := (List.range 64).filter fun r => !(w.m && !bitOf s.me.vregs 0 r)
  let va := fun r col => vbase c w + BitVec.ofNat 64 r * c.x w.vb + BitVec.ofNat 64 (col * (ew f / 8))
  let j := (c.x w.vb).toNat
  let quiet := fun (t : State) => t.mem = s.mem ∧ t.tlb = s.tlb ∧ t.out = s.out
  (s.heads (.tld w) c → tileFree s w.vd → MatCalm s → ∀ pa : Nat → Nat → Nat,
    (∀ r col, r < 64 → row r → col < usedCols c f → ReadsAt s (va r col) (ew f / 8) (pa r col)) →
    MComputes s (.tld w) c fun k t => t.me.vregs = s.me.vregs ∧
      CellsSet k (t.core s.me.core) f w.vd.toNat (fun r col => row r ∧ col < usedCols c f)
        (fun r col => matSeen s c (pa r col) (ew f / 8)) ∧
      OnlyRead s t (fun q => ∃ r col, r < 64 ∧ row r ∧ col < usedCols c f ∧ q = pa r col)) ∧
  (tileFree s w.vd → c.ctl.vl ≠ 0 → VStores s w (.tst w) c (rows.length * usedCols c f) fun n =>
    let r := rows.getD (n / usedCols c f) 0
    let col := n % usedCols c f
    (va r col, (leBytes (ew f / 8) (cellOut f rm (sr (128 * r + col)) (cellOf (foundCore s (.tst w)) f w.vd.toNat r col))).map
      (fun b => (b, 0xFF)), 4)) ∧
  (s.heads (.tfill w) c → tileFree s w.vd → MComputes s (.tfill w) c fun k t => t.me.vregs = s.me.vregs ∧ quiet t ∧
    CellsSet k (t.core s.me.core) 10 w.vd.toNat (fun _ _ => True) (fun _ _ => (c.x w.va).toNat)) ∧
  (s.heads (.trdrow w) c → tileFree s w.va → (j < 64 ∨ c.ctl.vl = 0) → MComputes s (.trdrow w) c fun k t => quiet t ∧
    t.core s.me.core = k ∧ Wrote s.me.vregs t.me.vregs (regBytes s.me.cur c.ctl.vtype) w.vd.toNat (ew f) (s.works c w) fun n =>
      if n < fullCols f then cellOut f rm (sr n) (cellOf k f w.va.toNat j n) else 0) ∧
  (s.heads (.trdcol w) c → tileFree s w.va → (j < fullCols f ∨ c.ctl.vl = 0) → MComputes s (.trdcol w) c fun k t => quiet t ∧
    t.core s.me.core = k ∧ Wrote s.me.vregs t.me.vregs (regBytes s.me.cur c.ctl.vtype) w.vd.toNat (ew f) (s.works c w) fun n =>
      if n < 64 then cellOut f rm (sr n) (cellOf k f w.va.toNat n j) else 0) ∧
  (s.heads (.twrrow w) c → tileFree s w.vd → (j < 64 ∨ c.ctl.vl = 0) → MComputes s (.twrrow w) c fun k t =>
    t.me.vregs = s.me.vregs ∧ quiet t ∧ CellsSet k (t.core s.me.core) f w.vd.toNat (fun r col => r = j ∧ s.works c w col)
      (fun _ col => laneOf s c w.va (ew f) col)) ∧
  (c.ctl.vl ≠ 0 → s.me.held = .no → ∀ i, (i = .trdrow w ∧ 64 ≤ j ∧ tileFree s w.va) ∨
      (i = .trdcol w ∧ fullCols f ≤ j ∧ tileFree s w.va) ∨ (i = .twrrow w ∧ 64 ≤ j ∧ tileFree s w.vd) →
    s.heads i c → exec i s = .next ((s.grantUnits (instrUnits i)).convoyTrap { kind := .tileIndex, addr := c.x w.vb } 0))

/-- Table entry k of a permutation of 20 bytes (R34, R61). -/
def tableEntryOf (t k : Nat) : Nat := t / 2 ^ (5 * k) % 32

/-- It is one: every value occurs (R62). -/
def Permutes (t : Nat) : Prop := ∀ v < 32, ∃ k < 32, tableEntryOf t k = v

/-- B, and the bytes of a bundle (R61). -/
def bunOf (c : VCtx) : Nat := 2 ^ (c.ctl.vtype.toNat / 2 ^ 12 % 4)
def bundleOf (c : VCtx) : Nat := 20 + 18 * bunOf c

/-- R60, R61, R175: what SDSORT makes of one bundle of B rows of 32 weights: a table that sorts the columns by the sum of their weights,
equal sums by index, and for each row its scale, its first weight, and 31 codes, each the nearest to what is left of the difference from
the value reached so far. -/
structure Bundle (bytes : List Byte) (b : Nat) (scale : Nat → Nat) (weight : Nat → Nat → Int) : Prop where
  size : bytes.length = 20 + 18 * b
  perm : ∀ k, k < 31 →
    let p := tableEntryOf (leNat (bytes.take 20))
    let key := fun q => ((List.range b).map fun r => weight r q).sum
    key (p k) < key (p (k + 1)) ∨ (key (p k) = key (p (k + 1)) ∧ p k < p (k + 1))
  rows : ∀ r, r < b →
    let p := tableEntryOf (leNat (bytes.take 20))
    let v := leNat ((bytes.drop (20 + 18 * r)).take 18)
    let code := fun k => v / 2 ^ (4 * k + 12) % 16
    v % 2 ^ 12 = scale r % 2 ^ 9 ∧ v / 2 ^ 12 % 2 ^ 8 = (weight r (p 0) % 256).toNat ∧
    ∃ at_ : Nat → Int, at_ 1 = weight r (p 0) ∧ ∀ k, 2 ≤ k → k ≤ 32 →
      at_ k = at_ (k - 1) + sdStep (1 < b) (code k) ∧ code k = sdNearest (1 < b) (weight r (p (k - 1)) - at_ (k - 1))

/-- Group j of an s-register: the suffix sums T(1) to T(32) of the activations that a table permutes (R177). -/
def ScanSet (s : State) (c : VCtx) (w : VWord) (k k' : Core) (count : Nat) (table : Nat → Nat) : Prop :=
  (∀ j n, j < count → n < 32 →
    leNat (imgBytes k'.sregs (8192 * w.vd.toNat + 4 * (32 * j + n)) 4) =
      ((((List.range (32 - n)).map fun d =>
        (BitVec.ofNat 8 (laneOf s c w.va 8 (32 * j + tableEntryOf (table j) (n + d)))).toInt).sum) % 2 ^ 32).toNat) ∧
  (∀ a, a < 8192 * w.vd.toNat ∨ 8192 * w.vd.toNat + 128 * count ≤ a → imgGet k'.sregs a = imgGet k.sregs a) ∧
  k' = { k with sregs := k'.sregs }

/-- A run of n single bytes that may be read, ending at pa 0, pa 1, … -/
def RunAt (s : State) (va : Word) (n : Nat) (pa : Nat → Nat) : Prop := ∀ k, k < n → ReadsAt s (va + BitVec.ofNat 64 k) 1 (pa k)

/-- Its bytes as the MAT path sees them. -/
def runSeen (s : State) (c : VCtx) (n : Nat) (pa : Nat → Nat) : Nat := leNat ((List.range n).map fun k => BitVec.ofNat 8 (matSeen s c (pa k) 1))

/-- The sum of two F32 values (R63, R179), and a group's sum in F32 after its two scales (R63, R178): each rounded once to nearest even. -/
def sumF32 (a b : Nat) : Nat := roundVal 10 0 0 (fsumExact 0 [fpDecode 10 a, fpDecode 10 b])
def scaledF32 (acc : Int) (scale ascale : FVal) : Nat :=
  let scaled := fun (g : Nat) (by_ : FVal) => roundVal 10 0 0 (fmulExact (fpDecode 10 g) by_)
  scaled (scaled (roundVal 10 0 0 (.fin (acc < 0) acc.natAbs 0)) scale) ascale

/-- R175 to R180: the words of the sorted-difference unit. SDSORT stores bundles; PTLD and SDSCAN.MEM read tables, each a permutation;
PTST stores them; SDSCAN forms suffix sums; SDDOT scales a dot product of each row; SDFIN adds groups in order; SLD and SST move sums.
A table that is no permutation is SD-FORM. -/
def SortedDifferenceWordResults : Prop := ∀ (s : State) (w : VWord) (c : VCtx),
  let vl := c.ctl.vl.toNat
  let b := bunOf c
  let rb := regBytes s.me.cur c.ctl.vtype
  let whole := fun (bs : List Byte) => bs.map fun x => ((x, 0xFF) : Byte × Byte)
  let quiet := fun (t : State) => t.mem = s.mem ∧ t.tlb = s.tlb ∧ t.out = s.out
  let tables := min vl 64
  let groups := min (vl / 32) 64
  -- tables at a base stand inside bundles, or packed
  let table := fun (base : Word) (packed : Bool) j => base + BitVec.ofNat 64 (j * if packed then 20 else bundleOf c)
  let sees := fun (t : State) (pas : Nat → Nat → Nat) (m n : Nat) => OnlyRead s t (fun q => ∃ j k, j < m ∧ k < n ∧ q = pas j k)
  (c.ctl.vl ≠ 0 → ∃ bytes : Nat → List Byte,
    (∀ g, Bundle (bytes g) b (fun r => v1Elem s c 16 (g * b + r))
      (fun r q => (BitVec.ofNat 8 (laneOf s c w.vb 8 ((g * b + r) * 32 + q))).toInt)) ∧
    VStores s w (.sdsort w) c (vl / (32 * b) * bundleOf c) fun n =>
      (vbase c w + BitVec.ofNat 64 (n / bundleOf c * bundleOf c) + BitVec.ofNat 64 (n % bundleOf c),
        whole [(bytes (n / bundleOf c)).getD (n % bundleOf c) 0], 4)) ∧
  (s.heads (.ptld w) c → MatCalm s → ∀ pas : Nat → Nat → Nat,
    (∀ j, j < tables → RunAt s (table (vbase c w) (w.vb = 1) j) 20 (pas j) ∧ Permutes (runSeen s c 20 (pas j))) →
    MComputes s (.ptld w) c fun k t => t.me.vregs = s.me.vregs ∧ sees t pas tables 20 ∧
      (∀ j, j < tables → leNat (imgBytes (t.core s.me.core).pregs (1280 * w.vd.toNat + 20 * j) 20) = runSeen s c 20 (pas j)) ∧
      (∀ a, a < 1280 * w.vd.toNat ∨ 1280 * w.vd.toNat + 20 * tables ≤ a →
        imgGet (t.core s.me.core).pregs a = imgGet k.pregs a) ∧
      t.core s.me.core = { k with pregs := (t.core s.me.core).pregs }) ∧
  (c.ctl.vl ≠ 0 → VStores s w (.ptst w) c (tables * 20) fun n =>
    (table (vbase c w) (w.vb = 1) (n / 20) + BitVec.ofNat 64 (n % 20),
      whole [imgGet (foundCore s (.ptst w)).pregs (1280 * w.vd.toNat + n)], 4)) ∧
  (s.heads (.sdscan w) c → MComputes s (.sdscan w) c fun k t => t.me.vregs = s.me.vregs ∧ quiet t ∧
    ScanSet s c w k (t.core s.me.core) groups (fun j => leNat (imgBytes k.pregs (1280 * w.vb.toNat + 20 * j) 20))) ∧
  (s.heads (.sdscanMem w) c → MatCalm s → ∀ pas : Nat → Nat → Nat,
    (∀ j, j < groups → RunAt s (table (c.x w.vc) (w.fn.getLsbD 12) j) 20 (pas j) ∧ Permutes (runSeen s c 20 (pas j))) →
    MComputes s (.sdscanMem w) c fun k t => t.me.vregs = s.me.vregs ∧ sees t pas groups 20 ∧
      ScanSet s c w k (t.core s.me.core) groups (fun j => runSeen s c 20 (pas j))) ∧
  (s.heads (.sddot w) c → MatCalm s → ∀ pas : Nat → Nat → Nat, let n := min (vl / b) 64 * b
    (∀ m, m < n → RunAt s (vbase c w + BitVec.ofNat 64 (m / b * bundleOf c + 20 + 18 * (m % b))) 18 (pas m)) →
    MComputes s (.sddot w) c fun k t => t.core s.me.core = k ∧ sees t pas n 18 ∧
      Wrote s.me.vregs t.me.vregs rb w.vd.toNat 32 (· < n) fun m =>
        let row := runSeen s c 18 (pas m)
        let sum := fun q => (BitVec.ofNat 32 (leNat (imgBytes k.sregs (8192 * w.vb.toNat + 4 * (32 * (m / b) + q - 1)) 4))).toInt
        -- the first weight with T(1), and each code's step with its T(k)
        let acc := (BitVec.ofNat 8 (row / 2 ^ 12)).toInt * sum 1 +
          ((List.range 31).map fun d => sdStep (1 < b) (row / 2 ^ (4 * (d + 2) + 12) % 16) * sum (d + 2)).sum
        scaledF32 (BitVec.ofInt 32 acc).toInt (s9Val (row % 512)) (fpDecode 10 (v1Elem s c 32 (m / b)))) ∧
  (s.heads (.sdfin w) c → MComputes s (.sdfin w) c fun k t => t.core s.me.core = k ∧ quiet t ∧
    Wrote s.me.vregs t.me.vregs rb w.vd.toNat 32 (· < min b vl) fun r =>
      (List.range (vl / b)).foldl (fun a j => sumF32 a (laneOf s c w.va 32 (j * b + r))) (laneOf s c w.vd 32 r)) ∧
  (s.heads (.sld w) c → MatCalm s → ∀ pa : Nat → Nat, let n := min vl 2048
    (∀ m, m < n → ReadsAt s (vbase c w + BitVec.ofNat 64 (4 * m)) 4 (pa m)) →
    MComputes s (.sld w) c fun k t => t.me.vregs = s.me.vregs ∧ OnlyRead s t (fun q => ∃ m, m < n ∧ q = pa m) ∧
      (∀ m, m < n → leNat (imgBytes (t.core s.me.core).sregs (8192 * w.vd.toNat + 4 * m) 4) = matSeen s c (pa m) 4) ∧
      (∀ a, a < 8192 * w.vd.toNat ∨ 8192 * w.vd.toNat + 4 * n ≤ a → imgGet (t.core s.me.core).sregs a = imgGet k.sregs a) ∧
      t.core s.me.core = { k with sregs := (t.core s.me.core).sregs }) ∧
  (c.ctl.vl ≠ 0 → VStores s w (.sst w) c (min vl 2048) fun m =>
    (vbase c w + BitVec.ofNat 64 (4 * m), whole (imgBytes (foundCore s (.sst w)).sregs (8192 * w.vd.toNat + 4 * m) 4), 4)) ∧
  -- the first table that is no permutation: element j, the table's address
  (c.ctl.vl ≠ 0 → MatCalm s → ∀ (i : Instr) (base : Word) (packed : Bool) (m j : Nat) (pas : Nat → Nat → Nat), s.heads i c →
    (i = .ptld w ∧ base = vbase c w ∧ packed = decide (w.vb = 1) ∧ m = tables) ∨
    (i = .sdscanMem w ∧ base = c.x w.vc ∧ packed = w.fn.getLsbD 12 ∧ m = groups) →
    (∀ k, k < m → RunAt s (table base packed k) 20 (pas k)) → j < m → ¬ Permutes (runSeen s c 20 (pas j)) →
    (∀ k, k < j → Permutes (runSeen s c 20 (pas k))) →
    exec i s = .next ((s.grantUnits (instrUnits i)).convoyTrap
      { kind := .sdForm, elem := BitVec.ofNat 64 j, addr := table base packed j } 0))

/-- R59, R175: the steps of the codes, and the code that SDSORT chooses: an allowed one with the nearest step, of two the smaller. -/
def StepRules : Prop :=
  (∀ c < 16, sdStep false c = [0, 1, 2, 3, 4, 5, 6, 7, 8, 9, 10, 11, 12, 16, 24, 32].getD c 0 ∧
    sdStep true c = [0, 1, 2, 3, 4, 6, 8, 12, 0, -1, -2, -3, -4, -6, -8, -12].getD c 0) ∧
  ∀ (many : Bool) (d : Int), let c := sdNearest many d
    c < 16 ∧ (many = true → c ≠ 8) ∧ ∀ k < 16, (many = true → k ≠ 8) → |sdStep many c - d| ≤ |sdStep many k - d| ∧
      (|sdStep many c - d| = |sdStep many k - d| → |sdStep many c| ≤ |sdStep many k|)

/-- R59, R175 to R180: the words of the sorted-difference unit, and the steps of their codes. -/
def Obligations.SortedDifferenceResults : Prop := SortedDifferenceWordResults ∧ StepRules

/-- The member word of a BRFORM (R187): its number of members, its tile and their core indexes. -/
def wordMembers (v : Word) : Nat := v.toNat / 2 ^ 32 % 4 + 1
def wordTile (v : Word) : Nat := v.toNat / 2 ^ 36 % 8
def wordMember (v : Word) (m : Nat) : Nat := v.toNat / 2 ^ (8 * m) % 256

/-- R187: a member word that BRFORM takes on a core. -/
def WordLegal (v : Word) (core : Nat) : Prop :=
  v.toNat / 2 ^ 39 = 0 ∧ v.toNat / 2 ^ 34 % 4 = 0 ∧ 2 ≤ wordMembers v ∧
  (∀ m, wordMembers v ≤ m → m < 4 → wordMember v m = 0) ∧
  (∀ m, m < wordMembers v → wordMember v m < 4) ∧
  (∀ m n, m < n → n < wordMembers v → wordMember v m ≠ wordMember v n) ∧
  ∃ m, m < wordMembers v ∧ wordMember v m = core % 4

/-- The completion record (R174). -/
def completion (epoch : Nat) (aborted : Bool) (faults n : Nat) : Word :=
  BitVec.ofNat 64 (2 ^ 32 * epoch + (if aborted then 2 ^ 16 else 0) + 2 ^ 8 * faults + 2 ^ 4 * (n - 1) + (2 ^ n - 1))

/-- A strand has returned from the BRWAIT in which it waited, with a record in its register (R171, R174). -/
def BrReturned (u u' : Strand) (d : Reg) (r : Word) : Prop :=
  (∀ q : Reg, u'.xget q = if q = d ∧ q ≠ 0 then r else u.xget q) ∧ u' = { u with x := u'.x, pc := u.pc + 4, parked := .no }

/-- Of the strands beside the executing one, those that `who` names by core and slot and that wait in a BRWAIT have returned with r, on a
core that a cut halts once the word may issue again (R310); every other one stays. -/
def OnlyReturned (s t : State) (who : Nat → Nat → Prop) (r : Word) : Prop :=
  ∀ k n, (k, n) ≠ (s.me.core, s.me.slot) →
    (s.strandAt k n = none → t.strandAt k n = none) ∧
    ∀ u, s.strandAt k n = some u →
      (∀ d, u.parked = .brwait d → who k n → ∃ u', t.strandAt k n = some u' ∧
        if s.halted k = true then u' = { u with parked := .brreturn d r } else BrReturned u u' d r) ∧
      ((∀ d, u.parked ≠ .brwait d) ∨ ¬ who k n → t.strandAt k n = some u)

/-- R171, R187, R279: BRFORM checks its member word, then that the core has no braid, then the tile, and only then stands, with the member's
number in x[d]; the last of the words that match forms the braid, and a BRWAIT of the leader that waited for that returns. BRWAIT takes the
record at the barrier, gives the leader the last one while no epoch is open, and else parks, marking a member ready once; BRLEAVE
dissolves a formed braid: every other member's BRWAIT that waits returns a record with ABT, and untaken records go. All wait while an
earlier block is queued.
The model's own choices in it: log 58. -/
def Obligations.BraidMembership : Prop := ∀ (s : State) (d a : Reg), s.issues [d, a] →
  (s.me.queue ≠ [] → ∀ i ∈ [Instr.brform d a, .brwait d, .brleave], exec i s = .next s) ∧
  (s.me.queue = [] →
  let v := s.xget a
  let core := s.core s.me.core
  let tile := wordTile v
  let busy := ∃ b ∈ s.braids, b.cluster = s.me.core / 4 ∧ ∃ m ∈ b.members, m.index = s.me.core % 4
  let mine := s.braidOf s.me
  let goesOn := fun (t : State) (r : Word) => (∀ q : Reg, t.xget q = if q = d ∧ q ≠ 0 then r else s.xget q) ∧ t.me.pc = s.me.pc + 4
  (¬ WordLegal v s.me.core → RaisesAt s (.brform d a) .braidForm v) ∧
  (WordLegal v s.me.core → busy → RaisesAt s (.brform d a) .braidState 0) ∧
  (WordLegal v s.me.core → ¬ busy →
    (∃ e ∈ core.units, e.1 = tile ∧ ∀ e' ∈ core.units, e'.1 = tile → e'.2 ≠ s.me.slot) →
    RaisesAt s (.brform d a) .unitUnheld (BitVec.ofNat 64 (0x100 + tile))) ∧
  (WordLegal v s.me.core → ¬ busy → (∀ e ∈ core.units, e.1 = tile → e.2 = s.me.slot) → (∀ q, s.me.parked ≠ .brwait q) → ∃ t b m, exec (.brform d a) s = .next t ∧
    m < wordMembers v ∧ wordMember v m = s.me.core % 4 ∧ goesOn t (BitVec.ofNat 64 m) ∧
    (tile, s.me.slot) ∈ (t.core s.me.core).units ∧ (t.core s.me.core).braidRec = none ∧
    (∀ k, k ≠ s.me.core → t.core k = s.core k) ∧
    t.braidOf t.me = some b ∧ b.cluster = s.me.core / 4 ∧ b.tile = tile ∧
    b.cores = (List.range (wordMembers v)).map (wordMember v) ∧
    (match s.braids.find? fun c => c.cluster = b.cluster && c.cores = b.cores && c.tile = b.tile with
     | none => b.formed = false ∧ b.members.length = 1
     | some c => b.members.length = c.members.length + 1 ∧ b.open_ = c.open_ ∧
        b.formed = decide (b.members.length = wordMembers v) ∧ b.epoch = 0) ∧
    OnlyReturned s t (fun k j => b.formed = true ∧ ∃ l, (b.members.find? fun m => (b.cores.idxOf? m.index).getD 0 = 0) = some l ∧
      l.gone = false ∧ k = 4 * b.cluster + l.index ∧ j = l.slot) b.last ∧
    t = { s with cores := t.cores, braids := t.braids, strands := t.strands, me := { s.me with x := t.me.x, pc := t.me.pc } }) ∧
  -- BRWAIT: one that was given its record in a halt returns it, else
  (∀ q r, s.me.parked = .brreturn q r → ∃ t, exec (.brwait d) s = .next t ∧ BrReturned s.me t.me q r ∧ t = { s with me := t.me }) ∧
  ((∀ q r, s.me.parked ≠ .brreturn q r) →
  (∀ b r, mine = some b → core.braidRec = some r → ∃ t c, exec (.brwait d) s = .next t ∧ goesOn t r ∧
    t.me.parked = .no ∧ (t.core s.me.core).braidRec = none ∧ t.braidOf t.me = some c ∧
    (∀ m ∈ c.members, m.isOf s.me = true → m.ready = true) ∧
    t = { s with cores := t.cores, braids := t.braids, me := { s.me with x := t.me.x, pc := t.me.pc, parked := .no } }) ∧
  (∀ b, mine = some b → core.braidRec = none → b.formed = true → b.cores.idxOf? (s.me.core % 4) = some 0 →
    (b.open_ = false → ∃ t, exec (.brwait d) s = .next t ∧ { s with me := { s.me with parked := .no } }.wrote t d b.last (s.me.pc + 4)) ∧
    (b.open_ = true → exec (.brwait d) s = .next { s with me := { s.me with parked := .brwait d } })) ∧
  (∀ b n, mine = some b → core.braidRec = none → b.formed = true → b.cores.idxOf? (s.me.core % 4) = some (n + 1) →
    ((∀ q, s.me.parked ≠ .brwait q) → ∃ t c, exec (.brwait d) s = .next t ∧ t.braidOf t.me = some c ∧
      (∀ m ∈ c.members, m.isOf s.me = true → m.ready = true) ∧
      t = { s with braids := t.braids, me := { s.me with parked := .brwait d } }) ∧
    (∀ q, s.me.parked = .brwait q → exec (.brwait d) s = .next s)) ∧
  (∀ b, mine = some b → core.braidRec = none → b.formed = false →
    exec (.brwait d) s = .next { s with me := { s.me with parked := .brwait d } }) ∧
  (mine = none → RaisesAt s (.brwait d) .braidState 0)) ∧
  -- BRLEAVE
  (mine = none → RaisesAt s .brleave .braidState 0) ∧
  (∀ b, mine = some b → b.open_ = true → exec .brleave s = .next s) ∧
  (∀ b, mine = some b → b.open_ = false → ∃ t, exec .brleave s = .next t ∧
    (b.formed = true → ∀ e, e ∈ t.braids ↔ e ∈ s.braids ∧ ¬ (e.cluster = b.cluster ∧ e.cores = b.cores ∧ e.tile = b.tile)) ∧
    (b.formed = true → (∀ m ∈ b.members, (t.core (4 * b.cluster + m.index)).braidRec = none) ∧
      OnlyReturned s t (fun k j => ∃ m ∈ b.members, m.gone = false ∧ m.index ≠ s.me.core % 4 ∧ k = 4 * b.cluster + m.index ∧ j = m.slot)
        (completion b.epoch true 0 b.cores.length)) ∧
    (b.formed = false → t.cores = s.cores ∧ t.strands = s.strands) ∧
    t = { s with cores := t.cores, braids := t.braids, strands := t.strands, me := { s.me with pc := s.me.pc + 4 } }))

/-- The braid that the executing strand leads: formed, its members alone on their cores, each present and sound. -/
structure Leads (s : State) (b : Braid) (w : VWord) : Prop where
  mine : s.braidOf s.me = some b
  formed : b.formed = true
  leader : b.cores.idxOf? (s.me.core % 4) = some 0
  tile : b.tile = w.vd.toNat
  apart : b.members.Pairwise fun m n => m.index ≠ n.index
  low : ∀ m ∈ b.members, m.index < 4 ∧ m.gone = false ∧ m.fault = none
  sound : ∀ m ∈ b.members, ∀ k, k < 0x40000 → s.poisoned (nicheBase + 0x40000 * (4 * b.cluster + m.index) + k) = false
  opens : b.open_ = true ∨ ∀ m ∈ b.members, m.ready = true ∨ b.cores.idxOf? m.index = some 0
  listed : ∀ c ∈ s.braids, c.cluster = b.cluster → c.cores = b.cores → c.tile = b.tile → c = b

/-- The share of word w fits the niche, aligned (R173). -/
def ShareFits (w : VWord) (o : Nat) : Prop :=
  let K := match w.f with | 0 | 1 | 12 | 13 | 15 | 19 => 2 | 14 => 4 | _ => 1
  o % memBytes w.f = 0 ∧
    o + (if ew w.f = 4 then (w.fn.toNat % 128 + 1) * K * 64 / 2 else (w.fn.toNat % 128 + 1) * K * 64 * (ew w.f / 8)) ≤ 0x40000

/-- What the leader's BRTOPADD w makes of s, where b is its braid before and b' after (R171 to R174): the outer product in the braid tile
of every member, and under FIN the completion. Nothing else changes. -/
def ProductDone (s : State) (w : VWord) (c : VCtx) (b b' : Braid) (t : State) : Prop :=
  let f := w.f
  let W := ew f
  let o := (c.x w.va).toNat
  let K := match f with | 0 | 1 | 12 | 13 | 15 | 19 => 2 | 14 => 4 | _ => 1
  let kix := w.fn.toNat % 128
  let fin := w.fn.getLsbD 7
  let rm := if w.rm = 6 then c.ctl.vtype.toNat / 2 ^ 18 % 8 else w.rm.toNat
  (∀ m ∈ b.members,
    let n := 4 * b.cluster + m.index
    let k := (s.grantUnits (instrUnits (.brtopadd w))).core n
    let byte := fun j => s.byte (nicheBase + 0x40000 * n + o + j)
    let a := fun r q => let j := (kix * K + q) * 64 + r
      if W = 4 then (byte (j / 2)).toNat / (if j % 2 = 1 then 16 else 1) % 16
      else leNat ((List.range (W / 8)).map fun x => byte (j * (W / 8) + x))
    let bcol := fun col q => matElem s c w.vb W ((kix * K + q) * 128 + col)
    CellsSet k { k with tiles := (t.core n).tiles } f b.tile
      (fun r col => ¬ (w.m = true ∧ bitOf s.me.vregs 0 r = false) ∧ col < usedCols c f)
      (fun r col =>
        let old := cellOf k f b.tile r col
        if f ≤ 1 then
          (((old : Int) + ((List.range K).map fun q => intOf f (a r q) * intOf f (bcol col q)).sum) % 2 ^ 32).toNat
        else roundVal 10 rm (srbits c.ctl.seed c.ctl.sbase (128 * r + col)) (fsumExact rm
          (fpDecode 10 old :: (List.range K).map fun q => fmulExact (fpDecode f (a r q)) (fpDecode f (bcol col q))))) ∧
    (∀ j, fin = true → b.cores.idxOf? m.index = some (j + 1) → (t.core n).braidRec =
      if (s.strandAt n m.slot).any (·.inBrwait) then (s.core n).braidRec else some b'.last)) ∧
  OnlyReturned s t (fun k j => fin = true ∧ ∃ m ∈ b.members, ∃ x, b.cores.idxOf? m.index = some (x + 1) ∧
    k = 4 * b.cluster + m.index ∧ j = m.slot) b'.last ∧
  (∀ n, (∀ m ∈ b.members, n ≠ 4 * b.cluster + m.index) → n ≠ s.me.core → t.core n = s.core n) ∧
  t.braidOf t.me = some b' ∧ b'.open_ = !fin ∧ b'.epoch = (if fin then b.epoch + 1 else b.epoch) ∧
  (fin = true → b'.last = completion (b.epoch + 1) false 0 b.cores.length) ∧
  t = { s with cores := t.cores, braids := t.braids, strands := t.strands, me := s.me.nextWord c.addr }

/-- R171 to R174: BRTOPADD applies its outer product to the braid tile of every member, the row operand from the member's own niche at
x[VA], the column operand the leader's. It opens the epoch when it is the first; with FIN it completes it: EPOCH counts on and the
record is multicast: a member's BRWAIT that waits returns it, else it stands at the barrier. In a strand that leads no such braid it is BRAID-STATE, with a share outside the niche BRAID-RANGE. Stated where every
share can be read.
The model's own choices in it: log 59, 60, 103, 123. -/
def BraidProductResult : Prop := ∀ (s : State) (w : VWord) (c : VCtx), s.heads (.brtopadd w) c → c.ctl.vl ≠ 0 →
  c.ctl.vtype.toNat / 2 ^ 8 % 4 ≠ 3 →
  let raises := fun (k : FaultKind) (a : Word) =>
    exec (.brtopadd w) s = .next ((s.grantUnits (instrUnits (.brtopadd w))).convoyTrap { kind := k, addr := a } 0)
  let fits := ShareFits w (c.x w.va).toNat
  (∀ b, Leads s b w → fits → w.f ∈ [0, 1, 8, 9, 10, 12, 13, 19] → ∃ t b', exec (.brtopadd w) s = .next t ∧ ProductDone s w c b b' t) ∧
  (s.braidOf s.me = none → raises .braidState 0) ∧
  (∀ b, s.braidOf s.me = some b → b.formed = false ∨ b.tile ≠ w.vd.toNat → raises .braidState 0) ∧
  (∀ b, Leads s b w → ¬ fits → raises .braidRange (c.x w.va))

/-- A convoy of the head block may issue now: its words pass their checks and are granted their units (g), the stores of fences that only
wait for them are performed (u), and no fence holds its words back (R80, R109 to R111). -/
def ConvoyReady (s : State) (ws : List Instr) (u : State) : Prop :=
  s.me.issued = none ∧ ∃ g, s.headConvoy = .ok (g, ws) ∧ u = g.beforeWords ws ∧ u.fenceWaits ws = false

/-- R74, R80, R152, R210: the turns of a sequencer. CONVOY_ISSUE checks a convoy, grants its units, holds it back while its VWAIT is not
satisfied, and else has every word take its effect, one after another; CONVOY_RETIRE moves VPC past them and disarms the slots that they
read (R224); a convoy of one word leaves what the word does; VSTOP frees the block's entry, and fences wait for one block less; VWAIT_SATISFIED issues a parked convoy.
The model's own choices in it: log 43, 50. -/
def ConvoyWordResults : Prop := ∀ (s : State) (q : QEntry) (qs : List QEntry), s.me.placed = true → s.me.held = .no →
  s.me.queue = q :: qs →
  -- what issues a convoy: its own turn, or the turn of a VWAIT that it is parked for
  let issues := fun (i : Instr) => i = .convoyIssue ∨ (i = .vwaitSatisfied ∧ s.me.parked = .vwait)
  let issued := fun (t : Strand) (n : Nat) => { t with
    issued := some (q.vpc + BitVec.ofNat 64 (8 * n)), vwaitDone := [], vwaitAt := 0, timedOut := false,
    parked := if t.parked = .vwait then .no else t.parked }
  let c := { s.vctx with later := true }
  (∀ i ws u (st : Nat → State), issues i → ConvoyReady s ws u → ws ≠ [.vstop] → st 0 = u →
    (∀ k j, ws[k]? = some j → runWord j c (st k) = .ok (st (k + 1))) →
    exec i s = .next { st ws.length with me := issued (st ws.length).me ws.length }) ∧
  (∀ i ws u (st : Nat → State) k w done, issues i → ConvoyReady s ws u → st 0 = u → ws.findIdx? isVwait = some k →
    (∀ n j, n < k → ws[n]? = some j → runWord j c (st n) = .ok (st (n + 1))) → ws[k]? = some (.vwait w) →
    runWord (.vwait w) c (st k) = .error (.wait done) →
    exec i s = .next { u with me := { u.me with vwaitDone := done, vwaitAt := q.vpc, parked := .vwait } }) ∧
  -- a convoy of one VWAIT, from the state alone: the armed slots that it read are disarmed when it retires
  (∀ i w (pa : Nat → Nat), issues i → ConvoyReady s [.vwait w] s → s.heads (.vwait w) s.vctx → Still s → isInt w.f = true →
    (∀ e, s.works s.vctx w e →
      ReadsAt s (s.vctx.x w.va + BitVec.ofInt 64 (voffset s s.vctx w.vb e)) (memBytes w.f) (pa e) ∧
      ((s.me.vwaitAt = q.vpc ∧ e ∈ s.me.vwaitDone) ∨ WaitHolds s s.vctx w (pa e) e)) →
    ∃ t, exec i s = .next t ∧ s.sameBytes t ∧ s.sameCores t ∧
      (∀ tag, tag ∈ t.me.disarms ↔ tag ∈ s.me.disarms ∨ ∃ e, s.works s.vctx w e ∧ s.slotTag (pa e) = some tag ∧
        s.natAt (tag + 8) 8 / 2 ^ 48 % 2 = 1) ∧
      t = { s with mem := t.mem, tlb := t.tlb, out := t.out, cores := t.cores, me := { issued s.me 1 with disarms := t.me.disarms } }) ∧
  (∀ n, s.me.issued = some n → ∃ t, exec .convoyRetire s = .next t ∧
    (∀ p, t.byte p = if s.me.disarms.any (fun tag => s.canon p = s.canon (tag + 14)) then 0 else s.byte p) ∧
    t = { s with mem := t.mem, me := { s.me with queue := { q with vpc := n } :: qs, issued := none, disarms := [] } }) ∧
  (s.me.issued = none → exec .convoyRetire s = .next s) ∧
  (∀ i u v, ConvoyReady s [i] u → runWord i s.vctx u = .ok v → i ≠ .vstop → vfields i ≠ none → s.me.disarms = [] →
    ∃ t r r', exec .convoyIssue s = .next t ∧ exec .convoyRetire t = .next r ∧ exec i s = .next r' ∧ r'.sameBytes r ∧
      r = { r' with mem := r.mem }) ∧
  (exec .vstop s = .next (State.payDebts { s with me := { s.me with queue := qs, issued := none, debts := s.me.debts.map fun d =>
    { d with blocks := d.blocks - 1, before := if d.blocks = 1 then s.free else d.before } } })) ∧
  (s.me.debts = [] → exec .vstop s = .next { s with me := { s.me with queue := qs, issued := none } }) ∧
  (∀ g, s.me.issued = none → s.headConvoy = .ok (g, [.vstop]) → exec .convoyIssue s = exec .vstop g) ∧
  (s.me.parked ≠ .vwait → exec .vwaitSatisfied s = .next s)

/-- R107, R228: early work and reading ahead change nothing that the program can see: the strand's registers, program counter, blocks and
memory stay, and the stream-load unit holds at most 32 lines for a binding and 128 for a core.
The model's own choices in it: log 12. -/
def EarlyReadsAreInvisible : Prop := ∀ (s : State) (v lines : Nat),
  (∃ t, exec .earlyWorkStart s = .next t ∧ t = { s with me := { s.me with early := t.me.early } }) ∧
  (∃ t, exec (.readAhead v lines) s = .next t ∧ t = { s with cores := t.cores } ∧ s.sameCores t ∧
    (∀ k, k ≠ s.me.core → t.core k = s.core k) ∧
    ((s.core s.me.core).stream.length ≤ 128 → (t.core s.me.core).stream.length ≤ 128) ∧
    (((s.core s.me.core).stream.filter fun e => e.slot = s.me.slot ∧ e.reg = v).length ≤ 32 →
      ((t.core s.me.core).stream.filter fun e => e.slot = s.me.slot ∧ e.reg = v).length ≤ 32))

/-- R182, R184, R185: EXIT waits for blocks, accesses and moves (u), fences and held writes, takes a fault that an engine has posted, waits for an
open epoch, and then ends the strand: its units and the lines read ahead for it go, its collectives run on without it, its launch counts
it. BARRIER returns the number of the generation when every other participant has arrived, and parks until BARRIER_COMPLETE finds that
they have; invalidations received before it are then applied (R225).
The model's own choices in it: log 34, 35, 36 (a posted fault is taken first), 37, 83 (who takes
part, and the count of a launch), 99 (of several posted faults the first). -/
def EndAndBarrierResults : Prop := ∀ (s : State) (d : Reg) (scope : BitVec 5), s.me.queue = [] →
  let u := (s.finishStrand s.me).payDebts
  (∀ k ∈ u.me.debts, k.all = false ∧ k.next = none) →
  let held := u.unfinished s.me
  let raises := fun (k : FaultKind) (p : Posted) => exec .exit s =
    .next (u.takeTrap { kind := k, detail := p.cause % 256 + 2 ^ 64 * p.index.toNat, posted := some p } s.me.pc false 0)
  (held = true → exec .exit s = .next u ∧ exec (.barrier d scope) s = .next u) ∧
  (held = false → ∀ p ps, u.me.postedStk = p :: ps → raises .stkElement p) ∧
  (held = false → ∀ p ps, u.me.postedStk = [] → u.me.postedCpy = p :: ps → raises .cpyElement p) ∧
  (held = false → u.me.postedStk = [] → u.me.postedCpy = [] →
    (s.epochOpen s.me = true → exec .exit s = .next { u with me := { u.me with parked := .exit } }) ∧
    (s.epochOpen s.me = false → s.me.placed = true → ∃ t, exec .exit s = .next t ∧ t.me = Strand.absent ∧
      (∀ e ∈ (t.core s.me.core).units, e.2 ≠ s.me.slot) ∧
      (∀ e ∈ (u.core s.me.core).units, e.2 ≠ s.me.slot → (∀ e' ∈ (u.core s.me.core).units, e'.1 = e.1 → e' = e) →
        e ∈ (t.core s.me.core).units) ∧
      (t.core s.me.core).stream = ((u.core s.me.core).stream.filter fun e => e.slot ≠ s.me.slot) ∧
      t.collectives = ((u.collectives.filter fun c => ¬ (c.owner = s.me.owner ∧ c.status.isSome = true)).map fun c =>
        if c.owner = s.me.owner then { c with owner := { c.owner with serial := 0 } } else c) ∧
      t.launches = u.launches.map (fun l => if some l.key = s.me.launch then { l with ended := l.ended + 1 } else l) ∧
      (s.braidOf s.me = none → t.braids = u.braids ∧ t.strands = u.strands) ∧
      t = { u with me := t.me, cores := t.cores, braids := t.braids, strands := t.strands, collectives := t.collectives,
                   launches := t.launches })) ∧
  (let key := s.me.launch
   let unit := unitOf scope.toNat s.me.core
   let gen := ((s.barriers.find? fun b => b.key = key && b.scope = scope.toNat && b.unit = unit).map (·.gen)).getD 0
   let here : Arrival := ⟨scope.toNat, unit, gen + 1⟩
   let inside := fun (t : Strand) => t.placed = true ∧ t.launch = key ∧ unitOf scope.toNat t.core = unit ∧
     ∀ a, t.arrival = some a → unitOf a.scope t.core = a.unit
   let all := ∀ t ∈ s.strands, inside t → t.arrival = some here
   (held = false → s.me.placed = true → s.halted s.me.core = false → (s.me.arrival = none ∨ s.me.arrival = some here) →
     ∃ t, exec (.barrier d scope) s = .next t ∧ u.sameCores t ∧ (t.core s.me.core).invals = [] ∧
       (all → { u with me := { u.me with arrival := none, parked := .no }, barriers := t.barriers, cores := t.cores }.wrote t d
           (BitVec.ofNat 64 (gen + 1)) (s.me.pc + 4) ∧
         ((t.barriers.find? fun b => b.key = key && b.scope = scope.toNat && b.unit = unit).map (·.gen)) = some (gen + 1)) ∧
       (¬ all → t = { u with cores := t.cores, me := { u.me with arrival := some here, parked := .barrier d } })) ∧
   (∀ k, key = some k → s.me.placed = true → s.halted s.me.core = false → s.me.arrival = some here → s.me.parked = .barrier d →
     ∃ t, exec (.barrierComplete k scope.toNat unit) s = .next t ∧ s.sameCores t ∧ (t.core s.me.core).invals = [] ∧
       t = { s with me := t.me, strands := t.strands, barriers := t.barriers, cores := t.cores } ∧
       (all → t.me = { s.me with x := t.me.x, pc := s.me.pc + 4, parked := .no, arrival := none } ∧
         ∀ q : Reg, t.xget q = if q = d ∧ q ≠ 0 then BitVec.ofNat 64 (gen + 1) else s.xget q) ∧
       (¬ all → t.me = s.me)))

/-- R186: LAUNCH, after the blocks, accesses and moves (u), fences and held writes of the strand, appends the header at x[b] to the log
whose record is at x[a]: the slot of TAIL takes its 256 bytes, then TAIL counts on and x[d] is the new tail; while the copy is on its way
the word is parked. A full log gives 0 and changes nothing but the translations noted and the ARM bits of slots read.
The model's own choices in it: log 34, 35, 37, 117. -/
def LaunchResult : Prop := ∀ (s : State) (d a b : Reg), s.issues [d, a, b] → s.me.queue = [] →
  let u := (s.finishStrand s.me).payDebts
  (∀ k ∈ u.me.debts, k.all = false ∧ k.next = none) →
  (u.unfinished s.me = true → exec (.launch d a b) s = .next u) ∧
  (u.unfinished s.me = false →
  -- the copy of a parked LAUNCH has been performed
  (∀ tail v, s.me.parked = .launch tail v → Still u → u.lands tail 8 → ∃ t, exec (.launch d a b) s = .next t ∧
    (∀ q : Reg, t.xget q = if q = d ∧ q ≠ 0 then v else s.xget q) ∧ u.stored t tail 8 v.toNat ∧ u.sameCores t ∧
    t = { u with mem := t.mem, lines := t.lines, cores := t.cores, windows := t.windows, snoopFilter := t.snoopFilter,
                 out := t.out, me := { u.me with x := t.me.x, pc := s.me.pc + 4, parked := .no } }) ∧
  ((∀ tail v, s.me.parked ≠ .launch tail v) →
  let rec_ := s.xget a
  let header := s.xget b
  let raises := fun (addr : Word) =>
    exec (.launch d a b) s = .next (u.takeTrap { kind := .misaligned, addr := addr } s.me.pc false 0)
  (rec_.toNat % 64 ≠ 0 → raises rec_) ∧
  (rec_.toNat % 64 = 0 → header.toNat % 256 ≠ 0 → raises header) ∧
  (rec_.toNat % 64 = 0 → header.toNat % 256 = 0 → ∀ (v : State) (r : List Byte), u.blockRead 8 rec_ = .ok (v, r) →
    let f := fun lo n => leNat r / 2 ^ lo % 2 ^ n
    let base := BitVec.ofNat 64 (f 0 64)
    let tail := f 64 64
    let n := f 320 32
    let head := f 128 64
    let full := n = 0 ∨ (head ≤ tail ∧ n ≤ tail - head)
    let slot := base + BitVec.ofNat 64 (256 * (tail % n))
    (base.toNat % 256 ≠ 0 → raises base) ∧
    (base.toNat % 256 = 0 → full → ∃ t, exec (.launch d a b) s = .next t ∧ v.wrote t d 0 (s.me.pc + 4)) ∧
    (base.toNat % 256 = 0 → ¬ full → ∀ (v' : State) (h : List Byte) (x y z : Resolved), v.blockRead 32 header = .ok (v', h) →
      v'.blockDest (rec_ + 8) = .ok z → v'.blockDest slot = .ok x → v'.blockDest (slot + 128) = .ok y →
      -- no other strand's LAUNCH holds the record's line
      (∀ t ∈ s.strands, ∀ q w, t.parked = .launch q w → lineOf q ≠ lineOf z.pa) →
      (∀ w, v'.copySlot slot h = .ok w → w.unfinished s.me = true → exec (.launch d a b) s = .next
        { w.noteXlate s.me.ptroot slot with me := { w.me with parked := .launch z.pa (BitVec.ofNat 64 (tail + 1)) } }) ∧
      (Still v' → v'.lands x.pa 128 → v'.lands y.pa 128 → v'.lands z.pa 8 → x.pa % 128 = 0 → y.pa % 128 = 0 → z.pa % 8 = 0 →
      (x.pa ≠ y.pa ∧ lineOf z.pa ≠ x.pa ∧ lineOf z.pa ≠ y.pa) →
      ∃ t, exec (.launch d a b) s = .next t ∧
        (∀ q : Reg, t.xget q = if q = d ∧ q ≠ 0 then BitVec.ofNat 64 (tail + 1) else s.xget q) ∧
        (∀ j, j < 128 → t.byte (x.pa + j) = h.getD j 0 ∧ t.byte (y.pa + j) = h.getD (128 + j) 0) ∧
        t.natAt z.pa 8 = (tail + 1) % 2 ^ 64 ∧
        (∀ q, lineOf (s.canon q) ≠ x.pa → lineOf (s.canon q) ≠ y.pa → ¬ (z.pa ≤ s.canon q ∧ s.canon q < z.pa + 8) →
          t.byte q = v'.byte q) ∧
        v'.sameCores t ∧
        t = { v' with mem := t.mem, lines := t.lines, cores := t.cores, windows := t.windows, snoopFilter := t.snoopFilter,
                      out := t.out, tlb := t.tlb, me := { v'.me with x := t.me.x, pc := s.me.pc + 4, parked := .no } })))))

/-- n bytes from pa on that the hardware itself reads and writes where they stand: local addresses of plain, sound lines that can be
reached, not of the slow tier, which no module refuses, and over which no earlier write of its own waits (log 96). -/
def Direct (s : State) (pa n : Nat) : Prop :=
  ∀ j, j < n → s.canon (pa + j) = pa + j ∧ s.tether (pa + j) = .plain ∧ s.region (pa + j) ≠ .slow ∧ s.badLine (pa + j) = false ∧
    s.hwOwn (pa + j) = none ∧ ∀ m, s.region (pa + j) = .remote m →
      s.portOpen m = true ∧ s.farTether ⟨pa + j, []⟩ = none ∧ ∀ a, s.admitted (pa + j) a = true

/-- What the hardware's own writes leave beside memory: snoops of lines that the host caches, invalidations of the data caches, lines read
ahead, requests to the slow tier. -/
def HwWrote (s t : State) : Prop := s.sameCores t ∧ ∃ m, t = { s with mem := m, cores := t.cores, snoopFilter := t.snoopFilter, out := t.out }

/-- R193, R200, R333, R334: IXCLR, after earlier blocks, leaves the strand holding the index scratchpad empty. TRACE appends a record of the
time, the strand and x[b] to its core's ring while there is room; a full ring gives up its two oldest records for one that counts
them; without a ring nothing is written. Stated for a ring whose lines are plain (where a chain ends in a tether fault: log 96). -/
def Obligations.TraceAndIndexClearResults : Prop := ∀ (s : State) (a b : Reg), s.issues [a, b] →
  let core := s.core s.me.core
  (s.me.queue = [] → (∀ e ∈ core.units, e.1 = 20 → e.2 = s.me.slot) → ∃ t, exec .ixclr s = .next t ∧
    (t.core s.me.core).ix = [] ∧ (20, s.me.slot) ∈ (t.core s.me.core).units ∧
    (∀ e, e ≠ (20, s.me.slot) → (e ∈ (t.core s.me.core).units ↔ e ∈ core.units)) ∧
    t.core s.me.core = { core with ix := [], units := (t.core s.me.core).units } ∧ (∀ k, k ≠ s.me.core → t.core k = s.core k) ∧
    t = { s with cores := t.cores, me := { s.me with pc := s.me.pc + 4 } }) ∧
  (s.me.queue ≠ [] → exec .ixclr s = .next s) ∧
  (s.me.queue = [] → (∃ e ∈ core.units, e.1 = 20) → (∀ e ∈ core.units, e.1 = 20 → e.2 ≠ s.me.slot) →
    RaisesAt s .ixclr .unitUnheld 0x400) ∧
  (s.rings.find? (fun r => r.id = .core s.me.logical && r.base ≠ 0) = none →
    exec (.trace a b) s = .next { s with me := { s.me with pc := s.me.pc + 4 } }) ∧
  (∀ g, s.rings.find? (fun r => r.id = .core s.me.logical && r.base ≠ 0) = some g → Still s →
    let n := 2 ^ g.lgn
    let rd := s.natAt (g.addr + 16) 8
    let used := (g.wr + 2 ^ 64 - rd) % 2 ^ 64
    let place := fun i => g.base + 32 * (i % n)
    let outside := fun (q at_ k : Nat) => ¬ (at_ ≤ s.canon q ∧ s.canon q < at_ + k)
    Direct s g.base (32 * n) → Direct s g.addr 32 → (g.addr + 32 ≤ g.base ∨ g.base + 32 * n ≤ g.addr) → 2 ≤ n →
    ∃ t, exec (.trace a b) s = .next t ∧
      let r := t.natAt (place g.wr) 32
      let f := fun lo k => r / 2 ^ lo % 2 ^ k
      f 192 64 = (s.xget b).toNat ∧ f 176 16 = (s.xget a).toNat % 2 ^ 15 ∧ f 168 8 = s.me.logical % 256 ∧
      f 166 2 = s.me.slot % 4 ∧ f 128 32 = s.me.req.toNat % 2 ^ 32 ∧ f 96 32 = s.ptpFrac.toNat ∧
      f 95 1 = (if s.lock then 0 else 1) % 2 ∧ f 0 64 = s.ptpNs.toNat ∧
      t.natAt (g.addr + 8) 8 = (g.wr + 1) % 2 ^ 64 ∧
      (used ≠ n → t.natAt (g.addr + 16) 8 = rd ∧
        (∀ q, outside q (place g.wr) 32 → outside q (g.addr + 8) 8 → t.byte q = s.byte q)) ∧
      (used = n → t.natAt (g.addr + 16) 8 = (rd + 1) % 2 ^ 64 ∧
        (let old := s.natAt (place rd) 32
         let drop := t.natAt (place (rd + 1)) 32
         drop / 2 ^ 176 % 2 ^ 16 = 0x8001 ∧ drop % 2 ^ 64 = old % 2 ^ 64 ∧
         drop / 2 ^ 192 = if old / 2 ^ 176 % 2 ^ 16 = 0x8001 then (old / 2 ^ 192 + 1) % 2 ^ 64 else 2) ∧
        (∀ q, outside q (place rd) 32 → outside q (place (rd + 1)) 32 → outside q (g.addr + 8) 16 → t.byte q = s.byte q)) ∧
      HwWrote { s with rings := t.rings, me := { s.me with pc := s.me.pc + 4 } } t)

/-- Writes of one command (address, bytes) that may all be performed, none over another's bytes. Stated where no move is in transit. -/
def WritesLand (s : State) (ws : List (Nat × List Byte)) : Prop :=
  Still s ∧ (∀ w ∈ ws, w.2 ≠ [] ∧ s.lands w.1 w.2.length) ∧
  ws.Pairwise fun v w => v.1 + v.2.length ≤ w.1 ∨ w.1 + w.2.length ≤ v.1

/-- `t` holds the bytes of the writes and every other byte as `s`; no line becomes poisoned. -/
def WritesDone (s t : State) (ws : List (Nat × List Byte)) : Prop :=
  (∀ w ∈ ws, ∀ j b, w.2[j]? = some b → t.byte (w.1 + j) = b) ∧
  (∀ q, (∀ w ∈ ws, ∀ j, j < w.2.length → s.canon q ≠ w.1 + j) → t.byte q = s.byte q) ∧
  (∀ q, t.poisoned q = true → s.poisoned q = true) ∧ s.sameCores t

/-- An engine reads the byte b at a physical address: the chain ends, no module on it refuses the read or stays silent, and the line it ends
at is not poisoned (R154, R188, R338, R383). -/
def EngineGets (s : State) (pa : Nat) (b : Byte) : Prop :=
  ∃ r, s.resolve pa = .ok r ∧ s.farTether r = none ∧ s.refusing r .read .read = none ∧ s.badLine r.pa = false ∧
    s.silent r.pa = false ∧ s.byte r.pa = b

/-- An engine reads the bytes bs from the virtual address va of its command. -/
def EngineReads (s : State) (c : Command) (va : Word) (bs : List Byte) : Prop :=
  ∀ j b, bs[j]? = some b → EngineGets s (c.pa (va + BitVec.ofNat 64 j)) b

/-- An engine's write to pa ends at at_. A hop to another module is checked there as a read where a stack engine makes it, and as a write
where another engine does (R338). -/
def EngineEnds (s : State) (hop : Acc) (pa at_ : Nat) : Prop :=
  ∃ r, s.resolve pa = .ok r ∧ s.farTether r = none ∧ s.refusing r hop .write = none ∧ r.pa = at_

/-- R188: XUNFOLD and XTRANS read the record at x[a] (v is the state after), check it and the pages of its ranges, and queue the command; a
record that breaks a rule is XCMD-FORM. A full queue holds the word back. COPY_ENGINE_RUN takes the oldest command and writes each element
once: the source's bytes, or zero where the element is padding; it waits while one of its reads must (R233, R383).
No FENCE.C and no FENCE.X with a later class CPY of the strand is incomplete (u is the state after what they wait for).
The model's own choices in it: log 13, 34. -/
def CopyCommandResults : Prop := ∀ (s : State) (a : Reg), s.issues [a] →
  let u := s.settleFirst
  ScalarGoes u → (∀ k ∈ u.me.debts, k.next ≠ some 2) →
  let cl := s.me.core / 4
  let queue := assocGet [] u.copyq cl
  let va := s.xget a
  let issues := fun (i : Instr) (kind : CmdKind) (bad : List Byte → Bool) =>
    (16 ≤ queue.length → exec i s = .next u) ∧
    (queue.length < 16 → va.toNat % 64 ≠ 0 →
      exec i s = .next (u.takeTrap { kind := .misaligned, addr := va } s.me.pc false 0)) ∧
    (queue.length < 16 → va.toNat % 64 = 0 → ∀ v r, u.blockRead 8 va = .ok (v, r) →
      let c : Command := { owner := ⟨s.me.core, s.me.slot, s.me.serial⟩, kind := kind, recd := r, pages := [],
                           colour := s.me.ctl.vtype.toNat / 2 ^ 21 % 8, step := v.free }
      let illegal := bad r || overlaps (copyUnit c) (copyElements c)
      (illegal = true → exec i s = .next (u.takeTrap { kind := .xcmdForm, addr := va } s.me.pc false 0)) ∧
      (illegal = false → ∀ ps, v.spansPages (copySpans c) = .ok ps →
      ∃ t, exec i s = .next t ∧
        assocGet [] t.copyq cl = queue ++ [{ c with pages := ps }] ∧
        (∀ k, k ≠ cl → assocGet [] t.copyq k = assocGet [] u.copyq k) ∧
        t = { v with copyq := t.copyq, tlb := t.tlb, mem := t.mem, me := { v.me with pc := s.me.pc + 4 } }))
  issues (.xunfold a) .xunfold unfoldBad ∧ issues (.xtrans a) .xtrans transBad ∧
  (∀ (k : Nat) (c : Command) (cs : List Command), assocGet [] s.copyq k = c :: cs → s.copyDelayed c = true →
    exec (.copyEngineRun k) s = .next s) ∧
  (∀ (k : Nat) (c : Command) (cs : List Command) (ws : List (Nat × List Byte)), assocGet [] s.copyq k = c :: cs →
    s.copyDelayed c = false →
    let es := copyElements c
    ws.length = es.length → WritesLand s ws →
    (∀ (m : Nat) (e : Element) (w : Nat × List Byte), es[m]? = some e → ws[m]? = some w → EngineEnds s .write (c.pa e.dst) w.1 ∧ w.2.length = copyUnit c ∧
      (match e.src with
       | some va => EngineReads s c va w.2
       | none => ∀ b ∈ w.2, b = 0)) →
    ∃ t, exec (.copyEngineRun k) s = .next t ∧ WritesDone s t ws ∧ assocGet [] t.copyq k = cs ∧
      (∀ m, m ≠ k → assocGet [] t.copyq m = assocGet [] s.copyq m) ∧
      t = { s with copyq := t.copyq, mem := t.mem, lines := t.lines, cores := t.cores, windows := t.windows,
                   snoopFilter := t.snoopFilter, out := t.out })

/-- R189, R190: the elements of a copy-engine command. XUNFOLD has one for every output row and every place of the kernel and channel, read
from the input or, outside it, padding; XTRANS one for every source element, at the coordinates that PERM gives. -/
def CopyElementsOfRecords : Prop := ∀ c : Command,
  let r := leNat c.recd
  let f := fun lo n => r / 2 ^ lo % 2 ^ n
  let word := fun lo => BitVec.ofNat 64 (f lo 64)
  (c.kind = .xunfold →
    let size := 2 ^ f 174 2
    let hh := f 272 16
    let ww := f 256 16
    let ch := f 240 16
    let kh := f 204 4 + 1
    let kw := f 200 4 + 1
    ∀ e, e ∈ copyElements c ↔ ∃ oh ow y x k, oh < f 224 16 ∧ ow < f 208 16 ∧ y < kh ∧ x < kw ∧ k < ch ∧
      (let p := oh * f 208 16 + ow
       let q := (y * kw + x) * ch + k
       let ih : Int := oh * (f 196 4 + 1 : Nat) - (f 180 4 : Nat) + y * (f 188 4 + 1 : Nat)
       let iw : Int := ow * (f 192 4 + 1 : Nat) - (f 176 4 : Nat) + x * (f 184 4 + 1 : Nat)
       e.index = p * (kh * kw * ch) + q ∧ e.dst = word 384 + BitVec.ofNat 64 (p * f 288 32 + q * size) ∧
       e.src = if 0 ≤ ih ∧ ih < hh ∧ 0 ≤ iw ∧ iw < ww
         then some (word 448 + BitVec.ofNat 64 (ih.toNat * f 352 32 + iw.toNat * f 320 32 + k * size)) else none)) ∧
  (c.kind = .xtrans →
    let size := 2 ^ f 246 2
    let nd := f 248 3
    let ext := fun j => f (272 + 16 * j) 16
    let perm := fun j => f (251 + 3 * j) 3
    let prod := fun (g : Nat → Nat) (j : Nat) => ((List.range j).map g).prod
    (∀ j, j < nd → perm j < nd) → (∀ j k, j < k → k < nd → perm j ≠ perm k) →
    (copyElements c).length = prod ext nd ∧
    ∀ i : Nat → Nat, (∀ j, j < nd → i j < ext j) →
      let n := ((List.range nd).map fun j => i (perm j) * prod (fun k => ext (perm k)) j).sum
      let o := ((List.range nd).map fun j => i j * prod ext j).sum
      (copyElements c)[n]? = some { index := n, dst := word 384 + BitVec.ofNat 64 (n * size),
                                    src := some (word 448 + BitVec.ofNat 64 (o * size)) })

/-- The k-th command of the stack engines may run: it reaches no line that an earlier command of its strand reaches (R233), and none of
its reads must wait (R380, R383). -/
def Turns (s : State) (c : Command) (k : Nat) : Prop :=
  (∀ j d, j < k → s.stackq[j]? = some d → d.owner = c.owner → ∀ l ∈ s.commandLines d, l ∉ s.commandLines c) ∧ s.stackDelayed c = false

/-- R154, R181: the stack engines. SEMV reads and checks its record, whose weights must lie in one stack, and queues the product.
STACK_GATHER_RUN writes each element of a gather, STACK_SEMV_RUN each row of a product: from its start the groups' scaled values in order.
A command that reaches a line of an earlier one of its strand waits for that one, and one whose reads must wait does.
The model's own choices in it: log 13, 104, 107, 109. -/
def Obligations.StackEngineResults : Prop := ∀ s : State,
  (∀ (w : VWord) (c : VCtx) (v : State) (bs : List (List Byte)), s.heads (.semv w) c → c.ctl.vl ≠ 0 → MatCalm s →
    s.vread c [{ elem := 2 ^ 64 - 1, va := vbase c w, n := 64, path := 4 }] = .ok (v, bs) →
    let r := bs.flatten
    let f := fun lo n => leNat r / 2 ^ lo % 2 ^ n
    let b := 2 ^ f 320 2
    let rows := f 288 32
    let legal := f 323 189 = 0 ∧ rows ≠ 0 ∧ rows % b = 0 ∧ f 256 32 ≠ 0
    (¬ legal → exec (.semv w) s = .next (s.convoyTrap { kind := .semvForm, addr := vbase c w } 0)) ∧
    (legal → f 192 64 % 4 ≠ 0 → exec (.semv w) s = .next (s.convoyTrap { kind := .misaligned, addr := BitVec.ofNat 64 (f 192 64) } 0)) ∧
    (legal → f 192 64 % 4 = 0 → f 128 64 % 4 ≠ 0 →
      exec (.semv w) s = .next (s.convoyTrap { kind := .misaligned, addr := BitVec.ofNat 64 (f 128 64) } 0)) ∧
    (legal → f 192 64 % 4 = 0 → f 128 64 % 4 = 0 → ∀ ps weights, v.spansPages (semvSpans r) = .ok ps →
      v.spanPages ⟨BitVec.ofNat 64 (f 0 64), rows / b * f 256 32 * (20 + 18 * b), .read⟩ = .ok weights →
      ((∃ k, weights ≠ [] ∧ ∀ p ∈ weights, v.region p.2 = .hbm k) → ∃ t, exec (.semv w) s = .next t ∧
        t.stackq = s.stackq ++ [{ owner := ⟨s.me.core, s.me.slot, s.me.serial⟩, kind := .semv, recd := r, pages := ps,
                                  colour := w.clr.toNat, step := v.free }] ∧
        t = { v with stackq := t.stackq, mem := t.mem, tlb := t.tlb, me := s.me.nextWord c.addr }) ∧
      ((∃ p ∈ weights, (∀ k, v.region p.2 ≠ .hbm k) ∨ ∃ q ∈ weights, v.region p.2 ≠ v.region q.2) →
        exec (.semv w) s = .next (s.convoyTrap { kind := .stkRange, addr := BitVec.ofNat 64 (f 0 64) } 0)))) ∧
  (∀ (k : Nat) (c : Command) (fmt : Nat) (els : List (Nat × Nat × Nat)) (ws : List (Nat × List Byte)), s.stackq[k]? = some c →
    Turns s c k → c.kind = .gather fmt els → ws.length = els.length → WritesLand s ws →
    (∀ (m : Nat) (e : Nat × Nat × Nat) (w : Nat × List Byte), els[m]? = some e → ws[m]? = some w →
      EngineEnds s .read e.2.2 w.1 ∧ w.2.length = memBytes fmt ∧ ∃ bs : List Byte, bs.length = memBytes fmt ∧
        (∀ j b, bs[j]? = some b → EngineGets s (e.2.1 + j) b) ∧ leNat w.2 = inFormat fmt (leNat bs)) →
    ∃ t, exec (.stackGatherRun k) s = .next t ∧ WritesDone s t ws ∧ t.stackq = s.stackq.eraseIdx k ∧
      t = { s with stackq := t.stackq, mem := t.mem, lines := t.lines, cores := t.cores, windows := t.windows,
                   snoopFilter := t.snoopFilter, out := t.out }) ∧
  (∀ (k : Nat) (c : Command), s.stackq[k]? = some c → Turns s c k → c.kind = .semv →
    let f := fun lo n => leNat c.recd / 2 ^ lo % 2 ^ n
    let at_ := fun lo (o : Nat) => BitVec.ofNat 64 (f lo 64) + BitVec.ofNat 64 o
    let b := 2 ^ f 320 2
    let g := f 256 32
    let bundle := fun row j => (row / b * g + j) * (20 + 18 * b)
    ∀ (perm rowb : Nat → Nat → List Byte) (act asc : Nat → List Byte) (start : Nat → List Byte) (dst : Nat → Nat),
    (∀ row j, row < f 288 32 → j < g → (perm row j).length = 20 ∧ (rowb row j).length = 18 ∧ (act j).length = 32 ∧
      (asc j).length = 4 ∧ EngineReads s c (at_ 0 (bundle row j)) (perm row j) ∧
      EngineReads s c (at_ 0 (bundle row j + 20 + 18 * (row % b))) (rowb row j) ∧
      EngineReads s c (at_ 64 (32 * j)) (act j) ∧ EngineReads s c (at_ 128 (4 * j)) (asc j)) →
    (∀ row, row < f 288 32 → EngineEnds s .read (c.pa (at_ 192 (4 * row))) (dst row) ∧
      if f 322 1 = 1 then (start row).length = 4 ∧ EngineReads s c (at_ 192 (4 * row)) (start row)
      else start row = [0, 0, 0, 0]) →
    let value := fun row => (List.range g).foldl (fun out j =>
      let x := fun m => (BitVec.ofNat 8 ((act j).getD (tableEntryOf (leNat (perm row j)) m) 0).toNat).toInt
      let sum := fun q => ((List.range (32 - (q - 1))).map fun d => x (q - 1 + d)).sum
      let v := leNat (rowb row j)
      let acc := (BitVec.ofNat 8 (v / 2 ^ 12)).toInt * sum 1 +
        ((List.range 31).map fun d => sdStep (1 < b) (v / 2 ^ (4 * (d + 2) + 12) % 16) * sum (d + 2)).sum
      sumF32 out (scaledF32 acc (s9Val (v % 512)) (fpDecode 10 (leNat (asc j))))) (leNat (start row))
    let ws := (List.range (f 288 32)).map fun row => (dst row, leBytes 4 (value row))
    WritesLand s ws → ∃ t, exec (.stackSemvRun k) s = .next t ∧ WritesDone s t ws ∧ t.stackq = s.stackq.eraseIdx k ∧
      t = { s with stackq := t.stackq, mem := t.mem, lines := t.lines, cores := t.cores, windows := t.windows,
                   snoopFilter := t.snoopFilter, out := t.out }) ∧
  (∀ (k : Nat) (c : Command), s.stackq[k]? = some c → ¬ Turns s c k →
    exec (.stackGatherRun k) s = .next s ∧ exec (.stackSemvRun k) s = .next s)

/-- Two elements combine in a reduction (R119, R121, R196). -/
def combine (f red a b : Nat) : Nat :=
  if isInt f then
    ((match red with
      | 0 => intOf f a + intOf f b
      | 1 => min (intOf f a) (intOf f b)
      | _ => max (intOf f a) (intOf f b)) % 2 ^ ew f).toNat
  else match red with
    | 0 => roundVal f 0 0 (fsumExact 0 [fpDecode f a, fpDecode f b])
    | 1 => fminPat f a b
    | _ => fmaxPat f a b

/-- R195, R197: COLSTART reads and checks its record and table (v is the state after) and hands the collective to the engine under a ticket; COLWAIT
parks until it has finished and takes its status once; a ticket that is not the strand's is COL-TICKET.
The model's own choices in it: log 21, 34, 38. -/
def CollectiveTickets : Prop := ∀ (s : State) (d a : Reg), s.issues [d, a] →
  let u := s.settleFirst
  let owner : Owner := ⟨s.me.core, s.me.slot, s.me.serial⟩
  (ScalarGoes u → (∀ k ∈ u.me.debts, k.next ≠ some 4) →
  (32 ≤ s.collectives.length → exec (.colstart d a) s = .next u) ∧
  (s.collectives.length < 32 → ∀ f, u.readCollective (s.xget a) = .error (.fault f) →
    exec (.colstart d a) s = .next (u.takeTrap f s.me.pc false 0)) ∧
  (s.collectives.length < 32 → ∀ v r table ps, u.readCollective (s.xget a) = .ok (v, r, table, ps) →
    let w := Config.ticketOf s.nextTicket
    let c : Collective := ⟨s.nextTicket, owner, s.me.core / 64, r, table, ps, s.me.ctl.vtype.toNat / 2 ^ 21 % 8, s.me.req, none⟩
    ∃ t, exec (.colstart d a) s = .next t ∧
      (∀ q : Reg, t.xget q = if q = d ∧ q ≠ 0 then w else s.xget q) ∧
      t = { v with
        collectives := s.collectives ++ [c], nextTicket := s.nextTicket + 1,
        me := { v.me with x := t.me.x, tickets := s.me.tickets ++ [w.toNat], pc := s.me.pc + 4 } })) ∧
  (let w := s.xget a
   let mine := s.collectives.find? fun c => Config.ticketOf c.ticket = w && c.owner = owner
   (w.toNat ∉ s.me.tickets ∨ mine = none → RaisesAt s (.colwait d a) .colTicket w) ∧
   (∀ c, w.toNat ∈ s.me.tickets → mine = some c →
     (c.status = none → exec (.colwait d a) s = .next { s with me := { s.me with parked := .colwait } }) ∧
     (∀ v, c.status = some v → ∃ t, exec (.colwait d a) s = .next t ∧
       { s with collectives := s.collectives.erase c,
                me := { s.me with tickets := s.me.tickets.erase w.toNat, parked := .no } }.wrote t d (BitVec.ofNat 64 v)
         (s.me.pc + 4))))

/-- The number by which the table of a collective names its participant (R195). -/
def whoOf (c : Collective) : Nat := c.table.getD (leNat c.recd / 2 ^ 264 % 2 ^ 8) 256

/-- A collective may run: it reaches no line that an earlier unfinished one of its strand reaches (R233), and none of its reads must
wait (R383). -/
def Starts (s : State) (c : Collective) : Prop :=
  (∀ d ∈ s.collectives, d.owner = c.owner → d.status = none → d.ticket < c.ticket → ∀ l ∈ s.colLines d, l ∉ s.colLines c) ∧
  s.colDelayed c = false

/-- R196, R197: COLLECTIVE_RUN with every participant there, each entry of the first one's table among them. Participants that differ end with status 1 and nothing written; else each
destination takes its elements, those of a reduction combined from rank 0 up, and the status is 0. Stated for participants of this module
that write no trace.
The model's own choices in it: log 22, 39, 40, 108, 109, 119. -/
def CollectiveResult : Prop := ∀ (s : State) (tickets : List Nat) (cs : Nat → Collective), tickets.Nodup →
  let n := tickets.length
  let f := fun (c : Collective) lo k => leNat c.recd / 2 ^ lo % 2 ^ k
  let rank := fun c => f c 264 8
  let count := fun c => f c 288 32
  2 ≤ n →
  (∀ k, k < n → s.collectives.find? (fun c => c.ticket = tickets.getD k 0 && c.status = none) = some (cs k)) →
  s.collectives.Pairwise (fun x y => x.ticket ≠ y.ticket) →
  (∀ k, k < n → (cs k).owner.serial ≠ 0 ∧ Starts s (cs k) ∧ (cs k).ticket = tickets.getD k 0) →
  (cs 0).table.length = n → (∀ e ∈ (cs 0).table, ∃ k, k < n ∧ whoOf (cs k) = e) →
  let alike := fun (c e : Collective) => f c 260 4 = f e 260 4 ∧ f c 258 2 = f e 258 2 ∧ f c 253 5 = f e 253 5 ∧
    count c = count e ∧ f c 272 16 = f e 272 16 ∧ c.table = e.table
  let turn := Instr.collectiveRun (tickets.map ColPart.ticket)
  let ended := fun (status : Nat) => s.collectives.map fun c =>
    if c.ticket ∈ tickets then { c with status := some status } else c
  ((∃ j k, j < n ∧ k < n ∧ ¬ alike (cs j) (cs k)) → exec turn s = .next { s with collectives := ended 1 }) ∧
  ((∀ j k, j < n → k < n → alike (cs j) (cs k)) → (∀ k, k < n → rank (cs k) = k ∧ f (cs k) 252 1 = 0) →
    let c0 := cs 0
    let op := f c0 260 4
    let red := f c0 258 2
    let fmt := f c0 253 5
    let size := ew fmt / 8
    let blk := count c0 / n
    let out := if op = 1 then n * count c0 else if op = 2 then blk else count c0
    op ≤ 4 → size ≠ 0 → (op = 2 ∨ op = 4 → count c0 % n = 0) →
    ∀ (data : Nat → Nat → Nat) (dst : Nat → Nat → Nat),
    (∀ k i, k < n → i < count c0 → (op ≠ 3 ∨ k = 0) → ∃ bs, bs.length = size ∧ leNat bs = data k i ∧
      EngineReads s (cs k).cmd (BitVec.ofNat 64 (f (cs k) 448 64) + BitVec.ofNat 64 (size * i)) bs) →
    (∀ k j, k < n → j < out →
      EngineEnds s .write ((cs k).cmd.pa (BitVec.ofNat 64 (f (cs k) 384 64) + BitVec.ofNat 64 (size * j))) (dst k j)) →
    let reduced := fun i => (List.range (n - 1)).foldl (fun a k => combine fmt red a (data (k + 1) i)) (data 0 i)
    let result := fun k j => match op with
      | 0 => reduced j
      | 1 => data (j / count c0) (j % count c0)
      | 2 => reduced (k * blk + j)
      | 3 => data 0 j
      | _ => data (j / blk) (k * blk + j % blk)
    let ws := (List.range n).flatMap fun k => (List.range out).map fun j => (dst k j, leBytes size (result k j))
    WritesLand s ws → ∃ t, exec turn s = .next t ∧ WritesDone s t ws ∧ t.collectives = ended 0 ∧
      t = { s with collectives := t.collectives, mem := t.mem, lines := t.lines, cores := t.cores, windows := t.windows,
                   snoopFilter := t.snoopFilter, out := t.out })

/-- Nothing of the strand's is under way: no convoy, no store, no move, no engine command, no braid. -/
structure Quiet (s : State) (t : Strand) : Prop where
  issued : t.issued = none
  stores : ∀ e ∈ (s.core t.core).sbuf ++ (s.core t.core).squeue, e.slot ≠ t.slot
  held : ∀ h ∈ s.heldWrites, ¬ (h.core = t.core ∧ h.entry.slot = t.slot)
  ports : ∀ w ∈ s.portHeld, ¬ (w.origin.core = some t.core ∧ w.origin.slot = t.slot)
  moves : Still s
  engines : ∀ c ∈ assocGet [] s.copyq (t.core / 4) ++ s.stackq, c.owner ≠ ⟨t.core, t.slot, t.serial⟩
  braid : s.braidOf t = none

/-- A queue entry of an image at o (R308). -/
structure QueueImaged (r : State) (q : QEntry) (o : Nat) : Prop where
  place : r.natAt o 8 = q.target.toNat ∧ r.natAt (o + 8) 8 = q.vpc.toNat
  ctl : r.natAt (o + 16) 8 = q.ctl.vl.toNat ∧ r.natAt (o + 24) 8 = q.ctl.mvl.toNat ∧ r.natAt (o + 32) 8 = q.ctl.vtype.toNat ∧
    r.natAt (o + 40) 8 = q.ctl.seed.toNat ∧ r.natAt (o + 48) 8 = q.ctl.sbase.toNat ∧ r.natAt (o + 56) 8 = q.ctl.stripcfg.toNat
  direct : q.direct = true → r.natAt (o + 64) 8 = 2 ^ 32
  mask : q.direct = false → r.natAt (o + 64) 8 < 2 ^ 32 ∧ ∀ i, (r.natAt (o + 64) 8).testBit i = q.caps.any fun c => c.1 = i
  values : q.direct = false → ∀ k c, q.caps[k]? = some c → r.natAt (o + 72 + 8 * k) 8 = c.2.toNat

/-- A skein binding of an image at o (R306). -/
structure SkeinImaged (r : State) (k : Skein) (o : Nat) : Prop where
  reg : (r.byte o).toNat = k.reg % 2 ^ 8
  at_ : r.natAt (o + 8) 8 = k.cursor % 2 ^ 64 ∧ r.natAt (o + 16) 8 = k.cnt0 * k.cnt1 % 2 ^ 64
  bound : r.natAt (o + 32) 8 = k.base.toNat ∧ r.natAt (o + 40) 8 = k.str0.toNat ∧ r.natAt (o + 48) 8 = k.str1.toNat ∧
    r.natAt (o + 56) 4 = k.cnt0 % 2 ^ 32 ∧ r.natAt (o + 60) 4 = k.cnt1 % 2 ^ 32

/-- The context image of a strand at pa (R306 to R308): its request, program counter and scalar registers, control values, trap registers,
posted faults, tickets, queue entries, skein bindings and vector register file stand at their offsets. -/
structure Imaged (r : State) (t : Strand) (pa : Nat) : Prop where
  version : r.natAt pa 8 % 2 ^ 8 = 1
  slot : r.natAt pa 8 / 2 ^ 22 % 2 ^ 2 = t.slot % 4
  req : r.natAt (pa + 16) 8 = t.req.toNat
  wid : r.natAt (pa + 24) 8 = t.wid.toNat
  pc : r.natAt (pa + 0x40) 8 = t.pc.toNat
  regs : ∀ i : Reg, i ≠ 0 → r.natAt (pa + 0x40 + 8 * i.toNat) 8 = (t.xget i).toNat
  ctl : r.natAt (pa + 0x140) 8 = t.ctl.vl.toNat ∧ r.natAt (pa + 0x148) 8 = t.ctl.mvl.toNat ∧
    r.natAt (pa + 0x150) 8 = t.ctl.vtype.toNat ∧ r.natAt (pa + 0x158) 8 = t.ctl.seed.toNat ∧
    r.natAt (pa + 0x160) 8 = t.ctl.sbase.toNat ∧ r.natAt (pa + 0x168) 8 = t.ctl.stripcfg.toNat
  ptroot : r.natAt (pa + 0x178) 8 = t.ptroot.toNat
  trap : r.bytesAt (pa + 0x190) 64 = t.trec ∧ r.natAt (pa + 0x1D0) 8 = t.tcount.toNat
  posted : ∀ o l, (o = 0x210 ∧ l = t.postedStk) ∨ (o = 0x220 ∧ l = t.postedCpy) →
    (l = [] → r.natAt (pa + o) 1 = 0) ∧
    ∀ p ps, l = p :: ps → r.natAt (pa + o) 1 = p.cause % 2 ^ 8 ∧ r.natAt (pa + o + 8) 8 = p.index.toNat
  tickets : r.natAt (pa + 0x230) 8 = t.tickets.length ∧
    ∀ j w, t.tickets[j]? = some w → r.natAt (pa + 0x238 + 8 * j) 8 = w % 2 ^ 64
  queue : r.natAt pa 8 / 2 ^ 24 % 2 ^ 4 = t.queue.length ∧ ∀ e q, t.queue[e]? = some q → QueueImaged r q (pa + 0x400 + 256 * e)
  skeins : r.natAt pa 8 / 2 ^ 28 % 2 ^ 3 = t.skeins.length ∧ ∀ j k, t.skeins[j]? = some k → SkeinImaged r k (pa + 0xC00 + 64 * j)
  file : ∀ o, o < 65536 * slicesOf t.cur →
    let rb := regBytes t.cur t.ctl.vtype
    r.byte (pa + 0x1000 + o) = imgGet t.vregs (65536 * (o / rb) + o % rb)

/-- An image has room for what the strand holds (R306 to R308). -/
structure Fits (t : Strand) : Prop where
  trec : t.trec.length = 64
  queue : t.queue.length ≤ 8
  caps : ∀ q ∈ t.queue, q.direct = false → q.caps.length ≤ 16 ∧ (∀ c ∈ q.caps, c.1 < 32) ∧ q.caps.Pairwise fun c d => c.1 < d.1
  tickets : t.tickets.length ≤ 32
  skeins : t.skeins.length ≤ 4

/-- R202, R301, R303, R306, R309: saving a strand. CTXSAVE writes the image of a strand that it may act on to x[a] and the image's size into x[d];
FORCED_SAVE writes that of a strand whose time to give up lanes has run out to its save area. The strand leaves its slot and its units, and
stands among its launch's saved ones. A slot that it may not act on is CTX-STATE, an address that is no multiple of 4 KB MISALIGNED; it
waits for what the strand has under way, and retires once the image is written. The image is stated for a strand with nothing under way.
The model's own choices in it: log 24, 34, 41, 117. -/
def Obligations.SaveResults : Prop := ∀ (s : State) (n : Nat) (t : Strand), Fits t → n < 4 →
  let gone := fun (core : Nat) (u r : State) => r.strandAt core n = none ∧ (∀ e ∈ (r.core core).units, e.2 ≠ n) ∧
    (∀ c k, (c, k) ≠ (core, n) → (c, k) ≠ (s.me.core, s.me.slot) → r.strandAt c k = u.strandAt c k) ∧
    r.launches = u.launches.map fun l =>
      if some l.key = t.launch then { l with saved := l.saved ++ [{ wid := t.wid, debts := t.debts }] } else l
  let room := fun (u : State) (pa : Nat) => pa % 4096 = 0 ∧ u.lands pa 0x9D000
  (∀ (d a b : Reg) (pa : Nat), s.issues [d, a, b] → s.me.priv = true → s.me.placed = true →
    let u := s.settleFirst
    ScalarGoes u →
    let raises := fun (k : FaultKind) (x : Word) => exec (.ctxsave d a b) s = .next (u.takeTrap { kind := k, addr := x } s.me.pc false 0)
    let completes := fun (r : State) (size : Nat) =>
      (∀ q : Reg, r.xget q = if q = d ∧ q ≠ 0 then BitVec.ofNat 64 size else s.xget q) ∧ r.me.pc = s.me.pc + 4 ∧ r.me.parked = .no
    (∀ size, s.me.parked = .ctxsave size →
      (u.unfinished s.me = true → exec (.ctxsave d a b) s = .next u) ∧
      (u.unfinished s.me = false → ∃ r, exec (.ctxsave d a b) s = .next r ∧ completes r size ∧ r = { u with me := r.me })) ∧
    ((∀ size, s.me.parked ≠ .ctxsave size) →
      (4 ≤ (s.xget b).toNat → raises .ctxState (s.xget b)) ∧
      ((s.xget b).toNat = n → (∀ t', ¬ ServedBy u n t') → raises .ctxState (s.xget b)) ∧
      ((s.xget b).toNat = n → ServedBy u n t → (s.xget a).toNat % 4096 ≠ 0 → raises .misaligned (s.xget a)) ∧
      ((s.xget b).toNat = n → ServedBy u n t → (s.xget a).toNat % 4096 = 0 →
        let v := u.quiesce t
        let left := (v.strandAt s.me.core n).getD t
        (v.unfinished left = true ∨ v.enginesBusy left = true → exec (.ctxsave d a b) s = .next u) ∧
        (∀ w size, u.saveStrand s.me.core n 0 u.scalarOrigin (imageDest (s.xget a)) = .ok (w, size) → w.unfinished w.me = true →
          exec (.ctxsave d a b) s = .next { w with me := { w.me with parked := .ctxsave size } }) ∧
        (Quiet u t → u.unfinished s.me = false → room u pa →
          (∀ o, o < 0x9D000 → ∃ via, u.blockDest (s.xget a + BitVec.ofNat 64 o) = .ok ⟨pa + o, via⟩) →
          ∃ r, exec (.ctxsave d a b) s = .next r ∧ Imaged r t pa ∧ gone s.me.core u r ∧
            completes r (imageSize ((u.core s.me.core).unitsOfSlot n) t.cur))))) ∧
  (∀ (core base : Nat), let mine := s.me.placed = true ∧ s.me.core = core ∧ s.me.slot = n
    (s.me.placed = true ∨ s.me = Strand.absent) → (mine → ∀ q ∈ s.strands, ¬ (q.core = core ∧ q.slot = n)) →
    s.strandAt core n = some t → Quiet s t →
    s.saveAreas.find? (fun e => e.1 = t.logical) = some (t.logical, base) →
    let pa := base + 0x9D000 * n
    room s pa → (∀ o, o < 0x9D000 → EngineEnds s .write (pa + o) (pa + o)) → (∀ q ∈ s.trapqs, q.q ≠ 240) →
    (t.pend = true → t.left = 0 → s.halted core = false → ∃ r, exec (.forcedSave core n) s = .next r ∧ Imaged r t pa ∧
      gone core s r ∧ (mine → r.me = Strand.absent) ∧ (¬ mine → r.me = s.me)) ∧
    (t.pend = false ∨ t.left ≠ 0 ∨ s.halted core = true → exec (.forcedSave core n) s = .next s))

/-- R308, R363: CTXLOAD restores the strand of an image m that it has read (v is the state after) into an empty slot: program counter, registers,
control values and trap registers from their offsets, the lowest free lane slices, the image's units. An image that is malformed is CTX-FORM; a
slot that is taken, too few slices, or a unit that is held is CTX-STATE.
The model's own choices in it: log 34, 41, 42, 120. -/
def Obligations.RestoreResults : Prop := ∀ (s : State) (a b : Reg), s.issues [a, b] → s.me.priv = true → s.me.placed = true →
  let u := s.settleFirst
  ScalarGoes u →
  let va := s.xget a
  let n := (s.xget b).toNat
  let raises := fun (k : FaultKind) (x : Word) => exec (.ctxload a b) s = .next (u.takeTrap { kind := k, addr := x } s.me.pc false 0)
  (4 ≤ n → raises .ctxState (s.xget b)) ∧
  (n < 4 → u.strandAt s.me.core n ≠ none → raises .ctxState (s.xget b)) ∧
  (n < 4 → u.strandAt s.me.core n = none → va.toNat % 4096 ≠ 0 → raises .misaligned va) ∧
  (n < 4 → u.strandAt s.me.core n = none → va.toNat % 4096 = 0 → ∀ v m0, u.readSections va [] [(0, 64)] = .ok (v, m0) →
    let h := imgNat m0 0 8
    let f := fun lo k => h / 2 ^ lo % 2 ^ k
    let legal := f 60 4 = 0 ∧ f 16 6 = 0 ∧ f 0 8 = 1 ∧ f 8 8 ≤ 1 ∧ f 24 4 ≤ 8 ∧ f 28 3 ≤ 4 ∧ f 35 4 ≠ 0 ∧
      f 31 4 &&& f 35 4 = f 31 4
    (¬ legal → raises .ctxForm va) ∧
    (legal → ∀ w m, v.readSections va m0 (sectionsOf h) = .ok (w, m) → (w.core s.me.core).islandCmds = [] →
      let k := popc 4 (f 35 4)
      let free := w.grantable s.me.core
      let held := ∃ q, q < 21 ∧ (f 39 21).testBit q = true ∧ ∃ e ∈ (w.core s.me.core).units, e.1 = q
      (free.length < k ∨ held → raises .ctxState (s.xget b)) ∧
      (k ≤ free.length → ¬ held → ∃ r q, exec (.ctxload a b) s = .next r ∧ r.strandAt s.me.core n = some q ∧
        q.pc = imgWord m 0x40 ∧ (∀ i : Reg, i ≠ 0 → q.xget i = imgWord m (0x40 + 8 * i.toNat)) ∧
        q.ctl = ⟨imgWord m 0x140, imgWord m 0x148, imgWord m 0x150, imgWord m 0x158, imgWord m 0x160, imgWord m 0x168⟩ ∧
        q.ptroot = imgWord m 0x178 ∧ q.trec = imgBytes m 0x190 64 ∧ q.tcount = imgWord m 0x1D0 ∧
        q.wid = imgWord m 24 ∧ q.req = imgWord m 16 ∧ q.held = .no ∧
        (∀ j, j < 4 → (q.cur.getLsbD j = true ↔ j ∈ free.take k)) ∧
        (∀ j, (j, n) ∈ (r.core s.me.core).units ↔ (j, n) ∈ (w.core s.me.core).units ∨ (j < 21 ∧ (f 39 21).testBit j = true)) ∧
        (∀ c j, (c, j) ≠ (s.me.core, n) → (c, j) ≠ (s.me.core, s.me.slot) → r.strandAt c j = u.strandAt c j) ∧
        r.me = { u.me with pc := s.me.pc + 4 })))

/-- R202, R316: TLBINV takes the translations of one address in an address space out of every TLB, TLBINVA those of an address space or all of them,
once the strand's earlier scalar stores are performed; early work under such translations, and reads made early for its queued blocks, are
dropped.
The model's own choices in it: log 8, 34. -/
def Obligations.TlbInvalidationResults : Prop := ∀ (s : State) (a b : Reg), s.issues [a, b] →
  s.me.priv = true →
  let first := s.settleFirst
  ScalarGoes first →
  let u := (first.drainSbuf s.me.core fun e => e.slot = s.me.slot).settleHeld s.me.core s.me.slot
  let asid := (s.xget b).toNat % 2 ^ 16
  let va := (s.xget a).toNat % 2 ^ 57
  let after := fun (i : Instr) (drops : TlbEntry → Bool) (mine : Strand → Bool) =>
    let cut := fun (t : Strand) => if mine t then { t with early := none, queue := t.queue.map fun q => { q with early := [] } } else t
    (u.stillHeld s.me.core s.me.slot (fun o => o.path = 5) = false →
      exec i s = .next { u with tlb := u.tlb.filter (fun e => !drops e), strands := u.strands.map cut,
                                me := { cut u.me with pc := s.me.pc + 4 } }) ∧
    (u.stillHeld s.me.core s.me.slot (fun o => o.path = 5) = true → exec i s = .next first)
  let of := fun (t : Strand) => decide (t.ptroot.toNat % 2 ^ 16 = asid)
  after (.tlbinv a b) (fun e => decide (e.asid = asid ∧ e.page ≤ va ∧ va < e.page + e.size)) of ∧
  (s.xget b ≠ allOnes → after (.tlbinva b) (fun e => decide (e.asid = asid)) of) ∧
  (s.xget b = allOnes → after (.tlbinva b) (fun _ => true) (fun _ => true))

/-- The sideband of the lines: line l has the state x, every other line the one it had, and no poison changes. -/
def TetherSet (s t : State) (l : Nat) (x : Tether) : Prop :=
  (s.hasTether l = true → t.tether l = x) ∧ (∀ q, lineOf (s.canon q) ≠ l → t.tether q = s.tether q) ∧
  ∀ q, t.poisoned q = s.poisoned q

/-- R139, R155, R254, R255, R257: TMOVE, once the strand's earlier scalar stores and moves are performed (u), checks its addresses, and sets the
line at the end of its source's chain in transit; every byte stays. A move that is refused, or whose destination is taken, has no effect.
MOVE_COMMIT copies the line to its destination with its poison and leaves a tether word behind; writes that wait and would have ended at the line
count as in flight through it, and those held at it are then performed. While a module that holds the source or the destination takes no request,
an earlier move of the same VTMOVE stays, or the host has not answered the copy to the slow tier (R380), the move waits.
The model's own choices in it: log 34, 76, 85, 102. -/
def MoveResults : Prop := ∀ (s : State) (a b : Reg), s.issues [a, b] →
  let u := s.beforeMove
  ScalarGoes u →
  (u.stillHeld s.me.core s.me.slot (fun o => o.path = 5) = true → exec (.tmove a b) s = .next u) ∧
  (u.stillHeld s.me.core s.me.slot (fun o => o.path = 5) = false →
  let sa := s.xget a
  let da := s.xget b
  let takes := fun (f : FaultInfo) => exec (.tmove a b) s = .next (u.takeTrap f s.me.pc false 0)
  let raises := fun (k : FaultKind) (x : Word) => takes { kind := k, addr := x }
  (sa.toNat % 128 ≠ 0 → raises .misaligned sa) ∧
  (sa.toNat % 128 = 0 → da.toNat % 128 ≠ 0 → raises .misaligned da) ∧
  -- the source's faults, then the destination's
  (sa.toNat % 128 = 0 → da.toNat % 128 = 0 →
    (∀ f, u.xlate s.me.ptroot sa .write = .error f → takes f) ∧
    (∀ x, u.xlate s.me.ptroot sa .write = .ok x → x.device = true → raises .memType sa) ∧
    (∀ f, u.probe s.me.ptroot sa .write false = .error f → takes f) ∧
    ∀ p, u.probe s.me.ptroot sa .write false = .ok p →
      (∀ f, u.xlate s.me.ptroot da .write = .error f → takes f) ∧
      (∀ x, u.xlate s.me.ptroot da .write = .ok x → x.device = true → raises .memType da) ∧
      (∀ x, u.xlate s.me.ptroot da .write = .ok x → x.device = false → u.admitted x.pa .write = false →
        takes { kind := .remoteDenied, addr := da, detail := x.page % 2 ^ 49 })) ∧
  (sa.toNat % 128 = 0 → da.toNat % 128 = 0 → ∀ (p : Probed) (x : Xl), u.probe s.me.ptroot sa .write false = .ok p →
    u.xlate s.me.ptroot da .write = .ok x → x.device = false → u.admitted x.pa .write = true →
    let fixed := u.hasTether p.pa = false ∨ p.sink = true ∨ p.pin = true ∨ u.onChip p.pa = true
    let fixedTo := x.sink = true ∨ x.pin = true ∨ u.onChip x.pa = true
    let taken := u.tether x.pa ≠ .plain ∨ u.farTether ⟨x.pa, []⟩ ≠ none ∨ lineOf x.pa = lineOf p.pa ∨
      ∃ m ∈ u.moves, lineOf m.dest = lineOf x.pa
    let v := (u.settle p.pa).1
    let l := (u.settle p.pa).2
    (fixed → raises .moveRefused sa) ∧ (¬ fixed → fixedTo → raises .moveRefused da) ∧
    (¬ fixed → ¬ fixedTo → taken → raises .tetherState da) ∧
    (¬ fixed → ¬ fixedTo → ¬ taken → v.tether l ≠ .inTransit → v.hasTether l = false → raises .moveRefused sa) ∧
    (¬ fixed → ¬ fixedTo → ¬ taken → v.tether l = .inTransit → exec (.tmove a b) s = .next u) ∧
    (¬ fixed → ¬ fixedTo → ¬ taken → v.tether l ≠ .inTransit → v.hasTether l = true → v.canon (lineOf l) = lineOf l →
      ∃ t, exec (.tmove a b) s = .next t ∧ TetherSet v t (lineOf l) .inTransit ∧
        t.moves = v.moves ++ [{ line := lineOf l, dest := lineOf x.pa, colour := s.me.ctl.vtype.toNat / 2 ^ 21 % 8,
                                owner := ⟨s.me.core, s.me.slot, s.me.serial⟩, via := p.via }] ∧
        t = { v with lines := t.lines, moves := t.moves, tlb := t.tlb, me := { u.me with pc := s.me.pc + 4 } }))) ∧
  (∀ m : Move, m.line % 128 = 0 → m.dest % 128 = 0 → s.moves.find? (fun n => n.line = m.line) = some m → m.line ≠ m.dest →
    let passed := s.markPassing m.line
    let earlier := ∃ n ∈ s.moves.takeWhile (fun n => n.line ≠ m.line), n.word = m.word ∧ n.word ≠ 0
    let slow := s.region m.dest = .slow
    (s.destReady m.line = false ∨ s.destReady m.dest = false → ¬ earlier → exec (.moveCommit m.line) s = .next s) ∧
    (¬ earlier → s.destReady m.line = true → slow → m.sent = true → s.slowPending m.dest = true → exec (.moveCommit m.line) s = .next s) ∧
    (¬ earlier → s.destReady m.line = true → slow → m.sent = false → exec (.moveCommit m.line) s =
      .next (let t := s.sendSlow m.dest ((s.bytesAt m.line 128).map fun b => (b, 0xFF)) true { path := copyPath }
             { t with moves := s.moves.map fun n => if n.line = m.line then { n with sent := true } else n })) ∧
    (¬ earlier → (∀ j, j < 128 → s.canon (m.line + j) = m.line + j) → s.plainBytes m.dest 128 → s.tether m.dest = .plain → ¬ slow →
      (∀ k, s.region m.line = .remote k ∨ s.region m.dest = .remote k → s.portOpen k = true) →
      ∃ v : State, exec (.moveCommit m.line) s = .next (v.performHeld (passed.heldWrites.filter fun h => h.line = m.line)) ∧
        v.bytesAt m.dest 128 = s.bytesAt m.line 128 ∧ v.poisoned m.dest = s.badLine m.line ∧
        v.natAt m.line 8 = m.dest / 128 % 2 ^ 42 * 2 ^ 22 + s.scc.toNat / 2 ^ 30 % 2 ^ 22 ∧
        (∀ j, 8 ≤ j → j < 128 → v.byte (m.line + j) = s.byte (m.line + j)) ∧
        (∀ q, lineOf (s.canon q) ≠ m.line → lineOf (s.canon q) ≠ m.dest →
          v.byte q = s.byte q ∧ v.poisoned q = s.poisoned q ∧ v.tether q = s.tether q) ∧
        (s.hasTether m.line = true → v.tether m.line = .tethered) ∧ v.poisoned m.line = s.poisoned m.line ∧
        (∀ n, n ∈ v.moves ↔ n ∈ s.moves ∧ n.line ≠ m.line) ∧ passed.sameCores v ∧
        v = { passed with mem := v.mem, lines := v.lines, cores := v.cores, windows := v.windows, snoopFilter := v.snoopFilter,
                          out := v.out, moves := v.moves, heldWrites := passed.heldWrites.filter fun h => h.line ≠ m.line }))

/-- R139, R157, R261: TREL, once the strand's own accesses are performed (u), releases a tethered line when no access is in flight through it, and
parks until TETHER_RELEASE_DONE finds none; TREL.Z makes a released line plain, zero and sound. Any other line is TETHER-STATE; an address that
the page tables, its memory type or another module refuse raises their fault.
The model's own choices in it: log 34, 85, 86. -/
def ReleaseResults : Prop := ∀ (s : State) (a : Reg), s.issues [a] →
  let u := s.beforeRelease
  ScalarGoes u →
  let va := s.xget a
  let takes := fun (f : FaultInfo) => ∀ i ∈ [Instr.trel a, .trelZ a], exec i s = .next (u.takeTrap f s.me.pc false 0)
  let raises := fun (i : Instr) (k : FaultKind) => exec i s = .next (u.takeTrap { kind := k, addr := va } s.me.pc false 0)
  let cut := fun (l : Nat) (t : Strand) =>
    if (t.early.map fun e => e.lines.contains l) = some true then { t with early := none } else t
  (va.toNat % 128 ≠ 0 → takes { kind := .misaligned, addr := va }) ∧
  (va.toNat % 128 = 0 → ∀ f, u.xlate s.me.ptroot va .write = .error f → takes f) ∧
  (∀ x : Xl, va.toNat % 128 = 0 → u.xlate s.me.ptroot va .write = .ok x → x.device = true → takes { kind := .memType, addr := va }) ∧
  (∀ x : Xl, va.toNat % 128 = 0 → u.xlate s.me.ptroot va .write = .ok x → x.device = false → u.admitted x.pa .write = false →
    takes { kind := .remoteDenied, addr := va, detail := x.page % 2 ^ 49 }) ∧
  (∀ x : Xl, va.toNat % 128 = 0 → u.xlate s.me.ptroot va .write = .ok x → x.device = false → u.admitted x.pa .write = true →
    let l := lineOf x.pa
    (u.tether l ≠ .tethered → raises (.trel a) .tetherState) ∧
    (u.tether l ≠ .released → raises (.trelZ a) .tetherState) ∧
    (u.tether l = .tethered → u.inFlight l = true →
      exec (.trel a) s = .next { u with me := { u.me with parked := .trel l } }) ∧
    (u.tether l = .tethered → u.inFlight l = false → ∃ t, exec (.trel a) s = .next t ∧ TetherSet u t l .released ∧
      u.sameBytes t ∧ u.sameCores t ∧ (∀ k, ∀ e ∈ (t.core k).stream, e.line ≠ l ∧ l ∉ e.via) ∧ t.strands = u.strands.map (cut l) ∧
      t = { u with lines := t.lines, cores := t.cores, strands := t.strands,
                   me := { cut l u.me with parked := .no, pc := s.me.pc + 4 } }) ∧
    (u.tether l = .released → u.plainBytes l 128 → (∀ m, u.region l = .remote m → u.portOpen m = true) →
      ∃ t, exec (.trelZ a) s = .next t ∧ t.tether l = .plain ∧ t.poisoned l = false ∧
        (∀ j, j < 128 → t.byte (l + j) = 0) ∧
        (∀ q, lineOf (u.canon q) ≠ l → t.byte q = u.byte q ∧ t.tether q = u.tether q ∧ t.poisoned q = u.poisoned q) ∧
        u.sameCores t ∧
        t = { u with mem := t.mem, lines := t.lines, cores := t.cores, windows := t.windows, snoopFilter := t.snoopFilter,
                     out := t.out, me := { u.me with pc := s.me.pc + 4 } })) ∧
  (∀ l, l % 128 = 0 → s.canon l = l → s.me.placed = true → s.me.parked = .trel l →
    (s.inFlight l = true → exec (.tetherReleaseDone l) s = .next s) ∧
    (s.inFlight l = false → s.tether l = .tethered → ∃ t, exec (.tetherReleaseDone l) s = .next t ∧
      TetherSet s t l .released ∧ s.sameBytes t ∧ t.me = { cut l s.me with parked := .no, pc := s.me.pc + 4 } ∧
      t.strands = s.strands.map (cut l)))

/-- n bits of a launch header from bit lo (R286; the control word begins at bit 448, R287). -/
def hdr (h : List Byte) (lo n : Nat) : Nat := leNat h / 2 ^ lo % 2 ^ n

/-- A header that R288 accepts. -/
def HeaderLegal (h : List Byte) : Prop :=
  let nf := hdr h 503 3
  let width := fun k => hdr h (483 - 7 * k) 7
  let sum := ((List.range nf).map width).sum
  hdr h 1264 16 = 0 ∧ hdr h 506 6 = 0 ∧ hdr h 0 64 % 4 = 0 ∧ hdr h 192 64 % 8 = 0 ∧ 1 ≤ nf ∧ nf ≤ 6 ∧
  (∀ k, k < 6 → if k < nf then 1 ≤ width k ∧ width k ≤ 64 else width k = 0) ∧ sum ≤ 64 ∧ hdr h 64 64 ≤ 2 ^ sum ∧
  hdr h 500 3 ≤ 4 ∧
  (∀ j, j < 4 → if j < hdr h 500 3 then hdr h (512 + 128 * j) 64 % 8 = 0
                else hdr h (512 + 128 * j) 64 = 0 ∧ hdr h (576 + 128 * j) 64 = 0) ∧
  hdr h 498 2 ≠ 3 ∧ (hdr h 320 64 ≠ 0 → hdr h 256 64 ≠ 0) ∧ ∃ n, n < 240 ∧ hdr h (1024 + n) 1 = 1

/-- l as it enters queue MAP[PRIO] of each die now, behind every other launch there (R289, R292, R295). -/
def Queued (s : State) (l : Launch) : Launch :=
  { l with state := .queued, places := [], ended := 0, waiting := none,
           queues := (List.range 4).map fun d =>
             { base := (s.disp d).map.getD (hdr l.header 492 3) 0, order := s.nextSerial, queuedAt := s.scc.toNat, aged := 0 } }

/-- n is launch l after its dependences: queued at once, or timed at its fire time (R289). -/
def Passed (s : State) (l n : Launch) : Prop :=
  if hdr l.header 256 64 = 0 then n = Queued s l
  else n = { l with state := .timed, firing := 0, due := hdr l.header 256 64, period := hdr l.header 320 64 }

/-- Launch k stands as n, and every other launch as before. -/
def LaunchSet (s t : State) (k : LaunchKey) (n : Launch) : Prop :=
  t.launch k = some n ∧ ∀ k', k' ≠ k → t.launch k' = s.launch k'

/-- R282 to R285, R288 to R291: the life of a launch but its firings. LOG_REGISTER latches a log's record. LOG_SLOT_ACCEPT reads the next slot
between HEAD and TAIL once: a legal header waits for its dependences, is queued, or is timed; a refused one is to retire failed.
DEPENDENCE_SATISFIED marks a dependence whose counter has reached its value, and the last one moves the launch on. FIRING_RETIRE reads
PERIOD again and times the next firing, or ends the launch. LAUNCH_RETIRE adds 1 to DONE, or to FAILS for a failed launch, and
advances HEAD past the oldest slot. Stated with no capture running, and for a log record whose line is plain.
The model's own choices in it: log 16, 45, 63, 79, 96, 122. -/
def Obligations.LaunchLifeResults : Prop := ∀ s : State, s.capturing = false → s.replaying = false → Still s →
  -- registration
  (∀ die index addr : Nat, s.firmware = true → Direct s addr 64 →
    let f := fun lo n => s.natAt addr 64 / 2 ^ lo % 2 ^ n
    let legal := die < 4 ∧ index < 32 ∧ addr % 64 = 0 ∧ f 353 159 = 0 ∧ f 320 32 ≠ 0 ∧ f 0 64 % 256 = 0
    (¬ legal → exec (.logRegister die index addr) s = .next s) ∧
    (legal → ∃ t, exec (.logRegister die index addr) s = .next t ∧
      t.log die index = some
        { die := die, index := index, addr := addr, base := BitVec.ofNat 64 (f 0 64), n := f 320 32,
          root := BitVec.ofNat 64 (f 256 64), priv := decide (f 352 1 = 1), next := f 128 64, head := f 128 64, fails := f 192 64 } ∧
      (∀ l : Log, ¬ (l.die = die ∧ l.index = index) → (l ∈ t.logs ↔ l ∈ s.logs)) ∧
      (t.controller.ready = true ↔ ∀ d, d < 4 → ∃ l ∈ t.logs, l.die = d) ∧
      t = { s with logs := t.logs, controller := { s.controller with ready := t.controller.ready } })) ∧
  -- acceptance
  (∀ (die index : Nat) (l : Log), s.log die index = some l → s.firmware = true → s.dieHalted die = false →
    Direct s (l.addr + 8) 8 →
    let slot := l.base + BitVec.ofNat 64 (256 * (l.next % l.n))
    let key : LaunchKey := ⟨die, index, l.next⟩
    let open_ := l.next < s.natAt (l.addr + 8) 8 ∧ l.next - l.head < l.n
    (¬ open_ → exec (.logSlotAccept die index) s = .next s) ∧
    (open_ → s.launch key = none → ∀ h, s.dispRead l.root 32 slot = .ok h →
      ∃ t n, exec (.logSlotAccept die index) s = .next t ∧ LaunchSet s t key n ∧ t.log die index = some { l with next := l.next + 1 } ∧
        n.header = h ∧ n.hva = slot ∧ n.root = l.root ∧ n.priv = l.priv ∧ n.places = [] ∧ n.ended = 0 ∧ n.saved = [] ∧
        (HeaderLegal h → n.failed = false ∧ n.deps = List.replicate (hdr h 500 3) false ∧
          (hdr h 500 3 ≠ 0 → n.state = .depwait) ∧ (hdr h 500 3 = 0 → ∃ l0, Passed s l0 n) ∧
          t = { s with logs := t.logs, launches := t.launches, nextSerial := t.nextSerial, tlb := t.tlb }) ∧
        (¬ HeaderLegal h → n.failed = true ∧ n.state = .ending)) ∧
    (∀ f, s.dispRead l.root 32 slot = .error f →
      (f.waits = true → exec (.logSlotAccept die index) s = .next s) ∧
      (f.waits = false → open_ → s.launch key = none → ∃ t n, exec (.logSlotAccept die index) s = .next t ∧
        t.launch key = some n ∧ n.failed = true ∧ n.state = .ending ∧ t.log die index = some { l with next := l.next + 1 }))) ∧
  (∀ (k : LaunchKey) (l : Launch), s.launch k = some l → s.dieHalted k.die = false →
    -- dependences
    (∀ j, l.deps.getD j false = true → exec (.dependenceSatisfied k j) s = .next s) ∧
    (∀ j, l.state = .depwait → j < hdr l.header 500 3 → l.deps.getD j false = false →
      let addr := BitVec.ofNat 64 (hdr l.header (512 + 128 * j) 64)
      (∀ bs, s.dispRead l.root 1 addr = .ok bs →
        (leNat bs < hdr l.header (576 + 128 * j) 64 → exec (.dependenceSatisfied k j) s = .next s) ∧
        (hdr l.header (576 + 128 * j) 64 ≤ leNat bs → ∃ t n, exec (.dependenceSatisfied k j) s = .next t ∧ LaunchSet s t k n ∧
          (if (l.deps.set j true).all id = true then Passed s { l with deps := l.deps.set j true } n
           else n = { l with deps := l.deps.set j true }) ∧
          t = { s with launches := t.launches, nextSerial := t.nextSerial })) ∧
      (∀ f, s.dispRead l.root 1 addr = .error f →
        (f.waits = true → exec (.dependenceSatisfied k j) s = .next s) ∧
        (f.waits = false → ∃ t, exec (.dependenceSatisfied k j) s = .next t ∧
          t.launch k = some { l with state := .ending, failed := true }))) ∧
    -- the end of a firing
    (l.state = .draining →
      let total := if hdr l.header 64 64 = 0 then ((List.range 240).filter fun n => hdr l.header (1024 + n) 1 = 1).length
        else hdr l.header 64 64
      let drained := l.places.length = total ∧ l.ended = total
      let becomes := fun n => ∃ t, exec (.firingRetire k) s = .next t ∧ LaunchSet s t k n ∧ t = { s with launches := t.launches }
      (¬ drained → exec (.firingRetire k) s = .next s) ∧
      (drained → hdr l.header 256 64 = 0 → becomes { l with state := .ending }) ∧
      (drained → hdr l.header 256 64 ≠ 0 → ∀ bs, s.dispRead l.root 1 (l.hva + 40) = .ok bs →
        becomes (if leNat bs = 0 then { l with state := .ending, period := 0 }
          else { l with state := .timed, firing := l.firing + 1, due := l.due + leNat bs, period := leNat bs, waiting := none,
                        places := [], ended := 0 }))) ∧
    -- the end of the launch
    (∀ g, l.state = .ending → s.log k.die k.log = some g → Direct s (g.addr + 16) 16 →
      let done := hdr l.header 192 64
      let leaves := fun (t : State) (fails : Nat) =>
        t.log k.die k.log = some { g with head := g.head + 1, fails := fails } ∧ t.launch k = none ∧
        t.natAt (g.addr + 16) 8 = (g.head + 1) % 2 ^ 64 ∧ (fails = g.fails + 1 → t.natAt (g.addr + 24) 8 = fails % 2 ^ 64) ∧
        ∀ k', k' ≠ k → t.launch k' = s.launch k'
      let elsewhere := fun (t : State) (rest : Nat → Prop) =>
        ∀ q, ¬ (g.addr + 16 ≤ s.canon q ∧ s.canon q < g.addr + 32) → ¬ rest (s.canon q) → t.byte q = s.byte q
      g.head = k.slot → (∀ m ∈ s.launches, m.key = ⟨k.die, k.log, g.head + 1⟩ → m.state ≠ .retired) →
      (l.failed = true → ∃ t, exec (.launchRetire k) s = .next t ∧ leaves t (g.fails + 1) ∧ elsewhere t (fun _ => False)) ∧
      (l.failed = false → done = 0 → ∃ t, exec (.launchRetire k) s = .next t ∧ leaves t g.fails ∧ elsewhere t (fun _ => False)) ∧
      (l.failed = false → done ≠ 0 → ∀ p, s.probe l.root (BitVec.ofNat 64 done) .write false = .ok p → s.lands p.pa 8 →
        s.badLine p.pa = false → s.slowPending p.pa = false → ∃ t, exec (.launchRetire k) s = .next t ∧ leaves t g.fails ∧
          t.natAt p.pa 8 = (s.natAt p.pa 8 + 1) % 2 ^ 64 ∧ elsewhere t (fun q => p.pa ≤ q ∧ q < p.pa + 8)) ∧
      (l.failed = false → done ≠ 0 → ∀ f, s.patient.probe l.root (BitVec.ofNat 64 done) .write false = .error f →
        (f.waits = true → exec (.launchRetire k) s = .next s) ∧
        (f.waits = false → (∀ q ∈ s.trapqs, q.q ≠ 240) →
          ∃ t, exec (.launchRetire k) s = .next t ∧ leaves t (g.fails + 1)))))

/-- Stream descriptor fields of stream j, and the sequence numbers evaluated at a tick (R321, R322). -/
def wfield (w : Window) (lo n : Nat) : Nat := leNat w.recd / 2 ^ lo % 2 ^ n
def wOrg (w : Window) (j : Nat) : Nat := wfield w (1536 + 128 * j) 64
def wIvl (w : Window) (j : Nat) : Nat := wfield w (1600 + 128 * j) 32
def wSlot (w : Window) (j q : Nat) : Nat := j * 2 ^ wfield w 752 16 + q % 2 ^ wfield w 752 16
/-- q lies in C_j(t). -/
def Covered (w : Window) (j t q : Nat) : Prop :=
  t - wfield w 768 64 ≤ wOrg w j + q * wIvl w j ∧ wOrg w j + q * wIvl w j < t
/-- The slot's record is q's, taken before a stamp: records taken at or after it don't count, unless an earlier seal has counted them
(R327, R328). -/
def Counted (w : Window) (j stamp q : Nat) : Prop :=
  ∃ e, (w.settled.find? fun e => e.slot = wSlot w j q &&
    (e.gap || decide (e.arrival < stamp) || decide (e.seq < w.lim.getD j 0))) = some e ∧ e.seq = q ∧ e.gap = false

/-- Every record that the window took or judged came before the stamp. -/
def AllBefore (w : Window) (stamp : Nat) : Prop :=
  (∀ e ∈ w.settled, e.gap = false → e.arrival < stamp) ∧ ∀ e ∈ w.judged, e.arrival < stamp

/-- q lies in E_j(t) and no record of it that counts at the stamp was taken. -/
def Missing (w : Window) (j t stamp q : Nat) : Prop := Covered w j t q ∧ w.lim.getD j 0 ≤ q ∧ ¬ Counted w j stamp q

/-- A registered window: its streams have spacings, and four limits and heads are kept. -/
structure WindowOk (w : Window) : Prop where
  spacing : ∀ j, j ≤ wfield w 734 2 → wIvl w j ≠ 0
  span : wfield w 768 64 ≠ 0
  kept : w.lim.length = 4 ∧ w.head.length = 4

/-- What SEAL at tick t of firing n, stamped `stamp`, leaves of a window (R328): P is the period in force; placed, or held. Records taken or
judged at or after the stamp are judged after the seal, those judged late again out of the half that is presented, and may then fill the
half that collects (the model's choice: log 110). -/
structure Sealed (w w' : Window) (n t P stamp : Nat) (placed : Bool) : Prop where
  lim : ∀ j, j ≤ wfield w 734 2 → ∀ m, (Covered w j t m ∧ ∀ q, Covered w j t q → q ≤ m) → w'.lim.getD j 0 = max (w.lim.getD j 0) (m + 1)
  limEmpty : ∀ j, j ≤ wfield w 734 2 → (∀ q, ¬ Covered w j t q) → w'.lim.getD j 0 = w.lim.getD j 0
  head : P ≠ 0 → ∀ j, j ≤ wfield w 734 2 → ∀ m,
    (t + P - wfield w 768 64 ≤ wOrg w j + m * wIvl w j ∧ ∀ q, q < m → wOrg w j + q * wIvl w j < t + P - wfield w 768 64) →
    w'.head.getD j 0 = max (w.head.getD j 0) m
  headLast : P = 0 → w'.head = w.head
  shown : placed = true → w'.tick = t ∧ w'.fireno = n ∧ w'.lh = w.half ∧
    w'.nlate = w.count - (w.judged.filter fun e => e.kept && decide (stamp ≤ e.arrival)).length ∧ w'.half = 1 - w.half ∧
    w'.holds = w.holds ∧ ∃ qs : List (Nat × Nat), qs.Nodup ∧ qs.length = w'.ngap ∧
      ∀ j q, (j, q) ∈ qs ↔ j ≤ wfield w 734 2 ∧ Missing w j t stamp q
  held : placed = false → w'.tick = w.tick ∧ w'.fireno = w.fireno ∧ w'.lh = w.lh ∧ w'.nlate = w.nlate ∧ w'.half = w.half ∧
    w'.ngap = w.ngap ∧ w'.holds = (w.holds + 1) % 2 ^ 32
  count : AllBefore w stamp → w'.count = if placed then 0 else w.count
  drop : AllBefore w stamp → w'.drop = w.drop % 2 ^ 32

/-- Every q that a firing evaluates now was taken before now. -/
def Complete (s : State) (hpa t : Nat) : Prop :=
  ∀ w ∈ s.windows, wfield w 960 64 = hpa → ∀ j, j ≤ wfield w 734 2 → ∀ q, ¬ Missing w j t s.ptpNs.toNat q

/-- A firing of launch l at tick t is sealed (with ovr ticks lost before it), and nothing but windows, rings and the launch changes. -/
def SealedAll (s t : State) (l : Launch) (n due ovr : Nat) (placed : Bool) : Prop :=
  (∀ w ∈ s.windows, wfield w 960 64 = l.hpa → ∃ w' ∈ t.windows, w'.index = w.index ∧ w'.recd = w.recd ∧
    Sealed w w' n due l.period s.ptpNs.toNat placed ∧ w'.ovr = (if ovr = 0 then w.ovr else (w.ovr + ovr) % 2 ^ 32)) ∧
  (∀ w ∈ s.windows, wfield w 960 64 ≠ l.hpa → w ∈ t.windows) ∧ s.sameCores t ∧
  t = { s with mem := t.mem, windows := t.windows, launches := t.launches, nextSerial := t.nextSerial, rings := t.rings,
               cores := t.cores, snoopFilter := t.snoopFilter, out := t.out }

/-- The launch as its firing n at tick due stands in its queue (R289, R295). -/
def Fired (s : State) (l : Launch) (n due : Nat) : Launch := Queued s { l with firing := n, due := due }

/-- R326 to R329: a due firing. TICK_FIRING_DUE passes over the ticks that are lost, evaluates the windows of the launch at the
latest due tick, and seals and places the firing when they are complete or under GAP; under HOLD it seals without gaps and goes on to
the next firing; under WAIT it waits, or is placed at once if the deadline has passed, and TICK_WAIT_DEADLINE places it once the windows
are complete or the deadline has come. A seal sets the windows' limits, heads, counts and late half. A hold waits while its read of
PERIOD must wait for a module. Stated with no capture or replay.
The model's own choices in it: log 16, 44, 45, 96, 110. -/
def FiringResults : Prop := ∀ (s : State) (k : LaunchKey) (l : Launch), s.launch k = some l → s.dieHalted k.die = false →
  s.capturing = false → s.replaying = false → l.state = .timed → (∀ w ∈ s.windows, WindowOk w) → Still s →
  (s.windows.Pairwise fun v w => v.index ≠ w.index) →
  let now := s.ptpNs.toNat
  let late := hdr l.header 498 2
  (l.waiting = none →
    (now < l.due → exec (.tickFiringDue k) s = .next s) ∧
    (l.due ≤ now →
      let lost := if l.period = 0 then 0 else (now - l.due) / l.period
      let n := l.firing + lost
      let due := l.due + lost * l.period
      let stop := if l.period = 0 then due + hdr l.header 384 64 else min (due + hdr l.header 384 64) (due + l.period)
      (Complete s l.hpa due ∨ late = 1 ∨ (late ≠ 2 ∧ stop ≤ now) → ∃ t, exec (.tickFiringDue k) s = .next t ∧ LaunchSet s t k (Fired s l n due) ∧
        SealedAll s t l n due lost true) ∧
      (¬ Complete s l.hpa due → late = 2 → (s.overrun l).1.periodWaits l = true → exec (.tickFiringDue k) s = .next (s.overrun l).1) ∧
      (¬ Complete s l.hpa due → late = 2 → (s.overrun l).1.periodWaits l = false → (∀ q ∈ s.trapqs, q.q ≠ 240) →
        ∃ t, exec (.tickFiringDue k) s = .next t ∧ SealedAll s t l n due lost false ∧
          ∀ bs, t.dispRead l.root 1 (l.hva + 40) = .ok bs →
            LaunchSet s t k (if leNat bs = 0 then { l with firing := n, due := due, state := .ending, period := 0 }
              else { l with firing := n + 1, due := due + leNat bs, period := leNat bs, places := [], ended := 0 })) ∧
      (¬ Complete s l.hpa due → late ≠ 1 → late ≠ 2 → now < stop → ∃ t, exec (.tickFiringDue k) s = .next t ∧
        LaunchSet s t k { l with firing := n, due := due, waiting := some now }))) ∧
  (∀ since, l.waiting = some since →
    let stop := if l.period = 0 then l.due + hdr l.header 384 64 else min (l.due + hdr l.header 384 64) (l.due + l.period)
    exec (.tickFiringDue k) s = .next s ∧
    (¬ Complete s l.hpa l.due → now < stop → exec (.tickWaitDeadline k) s = .next s) ∧
    (Complete s l.hpa l.due ∨ stop ≤ now → ∃ t, exec (.tickWaitDeadline k) s = .next t ∧
      LaunchSet s t k (Fired s l l.firing l.due) ∧ SealedAll s t l l.firing l.due 0 true))

/-- The bytes from addr on are the sink controller's to write, and t holds bs there. -/
def SinkWrote (s t : State) (addr : Nat) (bs : List Byte) : Prop := Direct s addr bs.length → t.bytesAt addr bs.length = bs

/-- R321 to R325, R337: windows. WINDOW_REGISTER latches a record, its addresses as those of the memory that they name, and its counters begin at 0. TOKEN_RECORD_TAKE takes a record whose
64 bytes have all been written, by the first rule that applies: an unknown stream, a misplaced, duplicate or overrunning record is
dropped; a late one goes to the collecting half while it has room; any other is taken in place, stamped and VALID.
Stated for windows whose lines are plain.
The model's own choices in it: log 31, 63, 96. -/
def WindowResults : Prop := ∀ s : State, Still s →
  (∀ index addr : Nat, s.firmware = true → Direct s addr 256 →
    let f := fun lo n => leNat (s.bytesAt addr 256) / 2 ^ lo % 2 ^ n
    let legal := index < 64 ∧ addr % 256 = 0 ∧ f 0 733 = 0 ∧ f 768 64 ≠ 0 ∧ 1 ≤ f 752 16 ∧ f 752 16 ≤ 16 ∧ 1 ≤ f 736 16 ∧
      f 736 16 ≤ 1024 ∧ s.canon (f 896 64) % 64 = 0 ∧ s.canon (f 832 64) % 64 = 0 ∧ (∀ j, j ≤ f 734 2 → f (1600 + 128 * j) 32 ≠ 0) ∧
      ((s.windows.filter fun v => v.index ≠ index).filter fun v => wfield v 960 64 = s.canon (f 960 64) % 2 ^ 64).length < 4
    (¬ legal → exec (.windowRegister index addr) s = .next s) ∧
    (legal → ∃ t w, exec (.windowRegister index addr) s = .next t ∧
      (∀ v : Window, v.index ≠ index → (v ∈ t.windows ↔ v ∈ s.windows)) ∧
      (∀ v : Window, v.index = index → (v ∈ t.windows ↔ v = w)) ∧
      -- only the addresses may change as they are latched
      (∀ j, j < 104 ∨ 128 ≤ j → w.recd[j]? = (s.bytesAt addr 256)[j]?) ∧
      (∀ lo ∈ [832, 896, 960], wfield w lo 64 = s.canon (f lo 64) % 2 ^ 64) ∧
      w = { index := index, addr := addr, recd := w.recd, head := [0, 0, 0, 0], lim := [0, 0, 0, 0], settled := [], judged := [],
            half := 0, count := 0, written := [], holds := 0, drop := 0, ovr := 0, nlate := 0, ngap := 0, fireno := 0, tick := 0,
            lh := 0 } ∧
      t.natAt (addr + 128) 64 = 0 ∧ t.natAt (addr + 91) 1 = 64 * f 734 2 ∧
      (∀ q, ¬ (addr + 128 ≤ s.canon q ∧ s.canon q < addr + 192) → s.canon q ≠ addr + 91 → t.byte q = s.byte q))) ∧
  (∀ (w : Window) (addr : Nat), s.windows.find? (fun v => v.index = w.index) = some w → s.hubHalted = false → s.replaying = false →
    Direct s addr 64 →
    let bs := s.bytesAt addr 64
    let sid := leNat bs / 2 ^ 144 % 2 ^ 16
    let q := leNat bs / 2 ^ 160 % 2 ^ 32
    let mine := fun (j : Nat) => j ≤ wfield w 734 2 ∧ wfield w (1632 + 128 * j) 16 = sid ∧
      ∀ i, i < j → wfield w (1632 + 128 * i) 16 ≠ sid
    let stands := fun j => addr = wfield w 896 64 + 64 * wSlot w j q
    let taken := fun j => ∃ e, (w.settled.find? fun e => e.slot = wSlot w j q) = some e ∧ e.seq = q ∧ e.gap = false
    let whole := assocGet 0 w.written addr = 2 ^ 64 - 1
    let next := fun (t : State) (v : Window) => t.windows.find? (fun x => x.index = w.index) = some v
    let seen := w.written.filter fun e => e.1 ≠ addr
    -- the note of a record judged for stream j
    let note := fun (j : Nat) (late kept : Bool) =>
      ({ addr := addr, stream := j, seq := q, bytes := bs, arrival := s.ptpNs.toNat, late := late, kept := kept } : Judged) :: w.judged
    let apart := fun place : Nat =>
      Direct s w.addr 256 ∧ (place + 64 ≤ w.addr ∨ w.addr + 256 ≤ place)
    let stamped := fun flags : Nat => bs.take 8 ++ leBytes 8 s.ptpNs.toNat ++ [0, BitVec.ofNat 8 flags] ++ bs.drop 18
    (¬ whole → exec (.tokenRecordTake w.index addr) s = .next s) ∧
    (whole → (∀ j, ¬ mine j) → ∃ t, exec (.tokenRecordTake w.index addr) s = .next t ∧
      next t { w with written := seen, drop := (w.drop + 1) % 2 ^ 32 } ∧
      (apart addr → SinkWrote s t addr (bs.take 17 ++ [bs.getD 17 0 &&& 0xFE] ++ bs.drop 18))) ∧
    (∀ j, whole → mine j → ¬ stands j ∨ (q < w.lim.getD j 0 ∧ taken j) ∨
        (w.lim.getD j 0 ≤ q ∧ w.head.getD j 0 + 2 ^ wfield w 752 16 ≤ q) →
      ∃ t, exec (.tokenRecordTake w.index addr) s = .next t ∧
        next t { w with written := seen, drop := (w.drop + 1) % 2 ^ 32, judged := note j false false } ∧
        (apart addr → SinkWrote s t addr (bs.take 17 ++ [bs.getD 17 0 &&& 0xFE] ++ bs.drop 18))) ∧
    (∀ j, whole → mine j → stands j → q < w.lim.getD j 0 → ¬ taken j →
      ∃ t, exec (.tokenRecordTake w.index addr) s = .next t ∧
        (w.count < wfield w 736 16 → next t { w with written := seen, count := w.count + 1, judged := note j true true } ∧
          let place := wfield w 832 64 + 64 * (w.half * wfield w 736 16 + w.count)
          (apart place → SinkWrote s t place (stamped 3))) ∧
        (wfield w 736 16 ≤ w.count → next t { w with written := seen, drop := (w.drop + 1) % 2 ^ 32, judged := note j true false })) ∧
    (∀ j, whole → mine j → stands j → w.lim.getD j 0 ≤ q → q < w.head.getD j 0 + 2 ^ wfield w 752 16 →
      ∃ t, exec (.tokenRecordTake w.index addr) s = .next t ∧ (apart addr → SinkWrote s t addr (stamped 1)) ∧
        next t { w with written := seen, settled := ⟨wSlot w j q, q, false, s.ptpNs.toNat⟩ :: w.settled } ∧
        s.sameCores t ∧
        t = { s with mem := t.mem, cores := t.cores, snoopFilter := t.snoopFilter, out := t.out, windows := t.windows }))

/-- The aging of waiting launches brought up to now, on every die (R295). -/
def aged (s : State) : State :=
  { s with launches := s.launches.map fun l =>
      if (l.state = .queued ∨ l.state = .running) ∧ l.places.length < l.total then
        { l with queues := l.queues.zipIdx.map fun e => { e.1 with aged := (s.scc.toNat - e.1.queuedAt) / (s.disp e.2).age } } else l }

/-- Lane slices of a core that no strand holds and that run at level 0 or 1 (R294, R392). -/
def freeLanes (s : State) (core : Nat) : List Nat :=
  (List.range 4).filter fun k =>
    decide (∀ t ∈ s.all, t.core = core → t.cur.getLsbD k = false) && decide (s.levelOf core k < 2)

/-- A logical core able to take a strand: its physical core is enabled and not halted, with a free slot and a free slice (R294). -/
def Able (s : State) (c : Nat) : Prop :=
  let p := s.physOf c
  (s.core p).disabled = false ∧ s.halted p = false ∧ (∃ n, n < 4 ∧ s.strandAt p n = none) ∧ freeLanes s p ≠ []

/-- The group of a WID: its bits above the innermost field; one group when there is one field (R293). -/
def wgroup (h : List Byte) (wid : Nat) : Nat :=
  let nf := hdr h 503 3
  if nf = 1 then 0 else wid / 2 ^ hdr h (448 + (35 - 7 * (nf - 1))) 7

/-- Logical core c is selected by a header (R286). -/
def Selected (h : List Byte) (c : Nat) : Prop := c < 240 ∧ hdr h (1024 + c) 1 = 1

/-- The queue that a launch is served from at a die (R295): aging lifts it, never above CAP nor into queue 7. -/
def queueOf (s : State) (die : Nat) (l : Launch) : Nat :=
  let e := l.queues.getD die {}
  max e.base (min (e.base + e.aged) (min (s.disp die).cap 6))

/-- R40, R44, R292 to R295: placing a strand. STRAND_PLACE takes the launch of the highest queue, the earliest to arrive within it, that can
place a strand on the die: with WCNT = 0 each selected core takes the WID of its rank, else WIDs go out in order, and to a core of a
cluster that holds a strand of the same group if one is able. The strand starts in the lowest free slot with the state of R44 and
its granted slices; the launch moves behind the others of that die. QUEUE_AGING raises a waiting launch by one on the dies where it is due; PRIORITY_MAP_WRITE sets MAP,
AGE and CAP.
The model's own choices in it: log 64, 112. -/
def PlacementResults : Prop := ∀ (s : State) (die : Nat), s.dieHalted die = false →
  (∀ c, (s.core c).islandCmds = []) →
  let u := aged s
  let can := fun (l : Launch) (wid c : Nat) =>
    l ∈ u.launches ∧ l.placing = true ∧ u.nextPlace l die = some (wid, c)
  -- what a launch places next
  (∀ (l : Launch) (wid c : Nat), u.nextPlace l die = some (wid, c) → Selected l.header c ∧ Able u c ∧ dieOf (u.physOf c) = die ∧
    (hdr l.header 64 64 = 0 → wid = ((List.range c).filter fun n => hdr l.header (1024 + n) 1 = 1).length ∧ ∀ p ∈ l.places, p.1 ≠ wid) ∧
    (hdr l.header 64 64 ≠ 0 → wid = l.places.length ∧
      let mate := fun c' => ∃ p ∈ l.places, clusterOf (u.physOf p.2) = clusterOf (u.physOf c') ∧ wgroup l.header p.1 = wgroup l.header wid
      (∃ c', Selected l.header c' ∧ Able u c' ∧ mate c') → mate c)) ∧
  -- with WCNT = 0 no core of another die stands in the way of this die's strands
  (∀ (l : Launch) (c : Nat), hdr l.header 64 64 = 0 → Selected l.header c → Able u c → dieOf (u.physOf c) = die →
    (∀ p ∈ l.places, p.1 ≠ ((List.range c).filter fun n => hdr l.header (1024 + n) 1 = 1).length) →
    ∃ wid c', u.nextPlace l die = some (wid, c')) ∧
  -- nothing to place
  ((∀ l wid c, ¬ can l wid c) → exec (.strandPlace die) s = .next u) ∧
  -- one strand
  (∀ (l : Launch) (wid c : Nat), can l wid c → u.launch l.key = some l →
    (∀ m wid' c', can m wid' c' → m = l ∨ queueOf u die m < queueOf u die l ∨ (queueOf u die m = queueOf u die l ∧ (l.queues.getD die {}).order < (m.queues.getD die {}).order)) →
    let p := u.physOf c
    let lanes := freeLanes u p
    let slots := (List.range 4).filter fun n => (u.strandAt p n).isNone
    let unplaced := if hdr l.header 64 64 = 0 then 1 else hdr l.header 64 64 - l.places.length
    let grant := max 1 (lanes.length / min unplaced (min slots.length lanes.length))
    let count := l.places.length + 1
    ∃ t q n, exec (.strandPlace die) s = .next t ∧ slots.head? = some n ∧ t.strandAt p n = some q ∧
      (if s.me.placed = true then t.me = s.me ∧ t.strands = s.strands ++ [q] else t.me = q ∧ t.strands = s.strands) ∧
      (∀ k, k < 4 → (q.cur.getLsbD k = true ↔ k ∈ lanes.take grant)) ∧ q.recd = q.cur ∧ q.pend = false ∧
      q.pc.toNat = hdr l.header 0 64 ∧ (∀ r : Reg, q.xget r = if r = 1 then l.hva else 0) ∧ q.wid.toNat = wid % 2 ^ 64 ∧
      q.req.toNat = hdr l.header 128 64 ∧ q.ptroot = l.root ∧ q.priv = l.priv ∧ q.launch = some l.key ∧ q.logical = c ∧
      q.ctl.vl = 0 ∧ q.ctl.seed = 0 ∧ q.ctl.sbase = 0 ∧ q.ctl.stripcfg = 0 ∧
      q.ctl.vtype.toNat = 0x1C202 / 2 ^ 4 * 2 ^ 4 + 2 + 4 * hdr l.header 490 2 + 2 ^ 21 * hdr l.header 495 3 ∧
      q.ctl.mvl.toNat = 65536 * min grant lanes.length / (8 * 2 ^ hdr l.header 490 2) / 4 ∧
      q.queue = [] ∧ q.vregs = [] ∧ q.skeins = [] ∧ q.held = .no ∧
      (t.core p).icache = [] ∧ (t.core p).scans = [] ∧ (t.core p).invals = [] ∧
      (let l' := { l with places := l.places ++ [(wid, c)], lastCore := some c,
                          queues := l.queues.zipIdx.map fun e => if e.2 = die then { e.1 with order := s.nextSerial } else e.1,
                          state := if count = l.total then .draining else .running }
       t.launch l.key = some l' ∧ ∀ k', k' ≠ l.key → t.launch k' = u.launch k') ∧
      t = { s with me := t.me, strands := t.strands, cores := t.cores, launches := t.launches,
                   nextSerial := t.nextSerial }) ∧
  -- aging
  (∀ (k : LaunchKey) (l : Launch), s.launch k = some l →
    let waits := (l.state = .queued ∨ l.state = .running) ∧ l.places.length < l.total
    (¬ waits → exec (.queueAging k) s = .next s) ∧
    (waits → ∃ t, exec (.queueAging k) s = .next t ∧
      LaunchSet s t k { l with queues := l.queues.zipIdx.map fun e =>
        if e.1.aged < (s.scc.toNat - e.1.queuedAt) / (s.disp e.2).age then { e.1 with aged := e.1.aged + 1 } else e.1 } ∧
      t = { s with launches := t.launches })) ∧
  (∀ (map : List Nat) (age cap : Nat), s.firmware = true → s.dispatchers.length = 4 →
    let legal := die < 4 ∧ map.length = 8 ∧ (∀ q ∈ map, q ≤ 7) ∧ cap ≤ 7
    (¬ legal → exec (.priorityMapWrite die map age cap) s = .next s) ∧
    (legal → ∃ t, exec (.priorityMapWrite die map age cap) s = .next t ∧
      t.disp die = { s.disp die with map := map, age := age, cap := cap } ∧ (∀ d, d ≠ die → t.disp d = s.disp d) ∧
      t = { s with dispatchers := t.dispatchers }))

/-- R296, R301: RECLAIM_RECORD, for a queued launch that no core of its set can take: among the strands of that set's cores whose queue
lies below the launch's, and whose core has no claim standing, the one of the lowest queue, then the most slices, then the lowest
logical core, loses half its slices, the highest ones, or, with one slice or with no free slot on its core, is marked for saving.
The model's own choices in it: log 48, 65. -/
def ReclaimResults : Prop := ∀ (s : State) (k : LaunchKey) (l : Launch), s.dieHalted k.die = false →
  let u := aged s
  u.launch k = some l →
  let standing := fun (t : Strand) => ∃ q ∈ u.all, q.core = t.core ∧ (q.pend = true ∨ q.mark = true)
  let rank := fun (t : Strand) => (t.launch.bind fun k' => u.launch k').map fun m => (m.queues.getD (dieOf t.core) {}).base
  let candidate := fun (t : Strand) (q : Nat) => t ∈ u.all ∧ (∃ c, Selected l.header c ∧ u.physOf c = t.core) ∧ ¬ standing t ∧
    rank t = some q ∧ q < queueOf u (dieOf t.core) l
  let open_ := l.state = .queued ∧ ∀ c, Selected l.header c → ¬ Able u c
  (¬ open_ → exec (.reclaimRecord k) s = .next u) ∧
  (open_ → (∀ t q, ¬ candidate t q) → exec (.reclaimRecord k) s = .next u) ∧
  (open_ → (∀ q ∈ s.trapqs, q.q ≠ 240) → ∀ (v : Strand) (q : Nat), candidate v q →
    (∀ t q', candidate t q' → t = v ∨ q < q' ∨ (q = q' ∧ (slicesOf t.recd < slicesOf v.recd ∨
      (slicesOf t.recd = slicesOf v.recd ∧ (v.logical < t.logical ∨ (v.logical = t.logical ∧ v.slot < t.slot)))))) →
    ∃ t v', exec (.reclaimRecord k) s = .next t ∧ t.strandAt v.core v.slot = some v' ∧
      (2 ≤ slicesOf v.recd → (∃ n, n < 4 ∧ u.strandAt v.core n = none) →
        v' = { v with recd := v'.recd, pend := true, left := 20000 } ∧ slicesOf v'.recd = slicesOf v.recd - slicesOf v.recd / 2 ∧
        (∀ j, v'.recd.getLsbD j = true → v.recd.getLsbD j = true) ∧
        ∀ i j, i < j → v'.recd.getLsbD j = true → v.recd.getLsbD i = true → v'.recd.getLsbD i = true) ∧
      (slicesOf v.recd < 2 ∨ (∀ n, n < 4 → u.strandAt v.core n ≠ none) → v' = { v with mark := true }) ∧
      (∀ c n, (c, n) ≠ (v.core, v.slot) → t.strandAt c n = u.strandAt c n) ∧
      t = { u with me := t.me, strands := t.strands })

/-- R40, R44, R292 to R296, R301: placing strands, and reclaiming slices for a launch that no core can take. -/
def Obligations.PlacementAndReclaimResults : Prop := PlacementResults ∧ ReclaimResults

/-- Nothing changes but stack k, which becomes v. -/
def StackSet (s t : State) (k : Nat) (v : Stack) : Prop :=
  t.hbmStacks[k]? = some v ∧ (∀ j, j ≠ k → t.hbmStacks[j]? = s.hbmStacks[j]?) ∧ t = { s with hbmStacks := t.hbmStacks }

/-- The indirection table leads row r of bank b to f b r (R371). -/
def RowsLead (v : Stack) (f : Nat → Nat → Nat) : Prop := ∀ b r, v.phys b r = f b r

/-- R370 to R375: upkeep of a stack. A row whose count has reached SWAPTH is swapped with another row of its bank: when the copy is done
the two entries are exchanged and both counts restart; a refresh of the rows' subarrays or their neighbours holds the copy back.
The counts restart each window. Scrub counts what it corrects and poisons what it cannot; an uncorrectable error poisons its line.
HOT, UPKCTL, whose fields keep what is written and act within their limits, and REMAP with its result: 3 for reserved bits, 2 for no such row, 1 for no spare, else the next
spare takes the row's place.
The model's own choices in it: log 15, 66, 67, 68. -/
def Obligations.UpkeepResults : Prop := ∀ (s : State) (k : Nat) (u : Stack), s.hbmStacks[k]? = some u →
  let copying := fun b => (∃ e ∈ u.swaps, e.1 = b) ∨ ∃ r, u.remap = some (b, r)
  (∀ bank row : Nat,
    let due := bank < 1024 ∧ row < 98304 ∧ max 256 (min 4096 u.swapth) ≤ u.actsOf bank row ∧ ¬ copying bank
    (¬ due → exec (.rowSwap k bank row) s = .next s) ∧
    (due → ∃ t other, exec (.rowSwap k bank row) s = .next t ∧ other < 98304 ∧ other ≠ row ∧
      StackSet s t k { u with swaps := (bank, row, other) :: u.swaps })) ∧
  (∀ bank a b : Nat, u.swaps.find? (fun e => e.1 = bank) = some (bank, a, b) → a ≠ b →
    let busy := fun p => p < 98304 ∧ ∃ r ∈ u.refresh, r.1 = bank ∧ p / 1024 ≤ r.2 + 1 ∧ r.2 ≤ p / 1024 + 1
    (busy (u.phys bank a) ∨ busy (u.phys bank b) → exec (.rowSwapDone k bank) s = .next s) ∧
    (¬ busy (u.phys bank a) → ¬ busy (u.phys bank b) → ∃ t v, exec (.rowSwapDone k bank) s = .next t ∧ StackSet s t k v ∧
      RowsLead v (fun b' r => if b' = bank ∧ r = a then u.phys bank b else if b' = bank ∧ r = b then u.phys bank a else u.phys b' r) ∧
      v.actsOf bank a = 0 ∧ v.actsOf bank b = 0 ∧ (∀ b' r, (b', r) ≠ (bank, a) → (b', r) ≠ (bank, b) → v.actsOf b' r = u.actsOf b' r) ∧
      v = { u with rows := v.rows, acts := v.acts, swaps := u.swaps.filter fun e => e.1 ≠ bank })) ∧
  (∃ t, exec (.activationWindow k) s = .next t ∧ StackSet s t k { u with acts := [] }) ∧
  (∀ bank sub : Nat, bank < 1024 → sub < 96 → (bank, sub) ∉ u.refresh →
    ∃ t, exec (.subarrayRefresh k bank sub) s = .next t ∧ StackSet s t k { u with refresh := (bank, sub) :: u.refresh }) ∧
  (∀ bank sub : Nat, ∃ t, exec (.subarrayRefreshEnd k bank sub) s = .next t ∧
    StackSet s t k { u with refresh := u.refresh.filter fun r => r ≠ (bank, sub) }) ∧
  (∀ line : Nat, localRegion line = .hbm k →
    exec (.patrolScrub k line .clean) s = .next s ∧
    (∃ t v b, exec (.patrolScrub k line .corrected) s = .next t ∧ StackSet s t k v ∧ b < 1024 ∧
      (∀ c, assocGet 0 v.corrected c = assocGet 0 u.corrected c + if c = b then 1 else 0) ∧
      v = { u with corrected := v.corrected }) ∧
    (∃ t v b, exec (.patrolScrub k line .uncorrectable) s = .next t ∧ t.poisoned line = true ∧ b < 1024 ∧
      (∀ c, assocGet 0 v.uncorrectable c = assocGet 0 u.uncorrectable c + if c = b then 1 else 0) ∧
      v = { u with uncorrectable := v.uncorrectable } ∧ StackSet { s with lines := t.lines } t k v ∧
      (∀ q, lineOf (s.canon q) ≠ lineOf (s.canon line) → t.poisoned q = s.poisoned q) ∧ ∀ q, t.tether q = s.tether q)) ∧
  (∀ line : Nat,
    (s.mapped line = false → ∀ meta_, exec (.softError line meta_) s = .next s) ∧
    (s.mapped line = true → s.hasTether line = false → exec (.softError line true) s = .next s) ∧
    (s.mapped line = true → s.hasTether line = true → ∃ t, exec (.softError line true) s = .next t ∧ t.tether line = .released ∧
      (∀ q, t.poisoned q = s.poisoned q) ∧ (∀ q, lineOf (s.canon q) ≠ lineOf (s.canon line) → t.tether q = s.tether q) ∧
      t = { s with lines := t.lines }) ∧
    (s.mapped line = true → ∃ t, exec (.softError line false) s = .next t ∧ t.poisoned line = true ∧ (∀ q, t.tether q = s.tether q) ∧
      (∀ q, lineOf (s.canon q) ≠ lineOf (s.canon line) → t.poisoned q = s.poisoned q) ∧ t = { s with lines := t.lines })) ∧
  (∀ hot : Bool, ∃ t, exec (.thermalHot k hot) s = .next t ∧ StackSet s t k { u with hot := hot }) ∧
  (∀ v : Word, s.firmware = true →
    let f := fun lo n => v.toNat / 2 ^ lo % 2 ^ n
    (f 34 30 ≠ 0 ∨ f 32 1 ≠ 0 → exec (.upkctlWrite k v) s = .next s) ∧
    (f 34 30 = 0 → f 32 1 = 0 → ∃ t, exec (.upkctlWrite k v) s = .next t ∧
      StackSet s t k { u with scrub := f 16 16, swapth := f 0 16 })) ∧
  -- the registers as firmware reads them
  (let upkctl := u.upkctl.toNat
   let remapst := u.remapst.toNat
   upkctl % 2 ^ 16 = u.swapth % 2 ^ 16 ∧ upkctl / 2 ^ 16 % 2 ^ 16 = u.scrub % 2 ^ 16 ∧ upkctl / 2 ^ 32 = (if u.hot then 2 else 0) ∧
   remapst % 2 ^ 2 = u.res % 4 ∧ remapst / 2 ^ 2 % 2 ^ 6 = 0 ∧ remapst.testBit 8 = u.remap.isSome ∧ remapst / 2 ^ 9 = u.left % 64) ∧
  (∀ v : Word, s.firmware = true →
    let f := fun lo n => v.toNat / 2 ^ lo % 2 ^ n
    let bank := 64 * f 23 4 + f 17 6
    let left := 32 - assocGet 0 u.spares bank
    let becomes := fun w => ∃ t, exec (.remap k v) s = .next t ∧ StackSet s t k w
    (u.remap ≠ none → exec (.remap k v) s = .next s) ∧
    (u.remap = none →
      (f 27 37 ≠ 0 → becomes { u with left := left, res := 3 }) ∧
      (f 27 37 = 0 → 98304 ≤ f 0 17 → becomes { u with left := left, res := 2 }) ∧
      (f 27 37 = 0 → f 0 17 < 98304 → left = 0 → becomes { u with left := left, res := 1 }) ∧
      (f 27 37 = 0 → f 0 17 < 98304 → left ≠ 0 → becomes { u with left := left, remap := some (bank, f 0 17) }))) ∧
  (∀ bank row : Nat, u.remap = some (bank, row) → row < 98304 → (∀ e ∈ u.swaps, e.1 ≠ bank) →
    let used := assocGet 0 u.spares bank
    ∃ t v, exec (.remapDone k) s = .next t ∧ StackSet s t k v ∧
      RowsLead v (fun b r => if b = bank ∧ r = row then 98304 + used else u.phys b r) ∧
      (∀ b, assocGet 0 v.spares b = if b = bank then used + 1 else assocGet 0 u.spares b) ∧
      v = { u with rows := v.rows, spares := v.spares, remap := none, res := 0, left := 32 - (used + 1) })

/-- R292, R376: CORE_REBIND binds an idle logical core to an enabled, unbound core of its quad of clusters, and retires a core that is not
bound; otherwise it changes nothing.
The model's own choices in it: log 69. -/
def RebindResults : Prop := ∀ s : State, s.firmware = true →
  (∀ logical phys : Nat,
    let legal := logical < 240 ∧ phys < 256 ∧ phys / 16 = s.physOf logical / 16 ∧ (∀ t ∈ s.all, t.logical ≠ logical) ∧
      (s.core (s.physOf logical)).units = [] ∧ (s.core phys).disabled = false ∧ ∀ l, l < 240 → s.physOf l ≠ phys
    (¬ legal → exec (.coreRebind (.bind logical phys)) s = .next s) ∧
    (legal → ∃ t, exec (.coreRebind (.bind logical phys)) s = .next t ∧ t.physOf logical = phys ∧
      (∀ l, l ≠ logical → t.physOf l = s.physOf l) ∧ t = { s with coreMap := t.coreMap })) ∧
  (∀ phys : Nat,
    let legal := phys < 256 ∧ ∀ l, l < 240 → s.physOf l ≠ phys
    (¬ legal → exec (.coreRebind (.retire phys)) s = .next s) ∧
    (legal → ∃ t, exec (.coreRebind (.retire phys)) s = .next t ∧ t.core phys = { s.core phys with disabled := true } ∧
      (∀ c, c ≠ phys → t.core c = s.core c) ∧ t = { s with cores := t.cores }))

/-- A host access of n bytes: within one line of this module's HBM. -/
def HostAccess (addr n : Nat) : Prop := 0 < n ∧ addr % 128 + n ≤ 128 ∧ ∃ k, localRegion addr = .hbm k

/-- A read or write of some agent that arrives at the line where its chain ends is not held up there: no write to the slow tier is on its
way to it, and its module takes requests (R380, R382 to R384). -/
def Prompt (s : State) (pa : Nat) : Prop := s.slowPending pa = false ∧ ∀ m, s.region pa = .remote m → s.portOpen m = true

/-- A write that waits at the port of module m, whose route takes no request now (R383). -/
def HeldFor (s : State) (pa m : Nat) : Prop :=
  Still s ∧ s.tether pa = .plain ∧ s.region pa = .remote m ∧ s.portOpen m = false ∧ s.lost.contains m = false

/-- R338 to R340, R378 to R380: host accesses to HBM follow tethers. A read gives the bytes where its chain ends, with poison for a poisoned
line, and the host may cache the lines passed; a tether fault, a hop that another module refuses and a module that is out of reach give
poison, and a RAS event. A write is performed there and then completed, or discarded at a fault and completed. A snoop that ends lets
the store that waited for it be performed. A response of the slow tier brings the 64 bytes that were asked for, or, without data, the
global observation by which the oldest write sent is performed; either may bring poison, which stands until the whole line is written.
The model's own choices in it: log 17 (which 64 bytes), 27, 70, 71. -/
def HostAccessResults : Prop := ∀ s : State, Still s →
  let passes := fun (r : Resolved) (a : Acc) => s.farTether r = none ∧ s.refusing r a a = none
  let fails := fun (addr : Nat) (a : Acc) => (∃ f, s.resolve addr = .error f) ∨ ∃ r, s.resolve addr = .ok r ∧ ¬ passes r a
  let logged := fun (t : State) => t.rasStatus = true ∧ t.rasLog.length = s.rasLog.length + 1
  (∀ addr n : Nat, ¬ HostAccess addr n → exec (.hostMemRead addr n) s = .next s) ∧
  (∀ (addr n : Nat) (r : Resolved), HostAccess addr n → s.resolve addr = .ok r → passes r .read →
    (s.slowPending r.pa = true → exec (.hostMemRead addr n) s = .next s) ∧
    (s.slowPending r.pa = false → s.silent r.pa = true → ∃ t bs, exec (.hostMemRead addr n) s = .next t ∧ bs.length = n ∧
      t.out = s.out ++ [.hostData bs true] ∧ logged t) ∧
    (Prompt s r.pa → ∃ t, exec (.hostMemRead addr n) s = .next t ∧
      t.out = s.out ++ [.hostData (s.bytesAt r.pa n) (s.badLine r.pa)] ∧
      (∀ l, l ∈ t.snoopFilter ↔ l ∈ s.snoopFilter ∨ l = lineOf addr ∨ l = lineOf r.pa ∨ ∃ v ∈ r.via, l = lineOf v) ∧
      (s.badLine r.pa = false → t = { s with out := t.out, snoopFilter := t.snoopFilter }) ∧
      (s.badLine r.pa = true → logged t ∧
        t = { s with out := t.out, snoopFilter := t.snoopFilter, rasStatus := true, rasLog := t.rasLog }))) ∧
  (∀ addr n : Nat, HostAccess addr n → fails addr .read →
    ∃ t bs, exec (.hostMemRead addr n) s = .next t ∧ bs.length = n ∧ t.out = s.out ++ [.hostData bs true] ∧ logged t ∧
      t = { s with out := t.out, rasStatus := true, rasLog := t.rasLog }) ∧
  (∀ (addr : Nat) (data : List Byte), ¬ HostAccess addr data.length → exec (.hostMemWrite addr data) s = .next s) ∧
  (∀ (addr : Nat) (data : List Byte) (r : Resolved), HostAccess addr data.length → s.resolve addr = .ok r → passes r .write →
    (s.lands r.pa data.length → ∃ t, exec (.hostMemWrite addr data) s = .next t ∧ t.bytesAt r.pa data.length = data ∧
      t.out.getLast? = some .hostWritten ∧
      ((∀ l ∈ s.snoopFilter, lineOf (s.follow l) = lineOf r.pa → l = lineOf r.pa) →
        t.out = s.out ++ [.hostWritten]) ∧
      (∀ q, ¬ (r.pa ≤ s.canon q ∧ s.canon q < r.pa + data.length) → t.byte q = s.byte q) ∧
      t.poisoned r.pa = (s.poisoned r.pa && decide (data.length ≠ 128)) ∧ (∀ q, t.tether q = s.tether q) ∧
      (t.rasLog.length = s.rasLog.length + if s.badLine r.pa then 1 else 0) ∧ s.sameCores t ∧ lineOf r.pa ∉ t.snoopFilter ∧
      t = { s with mem := t.mem, lines := t.lines, cores := t.cores, windows := t.windows, out := t.out,
                   snoopFilter := t.snoopFilter, rasStatus := t.rasStatus, rasLog := t.rasLog }) ∧
    -- held at a port, it is not completed yet
    (∀ m, HeldFor s r.pa m → ∃ t w, exec (.hostMemWrite addr data) s = .next t ∧ t.out = s.out ∧ s.sameBytes t ∧
      t.portHeld = s.portHeld ++ [w] ∧ w.module_ = m ∧ w.addr = s.canon r.pa ∧ w.bytes = data.map (fun b => (b, 0xFF)))) ∧
  (∀ (addr : Nat) (data : List Byte), HostAccess addr data.length → fails addr .write →
    ∃ t, exec (.hostMemWrite addr data) s = .next t ∧ t.out = s.out ++ [.hostWritten] ∧ s.sameBytes t ∧ logged t ∧
      t = { s with out := t.out, rasStatus := true, rasLog := t.rasLog }) ∧
  -- snoops and the slow tier
  (∀ line : Nat, let l := lineOf line
    let alone := s.snoopFilter.Nodup ∧ ∀ x ∈ s.snoopFilter, lineOf (s.follow x) = l → x = l
    (l ∉ s.snoopFilter → exec (.backInvalidateDone line) s = .next s) ∧
    (l ∈ s.snoopFilter → alone → (∀ e ∈ s.cores, e.2.sbuf = [] ∧ e.2.squeue = []) → exec (.backInvalidateDone line) s = .next
      { s with snoopFilter := s.snoopFilter.filter (· ≠ l), out := s.out ++ [.backInvalidate l] }) ∧
    (∀ (k : Nat) (e : StoreEntry) (es : List StoreEntry), l ∈ s.snoopFilter → alone → s.cores = [(k, s.core k)] →
      (s.core k).sbuf = e :: es → (∀ y, es.head? = some y → y.joined = false) →
      lineOf e.pa = l → e.pa % 8 = 0 → e.bytes.length = 8 → s.lands e.pa 8 →
      ∃ t, exec (.backInvalidateDone line) s = .next t ∧ (t.core k).sbuf = es ∧ t.out = s.out ++ [.backInvalidate l] ∧ l ∉ t.snoopFilter ∧
        (∀ j b m, e.bytes[j]? = some (b, m) → t.byte (e.pa + j) = (s.byte (e.pa + j) &&& ~~~m) ||| (b &&& m)) ∧
        ∀ q, ¬ (e.pa ≤ s.canon q ∧ s.canon q < e.pa + 8) → t.byte q = s.byte q)) ∧
  (∀ (poison : Bool) (data : List Byte), data.length = 64 →
    let chunk := s.slowChunk
    chunk % 64 = 0 ∧ localRegion chunk = .slow ∧ ∃ t, exec (.slowTierResponse poison data) s = .next t ∧
      t.bytesAt chunk 64 = data ∧ t.poisoned chunk = (s.poisoned chunk || poison) ∧
      (∀ q, ¬ (chunk ≤ s.canon q ∧ s.canon q < chunk + 64) → t.byte q = s.byte q) ∧
      (∀ q, lineOf (s.canon q) ≠ lineOf chunk → t.poisoned q = s.poisoned q) ∧ s.sameCores t ∧
      t = { s with mem := t.mem, lines := t.lines, cores := t.cores }) ∧
  (∀ (poison : Bool) (data : List Byte), data ≠ [] → data.length ≠ 64 → exec (.slowTierResponse poison data) s = .next s) ∧
  (∀ poison : Bool,
    let sent := s.portHeld.find? fun w => w.module_ = 64
    (sent = none → exec (.slowTierResponse poison []) s = .next s) ∧
    (∀ w, sent = some w → s.region w.addr = .slow → s.plainBytes w.addr w.bytes.length → w.addr % 128 + w.bytes.length ≤ 128 →
      0 < w.bytes.length → (w.origin.path = 8 → ∀ e ∈ w.bytes, e.2 = 0xFF) → ∃ t, exec (.slowTierResponse poison []) s = .next t ∧ t.portHeld = s.portHeld.erase w ∧
        (∀ j b m, w.bytes[j]? = some (b, m) → t.byte (w.addr + j) = (s.byte (w.addr + j) &&& ~~~m) ||| (b &&& m)) ∧
        (∀ q, ¬ (w.addr ≤ s.canon q ∧ s.canon q < w.addr + w.bytes.length) → t.byte q = s.byte q) ∧
        t.poisoned w.addr = (poison || (s.poisoned w.addr && !w.heal)) ∧
        (∀ q, lineOf (s.canon q) ≠ lineOf w.addr → t.poisoned q = s.poisoned q) ∧ s.sameCores t ∧
        t = { s with mem := t.mem, lines := t.lines, cores := t.cores, windows := t.windows, snoopFilter := t.snoopFilter,
                     out := t.out, portHeld := t.portHeld }))

/-- R338, R339: an access of another module m is checked against the export table once its chain is followed: the entry of its first
address admits it by WRM, or for a read by RDM; no registered table admits nothing, and every module that a hop reaches must admit it
too; a table line that is poisoned or out of reach admits nothing. A read gives the bytes, a write stores them and is answered when it is
performed, an atomic stores its new value and gives the old one. A move sets its line in transit and holds its destination, which must
lie in the map, outside the chip's own memory, where m may write, be plain, be another line, and be held by no move; it is answered
when it commits. A tether fault, a denied access and poison are reported to m. EXPORT_TABLE_REGISTER registers a table that lies in
this module's HBM.
The model's own choices in it: log 18, 72, 76. -/
def RemoteAccessResults : Prop := ∀ (s : State) (m addr : Nat), Still s →
  let size : RemoteKind → Nat := fun k => match k with | .read n => n | .write d => d.length | .atomic _ n _ _ => n | .move _ => 128
  let writes : RemoteKind → Bool := fun k => match k with | .read _ => false | _ => true
  let run := fun k : RemoteKind => exec (.remoteAccessArrival { source := m, addr := addr, kind := k }) s
  let comes := fun k : RemoteKind => m < 64 ∧ m ≠ s.moduleNo ∧ HostAccess addr (size k)
  let lists := fun (a : Nat) (write : Bool) => s.exportBase ≠ 0 ∧ ∃ e : Resolved,
    s.resolve (s.exportBase + 16 * ((a - hbmBase) / 2097152)) = .ok e ∧
    s.farTether e = none ∧ s.badLine e.pa = false ∧ s.silent e.pa = false ∧
    ((s.natAt (e.pa + 8) 8).testBit m = true ∨ (write = false ∧ (s.natAt e.pa 8).testBit m = true))
  let grants := fun (k : RemoteKind) (r : Resolved) => lists addr (writes k) ∧ s.refusing r (if writes k then .write else .read) (if writes k then .write else .read) = none
  let comesTo := fun (k : RemoteKind) (r : Resolved) => comes k ∧ s.resolve addr = .ok r ∧ s.farTether r = none
  let answers := fun (k : RemoteKind) (o : Output) => run k = .next { s with out := s.out ++ [o] }
  (∀ k, ¬ comes k → run k = .next s) ∧
  (∀ k (f : FaultInfo), comes k → s.resolve addr = .error f → answers k (.remoteFault m f.kind)) ∧
  (∀ k (r : Resolved) (f : FaultInfo), comes k → s.resolve addr = .ok r → s.farTether r = some f → answers k (.remoteFault m f.kind)) ∧
  (∀ k (r : Resolved), comesTo k r → ¬ grants k r → answers k (.remoteFault m .remoteDenied)) ∧
  (∀ n (r : Resolved), let k := RemoteKind.read n
    comesTo k r → grants k r →
    (s.slowPending r.pa = true → run k = .next s) ∧
    (s.slowPending r.pa = false → s.silent r.pa = true → answers k (.remoteFault m .poison)) ∧
    (Prompt s r.pa → s.badLine r.pa = true → answers k (.remoteFault m .poison)) ∧
    (Prompt s r.pa → s.badLine r.pa = false → answers k (.remoteData m (s.bytesAt r.pa n) false))) ∧
  (∀ d (r : Resolved), let k := RemoteKind.write d
    comesTo k r → grants k r →
    (s.lands r.pa d.length → ∃ t, run k = .next t ∧ t.bytesAt r.pa d.length = d ∧ t.out.getLast? = some (.remoteDone m) ∧
      (∀ q, ¬ (r.pa ≤ s.canon q ∧ s.canon q < r.pa + d.length) → t.byte q = s.byte q) ∧ s.sameCores t ∧
      t = { s with mem := t.mem, lines := t.lines, cores := t.cores, windows := t.windows, snoopFilter := t.snoopFilter, out := t.out }) ∧
    (∀ far, HeldFor s r.pa far → ∃ t w, run k = .next t ∧ t.out = s.out ∧ s.sameBytes t ∧ t.portHeld = s.portHeld ++ [w] ∧
      w.module_ = far ∧ w.addr = s.canon r.pa ∧ w.bytes = d.map (fun b => (b, 0xFF)))) ∧
  (∀ aop n b expected (r : Resolved), let k := RemoteKind.atomic aop n b expected
    comesTo k r → grants k r → s.lands r.pa n → s.slowPending r.pa = false →
    (s.badLine r.pa = true → answers k (.remoteFault m .poison)) ∧
    (s.badLine r.pa = false → ∃ t, run k = .next t ∧ t.out.getLast? = some (.remoteData m (s.bytesAt r.pa n) false) ∧
      t.natAt r.pa n = (amoNew aop n (s.natAt r.pa n) (b % 256 ^ n) (expected % 256 ^ n)).getD (s.natAt r.pa n) % 256 ^ n ∧
      (∀ q, ¬ (r.pa ≤ s.canon q ∧ s.canon q < r.pa + n) → t.byte q = s.byte q) ∧ s.sameCores t ∧
      t = { s with mem := t.mem, lines := t.lines, cores := t.cores, windows := t.windows, snoopFilter := t.snoopFilter, out := t.out })) ∧
  (∀ dest (r : Resolved), let k := RemoteKind.move dest
    let line := lineOf r.pa
    let dst := lineOf (s.canon dest)
    let taken := s.tether dst ≠ .plain ∨ s.farTether ⟨dst, []⟩ ≠ none ∨ dst = line
    let allowed := match s.region dst with
      | .hbm _ => lists dst true
      | .remote q => q = m ∨ s.admitted dst .write = true
      | _ => True
    let kept := s.mapped dst = true ∧ s.onChip dst = false
    comesTo k r → grants k r → s.tether r.pa = .plain → s.canon r.pa = r.pa → s.canon line = line →
    (s.hasTether line = false → answers k (.remoteFault m .moveRefused)) ∧
    (s.hasTether line = true → s.mapped dst = false → answers k (.remoteFault m .physRange)) ∧
    (s.hasTether line = true → s.mapped dst = true → s.onChip dst = true → answers k (.remoteFault m .moveRefused)) ∧
    (s.hasTether line = true → kept → ¬ allowed → answers k (.remoteFault m .remoteDenied)) ∧
    (s.hasTether line = true → kept → allowed → taken → answers k (.remoteFault m .tetherState)) ∧
    (s.hasTether line = true → kept → allowed → ¬ taken → ∃ t, run k = .next t ∧
      TetherSet s t line .inTransit ∧ s.sameBytes t ∧
      t.moves = [{ line := line, dest := dst, colour := 0, owner := ⟨0, m, 0⟩, via := r.via, path := 7 }] ∧
      t = { s with lines := t.lines, moves := t.moves })) ∧
  (s.firmware = true →
    let legal := hbmBase ≤ addr ∧ addr + 393216 * 16 ≤ hbmBase + 8 * hbmSpan
    (legal → exec (.exportTableRegister addr) s = .next { s with exportBase := addr }) ∧
    (¬ legal → exec (.exportTableRegister addr) s = .next s))

/-- Nothing changes but port k, which becomes p. -/
def PortSet (s t : State) (k : Nat) (p : Port) : Prop :=
  t.ports[k]? = some p ∧ (∀ j, j ≠ k → t.ports[j]? = s.ports[j]?) ∧ t = { s with ports := t.ports }

/-- A repair that waits, of lane l, begins its swap once the port is quiet: every flit sent is acknowledged, or what failed is put off
until it is over (R384). -/
def SwapBegun (p q : Port) : Prop :=
  match p.repair with
  | none => q = p
  | some l => if p.rpr = true ∧ (p.unacked = [] ∨ p.resend.isSome = true) then q = { p with repair := none, spare := p.spare - 1, bad := l } else q = p

/-- A repair that waits has the port stop sending once no replay is outstanding, and then begins its swap (R384). -/
def Quiesced (p q : Port) : Prop :=
  if p.repair.isSome = true ∧ p.nak = false then SwapBegun { p with rpr := true } q else q = p

/-- The flits of b have crossed the port again at PTP time ns: it remembers them, and stamps those that begin an event message (R320, R381). -/
def Resent (p q : Port) (b : List (List Byte)) (ns : BitVec 96) : Prop :=
  (∀ x, x ∈ q.again ↔ x ∈ p.again ∨ ∃ f ∈ b, leNat (f.take 2) % 4096 = x) ∧
  q = { p with again := q.again, stamps := ((b.filter Config.eventFlit).map fun _ => (true, ns)) ++ p.stamps }

/-- R320, R381 to R385: the hawser ports. A flit that fails its CRC is rejected with a negative acknowledgement and counts as an error of its
lane for 1 ms, one out of order is discarded, the next in order is accepted and frees what it acknowledges; a flit with the first byte
of an event message is stamped with the PTP time. A negative acknowledgement has the flits from there on sent again, stamped anew; while
a lane swap runs, or for a replayed flit that fails while the port quiesces for one, only after the swap. A lane with 16 errors
within 1 ms, or one that firmware names, is swapped while a spare is left: the port stops sending once no replay is outstanding, and swaps
once every flit sent is acknowledged; else the port narrows. Links come up and go down; LINK_BRING_UP sets the module's number, the routes and the ports' modes;
reading a port's status clears CRCN. Stated with no write held at a port.
The model's own choices in it: log 18, 73, 74, 75. -/
def HawserPortResults : Prop := ∀ (s : State) (k : Nat) (p : Port), k < 8 → s.ports[k]? = some p → s.portHeld = [] →
  let seqOf := fun f : List Byte => leNat (f.take 2) % 4096
  let ackOf := fun f : List Byte => leNat ((f.drop 2).take 2) % 4096
  let recent := fun e : Nat × Nat => decide (s.scc.toNat < e.2 + 1050000)
  (∀ flit : List Byte,
    let sound := leNat (flit.drop 248) = (Config.crc64 (flit.take 248)).toNat
    (p.up = false ∨ flit.length ≠ 256 → exec (.flitReceive k flit) s = .next s) ∧
    (p.up = true → flit.length = 256 → ¬ sound → ∃ t q lane, exec (.flitReceive k flit) s = .next t ∧ lane < 16 ∧
      PortSet { s with out := s.out ++ [.nak k p.rxSeq] } t k q ∧
      q = { p with nak := true, crcn := min (p.crcn + 1) 65535, laneErrs := (lane, s.scc.toNat) :: p.laneErrs.filter recent }) ∧
    (p.up = true → flit.length = 256 → sound → seqOf flit ≠ p.rxSeq → exec (.flitReceive k flit) s = .next s) ∧
    (p.up = true → flit.length = 256 → sound → seqOf flit = p.rxSeq → ∃ t q q', exec (.flitReceive k flit) s = .next t ∧ PortSet s t k q' ∧
      Quiesced q q' ∧ q.rxSeq = (p.rxSeq + 1) % 4096 ∧
      (∀ a b f, p.unacked = a ++ f :: b → seqOf f = ackOf flit → (∀ g ∈ a, seqOf g ≠ ackOf flit) → q.unacked = b ∧
        ∀ x, x ∈ q.again ↔ x ∈ p.again ∧ ∀ g ∈ a ++ [f], seqOf g ≠ x) ∧
      ((∀ f ∈ p.unacked, seqOf f ≠ ackOf flit) → q.unacked = p.unacked ∧ q.again = p.again) ∧
      q = { p with nak := false, rxSeq := q.rxSeq, unacked := q.unacked, again := q.again,
                   stamps := if Config.eventFlit flit then (false, s.ptpNs ++ s.ptpFrac) :: p.stamps else p.stamps })) ∧
  (∀ seq : Nat, p.up = true →
    let later := p.rpr = true ∧ (p.repair = none ∨ seq % 4096 ∈ p.again)
    (later → ∃ t q, exec (.flitReplay k seq) s = .next t ∧ PortSet s t k q ∧ SwapBegun { p with resend := some (seq % 4096) } q) ∧
    (¬ later → ∀ a b, p.unacked = a ++ b → (∀ g ∈ a, seqOf g ≠ seq % 4096) → (∀ f ∈ b.head?, seqOf f = seq % 4096) →
      ∃ t q, exec (.flitReplay k seq) s = .next t ∧ PortSet { s with out := s.out ++ b.map fun f => .flit k f } t k q ∧
        Resent p q b (s.ptpNs ++ s.ptpFrac))) ∧
  (∀ lane : Nat,
    let errors := (p.laneErrs.filter fun e => e.1 = lane && recent e).length
    let errs := p.laneErrs.filter fun e => e.1 ≠ lane
    let due := s.firmware = true ∨ 16 ≤ errors
    let busy := p.rpr = true ∨ p.repair.isSome = true
    (p.up = false ∨ busy ∨ 16 ≤ lane ∨ ¬ due → exec (.laneRepair k lane) s = .next s) ∧
    (p.up = true → ¬ busy → lane < 16 → due → ∃ t, exec (.laneRepair k lane) s = .next t ∧
      (p.spare = 0 → PortSet s t k { p with laneErrs := errs, nar := true }) ∧
      (p.spare ≠ 0 → ∃ q, PortSet s t k q ∧ Quiesced { p with laneErrs := errs, repair := some lane } q))) ∧
  (p.rpr = true → p.repair = none → p.resend = none → ∃ t, exec (.laneRepairDone k) s = .next t ∧ PortSet s t k { p with rpr := false }) ∧
  (p.rpr = true → p.repair = none → ∀ q a b, p.resend = some q → p.unacked = a ++ b → (∀ g ∈ a, seqOf g ≠ q) →
    (∀ f ∈ b.head?, seqOf f = q) → ∃ t v, exec (.laneRepairDone k) s = .next t ∧
      PortSet { s with out := s.out ++ b.map fun f => .flit k f } t k v ∧
      Resent { p with rpr := false, resend := none } v b (s.ptpNs ++ s.ptpFrac)) ∧
  (p.rpr = false ∨ p.repair ≠ none → exec (.laneRepairDone k) s = .next s) ∧
  (∃ t, exec (.hawserLinkLost k) s = .next t ∧ PortSet s t k { p with up := false }) ∧
  (s.firmware = true →
    (∃ t, exec (.hawserLinkTrained k) s = .next t ∧
      PortSet { s with me := t.me, strands := t.strands } t k { p with up := true } ∧ t.me = { s.me with timedOut := false } ∧
      t.strands = s.strands.map fun u => { u with timedOut := false }) ∧
    (∃ t, exec (.portStatusRead k) s = .next t ∧
      PortSet { s with out := s.out ++ [.portStatus (BitVec.ofNat 64 ((if p.up then 1 else 0) + (if p.tsrc then 2 else 0) +
        (if p.nar then 16 else 0) + (if p.rpr then 32 else 0) + 64 * (p.spare % 4) + 256 * (p.bad % 256) +
        65536 * (p.crcn % 65536) + 2 ^ 32 * (p.peer % 64)))] } t k { p with crcn := 0 }) ∧
    (∀ cfg : LinkConfig, cfg.number < 64 → ∃ t, exec (.linkBringUp cfg) s = .next t ∧ t.moduleNo = cfg.number ∧ t.lost = [] ∧
      (∀ r, r ∈ t.routes ↔ r ∈ cfg.routes ∧ r.1 < 64 ∧ r.2 < 8) ∧ t.ports.length = s.ports.length ∧
      t.ports[k]? = some { p with tsrc := decide (k ∈ cfg.timeSource),
                                  peer := if k ∈ cfg.timeSource then 0 else assocGet 0 cfg.peers k % 64 } ∧
      t = { s with moduleNo := cfg.number, lost := [], routes := t.routes, ports := t.ports, me := { s.me with timedOut := false },
                   strands := s.strands.map fun u => { u with timedOut := false } }))

/-- R383: modules that can't be reached. A module declared lost is listed and its held writes are discarded; a write held at a port is
performed when the link trains again; a scalar read that waits for a module raises POISON once 100 microseconds have passed.
The model's own choices in it: log 75, 87. -/
def UnreachableModuleResults : Prop := ∀ s : State,
  (∀ m : Nat, s.firmware = true →
    (64 ≤ m ∨ m = s.moduleNo → exec (.moduleLost m) s = .next s) ∧
    (m < 64 → m ≠ s.moduleNo → ∃ t, exec (.moduleLost m) s = .next t ∧ (∀ n, n ∈ t.lost ↔ n ∈ s.lost ∨ n = m) ∧
      (∀ w, w ∈ t.portHeld ↔ w ∈ s.portHeld ∧ w.module_ ≠ m) ∧
      -- a discarded write of the host or of another module is completed all the same
      ((∀ w ∈ s.portHeld, w.module_ = m → w.origin.core ≠ none) → t.out = s.out) ∧
      t = { s with lost := t.lost, portHeld := t.portHeld, out := t.out })) ∧
  (∀ (k : Nat) (w : PortWrite) (p : Port), s.firmware = true → s.portHeld = [w] → s.ports[k]? = some p → s.lost.contains w.module_ = false →
    s.routes.find? (fun r => r.1 = w.module_) = some (w.module_, k) → s.region w.addr = .remote w.module_ →
    w.module_ ≠ 64 → p.tsrc = false → p.rpr = false → p.unacked.length < 512 → s.plainBytes w.addr w.bytes.length →
    s.tether w.addr = .plain → (w.origin.path = 8 → ∀ e ∈ w.bytes, e.2 = 0xFF) →
    ∃ t, exec (.hawserLinkTrained k) s = .next t ∧ t.portHeld = [] ∧
      (∀ j b m, w.bytes[j]? = some (b, m) → t.byte (w.addr + j) = (s.byte (w.addr + j) &&& ~~~m) ||| (b &&& m)) ∧
      ∀ q, ¬ (w.addr ≤ s.canon q ∧ s.canon q < w.addr + w.bytes.length) → t.byte q = s.byte q) ∧
  (∀ (m n : Nat) (d a : Reg) (i : BitVec 16) (w : BitVec 32), s.me.placed = true → s.me.held = .no → s.me.queue = [] →
    s.fetch s.me.core s.me.ptroot s.me.pc 4 = .ok n → w = BitVec.ofNat 32 n → decodeScalar w = .ok (.ldI64 d a i) →
    ∀ p, s.probe s.me.ptroot (s.ea a i) .read true = .ok p → s.region p.pa = .remote m → s.reachable m = false →
    exec (.remoteReadTimeout s.me.core s.me.slot) s = .next { s with me := { s.me with timedOut := true } } ∧
    (s.me.timedOut = true → s.issues [d, a] → s.settleFirst = s → ScalarGoes s → Still s → (s.ea a i).toNat % 8 = 0 →
      s.badLine p.pa = false → s.slowPending p.pa = false →
      exec (.ldI64 d a i) s =
        .next (s.takeTrap { kind := .poison, addr := s.ea a i, detail := p.pa / 128 % 2 ^ 42 * 128 } s.me.pc false 0)))

/-- Status word of the check of an image of len bytes (R388): bit 0 its RSA signature, bit 1 its SLH-DSA signature, bit 2 its header or
its SVN. -/
def checkOf (s : State) (len : Nat) : Nat :=
  let g := fun a n => imgNat s.controller.staging a n
  let bytes := fun a n => imgBytes s.controller.staging a n
  let signed := bytes 0 (len - 16608)
  let header := g 0 4 = 0x4D525253 ∧ g 4 4 = 1 ∧ 0 < g 8 8 ∧ g 8 8 ≤ 16777216 ∧ len = 64 + g 8 8 + 16608 ∧ g 20 44 = 0
  (if Config.rsaValid signed (bytes (len - 16608) 384) then 0 else 1) +
    (if Config.slhValid signed (bytes (len - 16224) 16224) then 0 else 2) + if header ∧ s.rollback ≤ g 16 4 then 0 else 4

/-- R386 to R390: the firmware image. IMG_CHUNK stages bytes and IMG_COMMIT begins the check, but while a check runs both are Busy and
after an image runs Unsupported. IMAGE_CHECK_DONE runs an image whose signatures, header and SVN pass, else reports the status word
and clears the staging buffer; the ATTESTs that waited are then answered. ATTEST begins its report with the nonce. Only a running
image advances the rollback counter, to at most its SVN, never down.
The model's own choices in it: log 14, 78, 80. -/
def Obligations.FirmwareImageResults : Prop := ∀ s : State,
  let busy := s.controller.checking ≠ none
  let answers := fun (i : Instr) (o : Output) => exec i s = .next { s with out := s.out ++ [o] }
  (∀ (off : Nat) (data : List Byte) (len : Nat),
    (busy → answers (.imgChunk off data) .busy ∧ answers (.imgCommit len) .busy) ∧
    (¬ busy → s.firmware = true → answers (.imgChunk off data) .unsupported ∧ answers (.imgCommit len) .unsupported) ∧
    (¬ busy → s.firmware = false →
      (data.length ≤ 1048576 → ∃ t, exec (.imgChunk off data) s = .next t ∧
        (∀ a, imgGet t.controller.staging a = if off ≤ a ∧ a < off + data.length then data.getD (a - off) 0
          else imgGet s.controller.staging a) ∧
        t = { s with out := s.out ++ [.success], controller := { s.controller with staging := t.controller.staging } }) ∧
      exec (.imgCommit len) s = .next { s with controller := { s.controller with checking := some len } })) ∧
  (s.controller.checking = none → exec .imageCheckDone s = .next s) ∧
  (∀ len, s.controller.checking = some len → s.controller.attests = [] →
    let runs := some (imgBytes s.controller.staging 0 len, imgNat s.controller.staging 16 4)
    (checkOf s len = 0 → exec .imageCheckDone s =
      .next { s with out := s.out ++ [.success], controller := { s.controller with checking := none, image := runs } }) ∧
    (checkOf s len ≠ 0 → exec .imageCheckDone s =
      .next { s with out := s.out ++ [.invalidInput (checkOf s len)],
                     controller := { s.controller with checking := none, staging := [] } })) ∧
  (∀ len, s.controller.checking = some len → ∃ t, exec .imageCheckDone s = .next t ∧ t.controller.checking = none ∧
    t.controller.attests = [] ∧ t.out.length = s.out.length + 1 + s.controller.attests.length) ∧
  (∀ nonce : List Byte, nonce.length = 32 →
    (busy → exec (.attest nonce) s =
      .next { s with controller := { s.controller with attests := s.controller.attests ++ [nonce] } }) ∧
    (¬ busy → ∃ body rsa slh, answers (.attest nonce) (.report body rsa slh) ∧ body.take 32 = nonce ∧
      leNat (body.drop (body.length - 8)) = s.scc.toNat ∧
      (∀ bs svn, s.controller.image = some (bs, svn) → (body.drop 32).take ((Config.sha384 bs).length + 4) =
        Config.sha384 bs ++ leBytes 4 svn))) ∧
  (∀ v : Nat,
    (s.controller.image = none → exec (.rollbackAdvance v) s = .next s) ∧
    (∀ bs svn, s.controller.image = some (bs, svn) →
      (s.rollback ≤ v ∧ v ≤ svn ∧ v < 256 → exec (.rollbackAdvance v) s = .next { s with rollback := v }) ∧
      (¬ (s.rollback ≤ v ∧ v ≤ svn ∧ v < 256) → exec (.rollbackAdvance v) s = .next s)))

/-- R318, R319, R386: a reset of the module. No strand, log, launch, ring, queue, window or save area is left; HBM reads as zero, plain and
sound; the clocks stand at 0 with ADDEND at the nominal rate and LOCK clear; no image runs. The fused counter keeps its value.
The model's own choices in it: log 29, 77. -/
def Obligations.ResetResult : Prop := ∀ s : State, ∃ t, exec .reset s = .next t ∧ t.rollback = s.rollback ∧ t.controller = {} ∧
  t.all = [] ∧ t.logs = [] ∧ t.launches = [] ∧ t.windows = [] ∧ t.rings = [] ∧ t.trapqs = [] ∧ t.saveAreas = [] ∧ t.exportBase = 0 ∧
  t.braids = [] ∧ t.copyq = [] ∧ t.stackq = [] ∧ t.collectives = [] ∧ t.barriers = [] ∧ t.armed = [] ∧ t.halts = [] ∧ t.tlb = [] ∧
  t.moves = [] ∧ t.heldWrites = [] ∧ t.cores = [] ∧ t.coreMap = [] ∧ t.scc = 0 ∧ t.ptpNs = 0 ∧ t.ptpFrac = 0 ∧ t.addend = 0xF3CF3CF4 ∧
  t.lock = false ∧ t.lockLog = [] ∧ t.capture = 0 ∧ t.captureNext = none ∧ t.replayAt = [] ∧ t.portHeld = [] ∧ t.routes = [] ∧ t.lost = [] ∧
  t.snoopFilter = [] ∧ t.rasStatus = false ∧ t.dispatchers = List.replicate 4 {} ∧ t.hbmStacks = List.replicate 8 {} ∧ t.ports = List.replicate 8 {} ∧
  (∀ a, a < slowBase → t.byte a = 0 ∧ t.poisoned a = false ∧ t.tether a = .plain) ∧ (s.memOk → t.memOk)

/-- R203, R303, R318, R319, R331, R359, R366, R391, R392: what firmware writes and registers. The clock's ADDEND, STEP and STAT; CAPTURE, which
takes effect in the whole module on one SCC edge; rings, whose BASE and LGN are latched when the fields are legal, and trap queues, where those stay
in the descriptor, both with counts of their own that begin at 0 and go on over a new registration; save areas; and the level of an island, which applies at once to a slice that holds no lanes and otherwise waits.
The model's own choices in it: log 63, 81. -/
def FirmwareWriteResults : Prop := ∀ s : State, s.firmware = true →
  (∀ v : Word, let ns := v.toNat / 2 ^ 32; let fr := v.toNat % 2 ^ 32
    (ns ≠ 0 ∨ fr = 0 → exec (.ptpAddendWrite v) s = .next s) ∧
    (ns = 0 → fr ≠ 0 → exec (.ptpAddendWrite v) s = .next { s with addend := BitVec.ofNat 32 fr }) ∧
    -- a step back ends the record of LOCK for what comes after it
    let lockLog := s.lockLog.map fun e => (min e.1 (s.ptpNs + v).toNat, e.2)
    (v = 0 → exec (.ptpStepWrite v) s = .next { s with lockLog := lockLog }) ∧
    (v ≠ 0 → exec (.ptpStepWrite v) s = .next { s with ptpNs := s.ptpNs + v, lockLog := lockLog, me := { s.me with stepped := true },
                                                       strands := s.strands.map fun t => { t with stepped := true } }) ∧
    (2 ≤ v.toNat → exec (.ptpStatWrite v) s = .next s) ∧
    (v.toNat < 2 → exec (.ptpStatWrite v) s = 
      .next (if s.lock = decide (v = 1) then s
        else { s with lock := decide (v = 1), lockLog := s.lockLog ++ [(s.ptpNs.toNat, s.lock)] })) ∧
    (v.toNat < 3 → exec (.captureWrite (some v)) s = .next { s with capture := BitVec.ofNat 2 v.toNat, captureNext := none }) ∧
    (3 ≤ v.toNat → exec (.captureWrite (some v)) s = .next s)) ∧
  (∀ c, s.captureNext = some c → exec (.captureWrite none) s = .next { s with capture := c, captureNext := none }) ∧
  (s.captureNext = none → exec (.captureWrite none) s = .next s) ∧
  (∀ (id : RingId) (addr : Nat), Direct s addr 64 → let f := fun lo n => s.natAt addr 64 / 2 ^ lo % 2 ^ n
    let known := match id with | .core l => l < 240 | .dispatcher d | .capture d => d < 4 | _ => True
    let legal := known ∧ addr % 64 = 0 ∧ f 198 314 = 0 ∧ (f 0 64 = 0 ∨ (4 ≤ f 192 6 ∧ f 192 6 ≤ 24 ∧ f 0 64 % 32 = 0))
    (¬ legal → exec (.ringRegister id addr) s = .next s) ∧
    (legal → ∃ t, exec (.ringRegister id addr) s = .next t ∧
      (∀ r : Ring, r.id ≠ id → (r ∈ t.rings ↔ r ∈ s.rings)) ∧
      (∀ r : Ring, r.id = id → (r ∈ t.rings ↔ r = { id := id, addr := addr, base := f 0 64, lgn := f 192 6,
                                                          wr := ((s.rings.find? (·.id = id)).map (·.wr)).getD 0 })) ∧
      t = { s with rings := t.rings })) ∧
  (∀ q addr : Nat, Direct s addr 64 → let f := fun lo n => s.natAt addr 64 / 2 ^ lo % 2 ^ n
    let legal := q ≤ 240 ∧ addr % 64 = 0 ∧ f 232 280 = 0 ∧ f 196 3 = 0 ∧
      (f 0 64 = 0 ∨ (3 ≤ f 192 4 ∧ f 192 4 ≤ 12 ∧ f 0 64 % 64 = 0))
    (¬ legal → exec (.trapQueueRegister q addr) s = .next s) ∧
    let kept := fun g : TrapQueue → Nat => ((s.trapqs.find? (·.q = q)).map g).getD 0
    (legal → ∃ t, exec (.trapQueueRegister q addr) s = .next t ∧
      (∀ r : TrapQueue, r.q ≠ q → (r ∈ t.trapqs ↔ r ∈ s.trapqs)) ∧
      (∀ r : TrapQueue, r.q = q → (r ∈ t.trapqs ↔
        r = { q := q, addr := addr, wr := kept (·.wr), seq := kept (·.seq), dropn := kept (·.dropn) })) ∧
      t = { s with trapqs := t.trapqs })) ∧
  (∀ logical addr : Nat,
    (240 ≤ logical ∨ addr % 4096 ≠ 0 → exec (.saveAreaRegister logical addr) s = .next s) ∧
    (logical < 240 → addr % 4096 = 0 → ∃ t, exec (.saveAreaRegister logical addr) s = .next t ∧
      (∀ l, t.saveAreas.find? (fun e => e.1 = l) = if l = logical then some (logical, addr) else s.saveAreas.find? fun e => e.1 = l) ∧
      t = { s with saveAreas := t.saveAreas })) ∧
  (∀ core slice level : Nat,
    let inUse := ∃ t ∈ s.all, t.core = core ∧ t.cur.getLsbD slice = true
    let c := s.core core
    (256 ≤ core ∨ 4 ≤ slice ∨ 4 ≤ level → exec (.islandLevelApply core slice level) s = .next s) ∧
    (core < 256 → slice < 4 → level < 4 → ∃ t, exec (.islandLevelApply core slice level) s = .next t ∧
      (¬ inUse → t.core core = { c with levels := c.levels.set slice level, islandCmds := c.islandCmds.filter fun e => e.1 ≠ slice }) ∧
      (inUse → t.core core = { c with islandCmds := c.islandCmds.filter (fun e => e.1 ≠ slice) ++ [(slice, level)] }) ∧
      (∀ k, k ≠ core → t.core k = s.core k) ∧ t = { s with cores := t.cores }))

/-- R171 to R174: the events of an epoch, for a cluster whose one formed braid the executing strand leads, its next convoy being one BRTOPADD.
BRAID_EPOCH_OPEN, once every member is ready, has each member copy its tile to the restore buffer; BRAID_EPOCH_COMPLETE, in an open epoch,
issues and retires the leader's word with FIN = 1: its product in every member's tile, and the completion. A leader that may not issue, at
a cut or due for its forced save, does neither (R303, R310); a cluster without a formed braid has no such event.
The model's own choices in it: log 59, 60, 103, 123. -/
def EpochResults : Prop := ∀ (s : State) (k : Nat),
  ((∀ b ∈ s.braids, b.cluster = k → b.formed = false) →
    exec (.braidEpochOpen k) s = .next s ∧ exec (.braidEpochComplete k) s = .next s) ∧
  (∀ (b : Braid) (w : VWord) (g : State) (m : BraidMember), s.me.placed = true → s.me.held = .no → s.me.queue ≠ [] →
    clusterOf s.me.core = k → s.braids.filter (fun c => c.cluster = k && c.formed) = [b] → Leads s b w →
    b.members.find? (fun m => (b.cores.idxOf? m.index).getD 0 = 0) = some m → m.index = s.me.core % 4 → m.slot = s.me.slot →
    s.headConvoy = .ok (g, [.brtopadd w]) → s.vctx.ctl.vl ≠ 0 →
    let fits := ShareFits w (s.vctx.x w.va).toNat
    (s.runs = false → exec (.braidEpochOpen k) s = .next s ∧ exec (.braidEpochComplete k) s = .next s) ∧
    (s.runs = true → b.open_ = false → fits → ∃ t, exec (.braidEpochOpen k) s = .next t ∧
      (∀ n ∈ b.members, let c := 4 * b.cluster + n.index
        (∀ j, j < 32768 → imgGet (t.core c).restore j = imgGet (s.core c).tiles (32768 * b.tile + j)) ∧
        t.core c = { s.core c with restore := (t.core c).restore }) ∧
      (∀ c, (∀ n ∈ b.members, c ≠ 4 * b.cluster + n.index) → t.core c = s.core c) ∧
      t.braidOf s.me = some { b with open_ := true, members := b.members.map fun n => { n with ready := false, fault := none } } ∧
      t = { s with cores := t.cores, braids := t.braids }) ∧
    (b.open_ = true → exec (.braidEpochOpen k) s = .next s) ∧
    (b.open_ = false ∨ w.fn.getLsbD 7 = false → exec (.braidEpochComplete k) s = .next s) ∧
    (s.runs = true → b.open_ = true → w.fn.getLsbD 7 = true → s.me.issued = none → s.heads (.brtopadd w) s.vctx →
      s.vctx.ctl.vtype.toNat / 2 ^ 8 % 4 ≠ 3 → fits → w.f ∈ [0, 1, 8, 9, 10, 12, 13, 19] →
      ∃ t b', exec (.braidEpochComplete k) s = .next t ∧ ProductDone s w s.vctx b b' t))

/-- The fault of an access of n bytes at va, with the stage of R137 at which it stands: 0 alignment, 1 translation, 2 memory type (`dev` allows
device memory), 3 and 4 the tether chain, TETHER-LONG before TETHER-DANGLING, 5 the export check, and 6, for an access that reads, the tag of
its chamber slot (R94, R136, R137, R224, R338). -/
def accessFault (s : State) (acc : Acc) (dev reads : Bool) (va : Word) (n : Nat) : Option (Nat × FaultInfo) :=
  let tether := fun f : FaultInfo => (if f.kind = .tetherLong then 3 else 4, { f with addr := va })
  if va.toNat % n ≠ 0 then some (0, { kind := .misaligned, addr := va })
  else match s.xlate s.me.ptroot va acc with
  | .error f => some (1, f)
  | .ok x =>
    if x.device && !dev then some (2, { kind := .memType, addr := va })
    else match s.resolve x.pa with
    | .error f => some (tether f)
    | .ok r =>
      match s.farTether r, s.refusing r acc acc with
      | some f, _ => some (tether f)
      | none, some _ => some (5, { kind := .remoteDenied, addr := va, detail := x.page % 2 ^ 49 })
      | none, none => if reads && s.slotMismatch r.pa then some (6, { kind := .schedule, addr := va }) else none

/-- R94, R99 to R102, R112, R222 to R224, R338: where the scalar accesses fault: at their first stage that fails; then a tag window takes only
LD.I64 and ST.I64 of a legal value, and at TAGW a fault posted for a copy command that writes the slot is taken; then, for what reads, POISON.
No register is written and nothing is stored.
The model's own choices in it: log 18, 34, 76. -/
def ScalarAccessFaults : Prop := ∀ (s : State) (d a b : Reg) (i : BitVec 16), s.issues [d, a, b] →
  let raises := fun (j : Instr) (u : State) (f : FaultInfo) => exec j s = .next (u.takeTrap f s.me.pc false 0)
  let poison := fun (va : Word) (pa : Nat) => ({ kind := .poison, addr := va, detail := pa / 128 % 2 ^ 42 * 128 } : FaultInfo)
  let window := fun (u : State) (pa : Nat) => ∃ c, u.region pa = .tagWindow c
  let u := s.settleFirst
  let va := s.ea a i
  (ScalarGoes u → ∀ x ∈ [(Instr.ldI64 d a i, 8), (.ldI8 d a i, 1), (.ldN8 d a i, 1), (.ldI16 d a i, 2), (.ldN16 d a i, 2), (.ldI32 d a i, 4),
      (.ldN32 d a i, 4)],
    (∀ k f, accessFault u .read true true va x.2 = some (k, f) → raises x.1 u f) ∧
    (accessFault u .read true true va x.2 = none → ∀ p, u.probe s.me.ptroot va .read true = .ok p →
      (window u p.pa → x.2 ≠ 8 → raises x.1 u { kind := .memType, addr := va }) ∧
      (¬ window u p.pa → u.badLine p.pa = true → raises x.1 u (poison va p.pa)))) ∧
  (∀ x ∈ [(Instr.stI64 b a i, 8), (.stI8 b a i, 1), (.stI16 b a i, 2), (.stI32 b a i, 4)],
    let u := s.beforeStore va x.2
    let v := (s.xget b).toNat
    ScalarGoes u →
    (∀ k f, accessFault u .write true false va x.2 = some (k, f) → raises x.1 u f) ∧
    (accessFault u .write true false va x.2 = none → ∀ p, u.probe s.me.ptroot va .write true = .ok p → window u p.pa →
      let legal := if p.pa % 16 = 0 then v < 65536 else v / 2 ^ 49 = 0 ∧ v % 2 ^ 32 = 0
      (x.2 ≠ 8 ∨ ¬ legal → raises x.1 u { kind := .memType, addr := va }) ∧
      let busy := ∃ c ∈ u.copyQueue (clusterOf u.me.core), c.owner = u.me.owner ∧ (p.pa ∈ u.destSlots c ∨ p.pa ∈ u.srcSlots c)
      (x.2 = 8 → legal → p.pa % 16 = 0 → u.me.queue = [] → ¬ busy → u.stillHeld u.me.core u.me.slot (fun _ => true) = false →
        ∀ f, u.me.postedCpy.find? (fun q => q.slots.contains p.pa) = some f →
          raises x.1 u { kind := .cpyElement, detail := f.detail, posted := some f }))) ∧
  (ScalarGoes u → ∀ (q l : Bool) (c : BitVec 3), ∀ w ∈ [(2 : BitVec 2), 3],
    let n := if w = 2 then 4 else 8
    let va := s.xget a
    ∀ x ∈ (Instr.claim d a b, 16, false) :: [Instr.amoswap, .amoadd, .amoand, .amoor, .amoxor, .amomin, .amomax, .amominN, .amomaxN,
        .amocas].map (fun f => (f d a b w q l c, n, l)),
      (∀ k f, accessFault u .write false true va x.2.1 = some (k, f) → raises x.1 u f) ∧
      (accessFault u .write false true va x.2.1 = none → ∀ p, u.probe s.me.ptroot va .write false = .ok p →
        let pa := (u.settle p.pa).2
        let v := (u.settle p.pa).1.drainSbuf s.me.core
          fun e => e.slot = s.me.slot && (x.2.2 || lineOf ((u.settle p.pa).1.follow e.pa) = lineOf pa)
        v.tether pa ≠ .inTransit → v.badLine pa = true → raises x.1 u (poison va pa))) ∧
  -- ADDR.EQ, after the strand's earlier scalar stores and moves
  let u := s.beforeMove
  (ScalarGoes u → u.stillHeld u.me.core u.me.slot (fun o => o.path = 5) = false →
    let ends := fun (r : Reg) (f : FaultInfo) => (∃ k, accessFault u .read true true (s.xget r) 1 = some (k, f)) ∨
      (accessFault u .read true true (s.xget r) 1 = none ∧ f = { kind := .memType, addr := s.xget r } ∧
        ∃ p, u.probe s.me.ptroot (s.xget r) .read true = .ok p ∧ window u p.pa)
    (∀ f, ends a f → raises (.addrEq d a b) u f) ∧
    (∀ f, (∀ g, ¬ ends a g) → ends b f → raises (.addrEq d a b) u f))

/-- R135 to R137, R224: where the vector accesses fault, before anything is read or written: the fault reported is that of the least element
that has one, and in it the first at its earliest stage; every vector access refuses device memory. Then the reads, those of atomics too, raise
POISON at the least element of a poisoned line. Nothing is written.
The model's own choices in it: log 18, 76, 95. -/
def VectorAccessFaults : Prop := ∀ (s : State) (w : VWord) (c : VCtx),
  let n := memBytes w.f
  let es := worked s c w
  let raises := fun (i : Instr) (f : FaultInfo) (e : Nat) =>
    exec i s = .next ((s.grantUnits (instrUnits i)).convoyTrap { f with elem := BitVec.ofNat 64 e } 0)
  let faults := fun (i : Instr) (acc : Acc) (reads : Bool) (m n : Nat) (va : Nat → Nat → Word) =>
    let at_ := fun e j => accessFault s acc false reads (va e j) n
    s.heads i c → ∀ e ∈ es, ∀ j k f, j < m → at_ e j = some (k, f) →
      (∀ d ∈ es, d < e → ∀ x, x < m → at_ d x = none) →
      (∀ x l g, x < m → at_ e x = some (l, g) → k < l ∨ (k = l ∧ j ≤ x)) → raises i f e
  let poisons := fun (i : Instr) (va : Nat → Word) => s.heads i c → Still s → buffered s (es.map fun e => (va e, n)) = none →
    (∀ e ∈ es, accessFault s .read false true (va e) n = none) → ∀ e ∈ es, ∀ p, s.probe s.me.ptroot (va e) .read false = .ok p →
    s.badLine (s.follow p.pa) = true → (∀ d ∈ es, d < e → ∃ pa, ReadsAt s (va d) n pa) →
    raises i { kind := .poison, addr := va e, detail := s.follow p.pa / 128 % 2 ^ 42 * 128 } e
  let unit := fun e => vbase c w + BitVec.ofNat 64 (if ew w.f = 4 then e / 2 else e * n)
  let strided := fun e => vbase c w + BitVec.ofNat 64 e * c.x w.vb
  let indexed := fun e => vbase c w + BitVec.ofInt 64 (voffset s c w.vb e)
  let atomic := fun e => c.x w.va + BitVec.ofInt 64 (voffset s c w.vb e)
  let nf := w.vb.toNat
  let mb := ew w.vc.toNat / 8
  let field := fun e j => vbase c w + BitVec.ofNat 64 ((e * nf + j) * mb)
  (∀ x ∈ [(Instr.vld w, unit), (.vlds w, strided), (.vldx w, indexed)],
    faults x.1 .read true 1 n (fun e _ => x.2 e) ∧ poisons x.1 x.2) ∧
  (∀ x ∈ [(Instr.vst w, unit), (.vsts w, strided), (.vstx w, indexed)], faults x.1 .write false 1 n (fun e _ => x.2 e)) ∧
  faults (.vldseg w) .read true nf mb field ∧ faults (.vstseg w) .write false nf mb field ∧
  (∀ i ∈ [Instr.vamoswap w, .vamoadd w, .vamoand w, .vamoor w, .vamoxor w, .vamomin w, .vamomax w, .vamocas w],
    faults i .write true 1 n (fun e _ => atomic e) ∧
    (s.heads i c → Still s → (∀ e ∈ (s.core s.me.core).squeue, e.slot ≠ s.me.slot) →
      (w.fn.getLsbD 8 = true → s.stillHeld s.me.core s.me.slot (fun o => decide (o.path < 4)) = false) →
      (∀ e ∈ es, accessFault s .write false true (atomic e) n = none ∧
        ∀ p, s.probe s.me.ptroot (atomic e) .write false = .ok p → s.tether (s.follow p.pa) = .plain) →
      ∀ e ∈ es, ∀ p, s.probe s.me.ptroot (atomic e) .write false = .ok p → s.badLine (s.follow p.pa) = true →
      (∀ d ∈ es, d < e → ∃ pa, WritesAt s (atomic d) n pa) →
      raises i { kind := .poison, addr := atomic e, detail := s.follow p.pa / 128 % 2 ^ 42 * 128 } e))

/-- R94, R99 to R102, R112, R135 to R137, R222 to R224, R338: where the scalar and the vector accesses fault. -/
def Obligations.AccessFaults : Prop := ScalarAccessFaults ∧ VectorAccessFaults

/-- Where the walker reads the entry of an address in a table of a level (R311). -/
def entryPlace (table va level : Nat) : Nat :=
  table + 8 * (match level with
    | 0 => va / 2 ^ 48 % 2 ^ 9 | 1 => va / 2 ^ 39 % 2 ^ 9 | 2 => va / 2 ^ 30 % 2 ^ 9 | 3 => va / 2 ^ 21 % 2 ^ 9 | _ => va / 2 ^ 16 % 2 ^ 5)

/-- The walker reads e as the entry of an address in a table (R251, R311). -/
def EntryAt (s : State) (table va level e : Nat) : Prop :=
  s.mapped table = true ∧ ∃ r, s.resolve (entryPlace table va level) = .ok r ∧ s.farTether r = none ∧
    s.refusing r .read .read = none ∧ s.farWait r.pa = none ∧ s.badLine r.pa = false ∧ s.natAt r.pa 8 = e

/-- Bits of an entry that must be 0 (R312), and the address it holds. -/
def entryClean (e : Nat) : Prop := e / 2 ^ 62 % 2 ^ 2 = 0 ∧ e / 2 ^ 49 % 2 ^ 6 = 0 ∧ e / 2 ^ 2 % 2 ^ 6 = 0
def entryAddr (e : Nat) : Nat := e / 2 ^ 8 % 2 ^ 41 * 2 ^ 8

/-- The walk of an address from the root of a PTROOT value comes to a table at a level (R311). -/
def Reaches (s : State) (ptroot : Word) (va level table : Nat) : Prop :=
  ∃ at_ : Nat → Nat, at_ 0 = ptroot.toNat / 65536 * 65536 ∧ at_ level = table ∧
    ∀ j, j < level → ∃ e, EntryAt s (at_ j) va j e ∧ e % 2 = 1 ∧ e / 2 % 2 = 0 ∧ entryClean e ∧
      (j < 3 → entryAddr e % 4096 = 0) ∧ at_ (j + 1) = entryAddr e

/-- R311 to R313: translation, where no TLB holds the address. The walk raises the first fault it meets: NONCANON; PHYS-RANGE for a table
outside the map, with the entry's address; the faults of reading an entry, those of other modules' lines among them, and the wait for a
module that can't be reached (R338, R383); PAGE-ABSENT, PTE-FORM, and PHYS-RANGE for a page outside the map. A leaf gives the
physical address and the page's attributes to the accesses it permits; PAGE-PERM, or CODE-END for a fetch from a guard page, to the
others.
The model's own choices in it: log 61, 76. -/
def Obligations.TranslationResults : Prop := ∀ (s : State) (ptroot va : Word) (acc : Acc), s.tlbHits ptroot va = [] →
  let raises := fun (k : FaultKind) (detail : Nat) => s.xlate ptroot va acc = .error { kind := k, addr := va, detail := detail }
  let v := va.toNat % 2 ^ 57
  let sound := va.toNat / 2 ^ 56 = 0 ∨ va.toNat / 2 ^ 56 = 255
  (¬ sound → raises .noncanon 0) ∧
  (sound → ∀ level table, level ≤ 4 → Reaches s ptroot v level table →
    let place := entryPlace table v level
    (s.mapped table = false → raises .physRange (place % 2 ^ 49)) ∧
    (∀ f, s.mapped table = true → s.resolve place = .error f → s.xlate ptroot va acc = .error { f with addr := va }) ∧
    (∀ r, s.mapped table = true → s.resolve place = .ok r →
      let passes := s.farTether r = none ∧ s.refusing r .read .read = none
      (∀ f, s.farTether r = some f → s.xlate ptroot va acc = .error { f with addr := va }) ∧
      (s.farTether r = none → s.refusing r .read .read ≠ none → raises .remoteDenied (place % 2 ^ 49)) ∧
      (∀ f, passes → s.farWait r.pa = some f → s.xlate ptroot va acc = .error { f with addr := va }) ∧
      (passes → s.farWait r.pa = none → s.badLine r.pa = true → raises .poison (r.pa / 128 % 2 ^ 42 * 128))) ∧
    (∀ e, EntryAt s table v level e →
      let at_ := place % 2 ^ 49
      let leaf := e / 2 % 2 = 1
      let size := match level with | 2 => 2 ^ 30 | 3 => 2 ^ 21 | _ => 2 ^ 16
      let base := entryAddr e
      let mt := e / 2 ^ 60 % 2 ^ 2
      let sizeOk := match s.region base with
        | .gallery _ => size ≤ 2 ^ 21 | .chamber _ | .tagWindow _ | .niche _ => size = 2 ^ 16 | _ => True
      let formed := 2 ≤ level ∧ mt ≠ 3 ∧ base % size = 0 ∧ sizeOk
      (e % 2 = 0 → raises .pageAbsent at_) ∧
      (e % 2 = 1 → ¬ entryClean e → raises .pteForm at_) ∧
      (e % 2 = 1 → entryClean e → ¬ leaf → level = 4 ∨ (level < 3 ∧ base % 4096 ≠ 0) → raises .pteForm at_) ∧
      (e % 2 = 1 → entryClean e → leaf → ¬ formed → raises .pteForm at_) ∧
      (e % 2 = 1 → entryClean e → leaf → formed → s.pageMapped base size = false → raises .physRange base) ∧
      (e % 2 = 1 → entryClean e → leaf → formed → s.pageMapped base size = true →
        let may := match acc with | .read => e / 2 ^ 55 % 2 = 1 | .write => e / 2 ^ 56 % 2 = 1 | .fetch => e / 2 ^ 57 % 2 = 1
        (mt ≠ 2 → may → ∃ x, s.xlate ptroot va acc = .ok x ∧ x.pa = s.canon (base + v % size) ∧
          (x.device = true ↔ mt = 1 ∨ ∃ c, s.region x.pa = .tagWindow c) ∧
          (x.pin = true ↔ e / 2 ^ 59 % 2 = 1 ∨ s.onChip x.pa = true) ∧ (x.sink = true ↔ e / 2 ^ 58 % 2 = 1)) ∧
        (mt ≠ 2 → ¬ may → raises .pagePerm base) ∧
        (mt = 2 → acc = .fetch → raises .codeEnd 0) ∧
        (mt = 2 → acc ≠ .fetch → raises .pagePerm base))))

/-- R337: byte a of the local map of module m has the window address 0x1000000000000 + m * 0x40000000000 + a, m as firmware numbered the
modules. A window address of the executing module is the location of the local address; of another module only the HBM ranges
are reachable, and a translation that names another range of it raises PHYS-RANGE. -/
def Obligations.WindowAddresses : Prop := ∀ (s : State) (m a : Nat), m < 64 → a < 0x40000000000 →
  let w := 0x1000000000000 + m * 0x40000000000 + a
  let hbm := 0x4000000000 ≤ a ∧ a < 0x4000000000 + 8 * 0x1800000000
  (∀ cfg : LinkConfig, s.firmware = true → cfg.number = m → ∃ t, exec (.linkBringUp cfg) s = .next t ∧ t.moduleNo = m) ∧
  (m = s.moduleNo → s.region w = s.region a ∧ s.byte w = s.byte a ∧ s.tether w = s.tether a ∧ s.poisoned w = s.poisoned a) ∧
  (m ≠ s.moduleNo → hbm → s.region w = .remote m) ∧
  (m ≠ s.moduleNo → ¬ hbm → s.mapped w = false ∧
    ∀ (ptroot va : Word) (acc : Acc) (level table e : Nat), s.tlbHits ptroot va = [] → va.toNat / 2 ^ 56 = 0 → 2 ≤ level → level ≤ 4 →
      Reaches s ptroot va.toNat level table → EntryAt s table va.toNat level e → e % 2 = 1 → e / 2 % 2 = 1 → entryClean e →
      e / 2 ^ 60 % 2 ^ 2 ≠ 3 → w % (match level with | 2 => 2 ^ 30 | 3 => 2 ^ 21 | _ => 2 ^ 16) = 0 → entryAddr e = w →
      s.xlate ptroot va acc = .error { kind := .physRange, addr := va, detail := w })

/-- R250: RESOLVE. A chain of h tethered lines, each naming the next with the byte offset carried, resolves to the plain or in-transit line at
its end while h is at most 3; a released line at its end raises TETHER-DANGLING, a fourth tethered line TETHER-LONG; a line without
tether bits is where an access ends. -/
def Obligations.ResolveResults : Prop := ∀ (s : State) (at_ : Nat → Nat) (h : Nat),
  let word := fun pa => s.natAt (lineOf (s.canon pa)) 8
  (∀ j, j < h → s.tether (at_ j) = .tethered ∧ at_ (j + 1) = word (at_ j) / 2 ^ 22 % 2 ^ 42 * 128 + at_ j % 128) →
  (h ≤ 3 → s.hasTether (at_ h) = false ∨ s.tether (at_ h) = .plain ∨ s.tether (at_ h) = .inTransit →
    s.resolve (at_ 0) = .ok { pa := s.canon (at_ h), via := (List.range h).map fun j => lineOf (s.canon (at_ j)) }) ∧
  (h ≤ 3 → s.tether (at_ h) = .released → s.resolve (at_ 0) = .error
    { kind := .tetherDangling,
      detail := s.canon (at_ h) / 128 % 2 ^ 42 * 128 + 2 ^ 64 * (word (at_ h) % 2 ^ 22) }) ∧
  (h = 4 → ∃ detail, s.resolve (at_ 0) = .error { kind := .tetherLong, detail := detail } ∧
    ∀ j, j < 4 → detail / 2 ^ (42 * j) % 2 ^ 42 = s.canon (at_ j) / 128 % 2 ^ 42)

/-- R18, R68, R81 to R87: every word decodes back. The word of each well-formed instruction, by the encoder, decodes to that
instruction, with every operand at every value its field admits. -/
def Obligations.EveryWordDecodesBack : Prop := ∀ i : Instr, Laws.Coded.Statement i

/-- Every step keeps the canonical form of memory, and the fused rollback counter a count of 8 bits (R388). -/
def Obligations.StepKeepsInv : Prop := ∀ s t : State, s.Inv → step s = .next t → t.Inv

/-- R386, R318: the state at reset holds the invariant; nothing is placed, registered or armed, memory lists nothing, the clocks stand at 0 and
ADDEND at the nominal rate.
The model's own choices in it: log 20, 29. -/
def Obligations.ResetState : Prop := State.reset.Inv ∧ State.reset.all = [] ∧ State.reset.mem = [] ∧ State.reset.lines = [] ∧
  State.reset.scc = 0 ∧ State.reset.ptpNs = 0 ∧ State.reset.ptpFrac = 0 ∧ State.reset.addend = 0xF3CF3CF4 ∧ State.reset.lock = false ∧
  State.reset.capture = 0 ∧ State.reset.armed = [] ∧ State.reset.controller = {} ∧ (∀ a, a < slowBase → State.reset.byte a = 0) ∧
  (∀ d, d < 4 → (State.reset.disp d).map = [0, 1, 2, 3, 4, 5, 6, 7] ∧ (State.reset.disp d).age = 1048576 ∧ (State.reset.disp d).cap = 6) ∧
  (∀ k, k < 8 → (State.reset.stack k).scrub = 24 ∧ (State.reset.stack k).swapth = 2048 ∧ (State.reset.stack k).left = 32)

/-- A step runs the decoded instruction. With no armed count due and no turn standing next, a strand that may issue runs the scalar word
that its program counter fetches, or, while a block is queued, the vector word its sequencer stands at, a convoy of several words issuing and retiring; an event whose turn stands
next takes place. After it the clocks move on (R318), and of the rest only what passes with time. A fetch leaves its line in the
instruction cache and its translation in a TLB.
The model's own choices in it: log 1, 2, 7, 8. -/
def Obligations.StepRunsDecoded : Prop := ∀ s : State, (∀ e ∈ s.armed, s.due e = false) →
  (∀ (n : Nat) (i : Instr), s.agenda = [] → s.runs = true → s.me.queue = [] ∨ s.me.parked = .vwait →
    s.fetch s.me.core s.me.ptroot s.me.pc 4 = .ok n → decodeScalar (BitVec.ofNat 32 n) = .ok i →
    step s = afterStep (exec i (s.fetched s.me.pc))) ∧
  (∀ (n : Nat) (i : Instr), s.agenda = [] → s.runs = true → s.me.queue ≠ [] → s.me.parked ≠ .vwait → s.me.issued = none →
    s.fetch s.me.core s.me.ptroot s.vctx.addr 8 = .ok n → decodeVector (BitVec.ofNat 64 n) = .ok i → isLast i = true →
    step s = afterStep (exec i (s.fetched s.vctx.addr))) ∧
  (∀ (e : Instr) (ts : List Turn), s.agenda = .event e :: ts → isEvent e = true → ownEvent e = false ∨ s.runs = true →
    step s = afterStep (exec e { s with agenda := ts })) ∧
  (s.agenda = [] → s.runs = false → s.me.queue = [] → step s = afterStep (.next s)) ∧
  (∀ (n : Nat) (i : Instr), s.agenda = [] → s.runs = true → s.me.queue ≠ [] → s.me.parked ≠ .vwait → s.me.issued = none →
    s.fetch s.me.core s.me.ptroot s.vctx.addr 8 = .ok n → decodeVector (BitVec.ofNat 64 n) = .ok i → isLast i = false →
    ∃ u, exec .convoyIssue (s.fetched s.vctx.addr) = .next u ∧ step s = afterStep (exec .convoyRetire u)) ∧
  (s.agenda = [] → s.runs = true → s.me.queue ≠ [] → s.me.parked ≠ .vwait → s.me.issued ≠ none →
    step s = afterStep (exec .convoyRetire s)) ∧
  (∀ va, ∃ tlb cores out, s.fetched va = { s with tlb := tlb, cores := cores, out := out } ∧
    (out = s.out ∨ ∃ line, out = s.out ++ [.cxl .rdCurr line]) ∧
    ∀ k, (s.fetched va).core k = { s.core k with icache := ((s.fetched va).core k).icache }) ∧
  (afterStep (.next s) = .next s.tick ∧ ∃ n, 1 ≤ n ∧ s.tick.scc = s.scc + BitVec.ofNat 64 n ∧
    s.tick.ptpNs.toNat * 2 ^ 32 + s.tick.ptpFrac.toNat =
      (s.ptpNs.toNat * 2 ^ 32 + s.ptpFrac.toNat + n * s.addend.toNat) % 2 ^ 96 ∧
    s.tick.mem = s.mem ∧ s.tick.lines = s.lines ∧ s.tick.cores = s.cores ∧ s.tick.tlb = s.tlb ∧
    s.tick.me = { s.me with left := s.tick.me.left } ∧ s.tick.strands.length = s.strands.length ∧
    s.tick.logs = s.logs ∧ s.tick.windows = s.windows ∧ s.tick.agenda = s.agenda)

/-- Words written out from the spec's encodings decode to what they stand for: R11, R81, R101, R186, R391 for scalar words, R68, R122, R129,
R132, R173 for vector words. -/
def Obligations.DecodeWords : Prop :=
  decodeScalar 0x7015B0ED = .ok (.amoadd 0 21 22 3 false true 5) ∧
  decodeScalar 0xC134B803 = .ok (.launch 9 20 23) ∧
  decodeScalar 0xEC090204 = .ok (.crwr 9 0x0204) ∧
  decodeVector 0xC404083008800000 = .ok (.vadd ⟨true, true, 4, 2, 3, 0, 4, 8, 0, 0, 0⟩) ∧
  decodeVector 0x9189080014000000 = .ok (.vfredsum ⟨true, false, 9, 2, 0, 0, 10, 0, 0, 0, 0⟩) ∧
  decodeVector 0x948810918A000000 = .ok (.vroute ⟨true, false, 8, 4, 9, 6, 5, 0, 0, 0, 0⟩) ∧
  decodeVector 0xB0C120601201809F = .ok (.brtopadd ⟨true, false, 1, 8, 6, 0, 9, 0, 0, 6, 0x9F⟩)

/-- R92, R93: what every word on scalar registers writes, the two-register forms and the immediate forms. -/
def Obligations.RegisterResults : Prop := AluResults ∧ ImmediateResults

/-- R96, R226: a scalar store enters the store buffer, and leaves it at the line where its chain ends. -/
def Obligations.StoreResults : Prop := StoreWordResults ∧ StoreLeavesItsQueue

/-- R100 to R102, R112: the scalar atomics and CLAIM. -/
def Obligations.AtomicResults : Prop := AtomicWordResults ∧ ClaimResult

/-- R99, R109 to R111: the fences and ADDR.EQ. -/
def Obligations.FenceAndCompareResults : Prop := FenceResults ∧ AddrEqResult

/-- R97, R98, R108: branches, jumps and VFETCH. -/
def Obligations.ControlFlowResults : Prop := BranchAndJumpResults ∧ FetchResult

/-- R32, R103 to R106: SETVL, VCONF, STRIP and VWHILE. -/
def Obligations.ShapeAndLoopResults : Prop := ShapeResults ∧ StripResult ∧ WhileResult

/-- R36 to R43, R203, R300, R364: CRRD and CRWR of every selector. -/
def Obligations.ControlRegisterResults : Prop := ControlRegistersRead ∧ ControlRegistersWritten

/-- R35, R299, R300: core units are granted with zero contents and released by a write to UNITS. -/
def Obligations.UnitsHeld : Prop := UnitsGranted ∧ UnitsReleased

/-- R198, R199, R201, R240, R310: TIMERD, TICKWAIT, and the cuts of STOPAT. -/
def Obligations.TimeAndCutResults : Prop := TimeResults ∧ CutResults

/-- R121, R122: the integer words on elements, wrapping, saturating and modular. -/
def Obligations.VectorIntegerResults : Prop := VectorIntegerWordResults ∧ VectorSaturatingAndModularResults

/-- R128 to R131: the reductions, the words on mask bits, compress and expand. -/
def Obligations.ReductionAndScanResults : Prop := ReductionResults ∧ MaskScanResults

/-- R132, R133, R194: VLUT, VPERM, the slides and VROUTE. -/
def Obligations.LookupSlideAndRouteResults : Prop := LookupAndSlideResults ∧ RouteResult

/-- R134 to R145: the vector loads, segments among them. -/
def Obligations.VectorLoadResults : Prop := VectorLoadWordResults ∧ SegmentLoadResult

/-- R152, R153: VWAIT and VPGALLOC. -/
def Obligations.VectorWaitAndPageResults : Prop := VectorWaitResults ∧ PageGrantResult

/-- R188 to R190: the copy engines' commands and the elements that their records name. -/
def Obligations.CopyEngineResults : Prop := CopyCommandResults ∧ CopyElementsOfRecords

/-- R195 to R197: the tickets of collectives and what a collective writes. -/
def Obligations.CollectiveResults : Prop := CollectiveTickets ∧ CollectiveResult

/-- R321 to R329: windows and token records, and the firings of tick launches. -/
def Obligations.WindowAndFiringResults : Prop := WindowResults ∧ FiringResults

/-- R381 to R385: the hawser ports, and modules that can't be reached. -/
def Obligations.HawserResults : Prop := HawserPortResults ∧ UnreachableModuleResults

/-- R155, R157, R254 to R261: TMOVE and its commit, TREL and TREL.Z. -/
def Obligations.MoveAndReleaseResults : Prop := MoveResults ∧ ReleaseResults

/-- R338 to R340, R378 to R380: accesses by the host and by other modules, snoops and the slow tier. -/
def Obligations.OutsideAccessResults : Prop := HostAccessResults ∧ RemoteAccessResults

/-- R203, R292, R303, R318, R319, R331, R359, R376, R392: what firmware writes and registers. -/
def Obligations.FirmwareRegistrationResults : Prop := FirmwareWriteResults ∧ RebindResults

/-- R184 to R186: EXIT, BARRIER and LAUNCH. -/
def Obligations.EndBarrierAndLaunchResults : Prop := EndAndBarrierResults ∧ LaunchResult

/-- R171 to R174: BRTOPADD and the events of an epoch. -/
def Obligations.BraidEpochResults : Prop := BraidProductResult ∧ EpochResults

/-- R80, R107, R210, R214, R228: convoys issue and retire whole, and reading early changes nothing that a program sees. -/
def Obligations.ConvoyResults : Prop := ConvoyWordResults ∧ EarlyReadsAreInvisible
end

