-- ==== Sys2Proof/Laws/Memory.lean ====
section
/-! SUPPORT. The laws of memory: reading after writing, and that every operation on an image keeps its canonical form. -/
namespace Sys2Proof.Machine

/-! ## Reading after writing -/

theorem imgGet_filter_ne (m : Image) (a b : Nat) :
    imgGet (m.filter fun p => p.1 ≠ a) b = if b = a then 0 else imgGet m b := by
  induction m with
  | nil => simp [imgGet]
  | cons p m ih =>
    obtain ⟨k, v⟩ := p
    by_cases hk : k = a
    · rw [List.filter_cons_of_neg (by simp [hk]), ih]
      by_cases hb : b = a
      · simp [hb]
      · have : k ≠ b := by omega
        simp [hb, imgGet, this]
    · rw [List.filter_cons_of_pos (by simp [hk])]
      by_cases hkb : k = b
      · have : b ≠ a := by omega
        simp [imgGet, hkb, this]
      · simpa [imgGet, hkb] using ih

theorem imgGet_imgAdd (m : Image) (a : Nat) (v : Byte) (b : Nat) :
    imgGet (imgAdd m a v) b = if b = a then v else imgGet m b := by
  induction m with
  | nil =>
    by_cases h : a = b
    · simp [imgAdd, imgGet, h]
    · simp [imgAdd, imgGet, h, Ne.symm h]
  | cons p m ih =>
    obtain ⟨k, w⟩ := p
    unfold imgAdd
    split
    · by_cases h : a = b
      · simp [imgGet, h]
      · simp [imgGet, h, Ne.symm h]
    · split
      · rename_i h
        subst h
        by_cases h : a = b
        · simp [imgGet, h]
        · simp [imgGet, h, Ne.symm h]
      · by_cases h : k = b
        · have : b ≠ a := by omega
          simp [imgGet, h, this]
        · simpa [imgGet, h] using ih

/-- A byte of an image after one byte was written. -/
theorem imgGet_imgSet (m : Image) (a : Nat) (v : Byte) (b : Nat) :
    imgGet (imgSet m a v) b = if b = a then v else imgGet m b := by
  unfold imgSet
  split
  · rename_i h
    rw [imgGet_filter_ne, h]
  · exact imgGet_imgAdd m a v b

/-- A byte of an image after bytes were written. -/
theorem imgGet_imgPut (bs : List Byte) : ∀ (m : Image) (a b : Nat),
    imgGet (imgPut m a bs) b = if h : a ≤ b ∧ b < a + bs.length then bs[b - a]'(by omega) else imgGet m b := by
  induction bs with
  | nil => intro m a b; rw [dif_neg (by simp)]; rfl
  | cons x bs ih =>
    intro m a b
    rw [imgPut, ih, imgGet_imgSet]
    by_cases h1 : b = a
    · subst h1
      rw [dif_neg (by omega), dif_pos (by simp)]
      simp
    · by_cases h2 : a + 1 ≤ b ∧ b < a + 1 + bs.length
      · rw [dif_pos h2, dif_pos (by simp only [List.length_cons]; omega)]
        have : b - a = (b - (a + 1)) + 1 := by omega
        simp [this]
      · rw [dif_neg h2, dif_neg (by simp only [List.length_cons]; omega)]
        simp [h1]

/-- Writing bytes leaves every index outside them. -/
theorem imgGet_imgPut_other (m : Image) (a b : Nat) (bs : List Byte) (h : b < a ∨ a + bs.length ≤ b) :
    imgGet (imgPut m a bs) b = imgGet m b := by
  rw [imgGet_imgPut, dif_neg (by omega)]

theorem leBytes_length (n : Nat) : ∀ v, (leBytes n v).length = n := by
  induction n with
  | zero => intro v; rfl
  | succ n ih => intro v; simp [leBytes, ih]

theorem leNat_leBytes (n : Nat) : ∀ v, leNat (leBytes n v) = v % 256 ^ n := by
  induction n with
  | zero => intro v; simp [leBytes, leNat, Nat.mod_one]
  | succ n ih =>
    intro v
    simp only [leBytes, leNat, ih, BitVec.toNat_ofNat, Nat.reducePow]
    have h := Nat.mod_mul (x := v) (a := 256) (b := 256 ^ n)
    rw [show (256 : Nat) ^ (n + 1) = 256 * 256 ^ n by rw [Nat.pow_succ]; ring]
    omega

theorem leNat_lt (bs : List Byte) : leNat bs < 256 ^ bs.length := by
  induction bs with
  | nil => simp [leNat]
  | cons b bs ih =>
    have : b.toNat < 256 := b.isLt
    simp only [leNat, List.length_cons, Nat.pow_succ]
    omega

/-- Reading back a number that was written. -/
theorem imgNat_imgPut (m : Image) (a n v : Nat) : imgNat (imgPut m a (leBytes n v)) a n = v % 256 ^ n := by
  unfold imgNat imgBytes
  have : (List.range n).map (fun j => imgGet (imgPut m a (leBytes n v)) (a + j)) = leBytes n v := by
    apply List.ext_getElem
    · simp [leBytes_length]
    · intro j h1 h2
      have hl := leBytes_length n v
      simp only [List.length_map, List.length_range] at h1
      rw [List.getElem_map, List.getElem_range, imgGet_imgPut, dif_pos (by rw [hl]; omega)]
      simp
  rw [this, leNat_leBytes]

/-- Numbers that lie outside the bytes written. -/
theorem imgNat_imgPut_other (m : Image) (a : Nat) (bs : List Byte) (b n : Nat)
    (h : b + n ≤ a ∨ a + bs.length ≤ b) : imgNat (imgPut m a bs) b n = imgNat m b n := by
  unfold imgNat imgBytes
  congr 1
  apply List.map_congr_left
  intro j hj
  rw [List.mem_range] at hj
  exact imgGet_imgPut_other m a (b + j) bs (by omega)

/-! ## The canonical form -/

theorem imgFrom_mono {m : Image} {n k : Nat} (h : imgFrom n m = true) (hk : k ≤ n) : imgFrom k m = true := by
  cases m with
  | nil => rfl
  | cons p m =>
    simp only [imgFrom, Bool.and_eq_true, decide_eq_true_eq] at h ⊢
    exact ⟨⟨by omega, h.1.2⟩, h.2⟩

theorem imgFrom_filter (p : Nat × Byte → Bool) : ∀ (m : Image) (n : Nat), imgFrom n m = true → imgFrom n (m.filter p) = true := by
  intro m
  induction m with
  | nil => intro n _; rfl
  | cons q m ih =>
    intro n h
    simp only [imgFrom, Bool.and_eq_true, decide_eq_true_eq] at h
    by_cases hp : p q = true
    · rw [List.filter_cons_of_pos hp]
      simp only [imgFrom, Bool.and_eq_true, decide_eq_true_eq]
      exact ⟨h.1, ih _ h.2⟩
    · rw [List.filter_cons_of_neg hp]
      exact imgFrom_mono (ih _ h.2) (by omega)

theorem imgFrom_imgAdd {a : Nat} {v : Byte} (hv : v ≠ 0) :
    ∀ (m : Image) (n : Nat), n ≤ a → imgFrom n m = true → imgFrom n (imgAdd m a v) = true := by
  intro m
  induction m with
  | nil => intro n hn _; simp only [imgAdd, imgFrom, Bool.and_eq_true, decide_eq_true_eq]; exact ⟨⟨hn, hv⟩, trivial⟩
  | cons p m ih =>
    obtain ⟨k, w⟩ := p
    intro n hn h
    simp only [imgFrom, Bool.and_eq_true, decide_eq_true_eq] at h
    unfold imgAdd
    split
    · simp only [imgFrom, Bool.and_eq_true, decide_eq_true_eq]
      exact ⟨⟨hn, hv⟩, ⟨by omega, h.1.2⟩, h.2⟩
    · split
      · simp only [imgFrom, Bool.and_eq_true, decide_eq_true_eq]
        exact ⟨⟨h.1.1, hv⟩, h.2⟩
      · simp only [imgFrom, Bool.and_eq_true, decide_eq_true_eq]
        exact ⟨h.1, ih _ (by omega) h.2⟩

theorem wf_nil : Memory.wf [] = true := rfl

theorem wf_filter {m : Image} (h : Memory.wf m = true) (p : Nat × Byte → Bool) : Memory.wf (m.filter p) = true :=
  imgFrom_filter p m 0 h

theorem wf_imgSet {m : Image} (h : Memory.wf m = true) (a : Nat) (v : Byte) : Memory.wf (imgSet m a v) = true := by
  unfold imgSet
  split
  · exact wf_filter h _
  · rename_i hv
    exact imgFrom_imgAdd hv m 0 (Nat.zero_le a) h

theorem wf_imgPut {m : Image} (h : Memory.wf m = true) (a : Nat) (bs : List Byte) : Memory.wf (imgPut m a bs) = true := by
  induction bs generalizing m a with
  | nil => exact h
  | cons b bs ih => exact ih (wf_imgSet h a b) (a + 1)

theorem wf_imgClear {m : Image} (h : Memory.wf m = true) (a b : Nat) : Memory.wf (imgClear m a b) = true := wf_filter h _

/-- In canonical form equal contents are equal lists. -/
theorem imgGet_zero_of_imgFrom {m : Image} {n a : Nat} (h : imgFrom n m = true) (ha : a < n) : imgGet m a = 0 := by
  induction m generalizing n with
  | nil => rfl
  | cons p m ih =>
    obtain ⟨k, v⟩ := p
    simp only [imgFrom, Bool.and_eq_true, decide_eq_true_eq] at h
    have : k ≠ a := by omega
    simpa [imgGet, this] using ih h.2 (by omega)

theorem imgFrom_ext : ∀ {m m' : Image} {n : Nat}, imgFrom n m = true → imgFrom n m' = true →
    (∀ a, imgGet m a = imgGet m' a) → m = m' := by
  intro m
  induction m with
  | nil =>
    intro m' n _ h' he
    cases m' with
    | nil => rfl
    | cons p m' =>
      obtain ⟨k, v⟩ := p
      simp only [imgFrom, Bool.and_eq_true, decide_eq_true_eq] at h'
      have := he k
      simp [imgGet] at this
      exact absurd this.symm h'.1.2
  | cons p m ih =>
    obtain ⟨k, v⟩ := p
    intro m' n h h' he
    simp only [imgFrom, Bool.and_eq_true, decide_eq_true_eq] at h
    cases m' with
    | nil =>
      have := he k
      simp [imgGet] at this
      exact absurd this h.1.2
    | cons p' m' =>
      obtain ⟨k', v'⟩ := p'
      simp only [imgFrom, Bool.and_eq_true, decide_eq_true_eq] at h'
      have hk : k = k' := by
        by_contra hne
        rcases Nat.lt_or_ge k k' with hlt | hge
        · have := he k
          have hk' : k' ≠ k := by omega
          simp only [imgGet, if_true, hk', if_false] at this
          rw [imgGet_zero_of_imgFrom h'.2 (by omega)] at this
          exact h.1.2 this
        · have := he k'
          simp only [imgGet, if_true, hne, if_false] at this
          rw [imgGet_zero_of_imgFrom h.2 (by omega)] at this
          exact h'.1.2 this.symm
      subst hk
      have hv : v = v' := by simpa [imgGet] using he k
      subst hv
      congr 1
      refine ih h.2 h'.2 fun a => ?_
      by_cases ha : k = a
      · rw [imgGet_zero_of_imgFrom h.2 (by omega), imgGet_zero_of_imgFrom h'.2 (by omega)]
      · simpa [imgGet, ha] using he a

/-- Two images in canonical form with the same bytes are the same list. -/
theorem wf_ext {m m' : Image} (h : Memory.wf m = true) (h' : Memory.wf m' = true)
    (he : ∀ a, imgGet m a = imgGet m' a) : m = m' := imgFrom_ext h h' he

/-! ## Association lists -/

theorem assocGet_assocSet {α : Type} (d : α) (l : List (Nat × α)) (n k : Nat) (x : α) :
    assocGet d (assocSet l n x) k = if k = n then x else assocGet d l k := by
  induction l with
  | nil =>
    by_cases h : n = k
    · simp [assocSet, assocGet, h]
    · simp [assocSet, assocGet, h, Ne.symm h]
  | cons p l ih =>
    obtain ⟨j, y⟩ := p
    unfold assocSet
    split
    · by_cases h : n = k
      · simp [assocGet, h]
      · simp [assocGet, h, Ne.symm h]
    · split
      · rename_i h
        subst h
        by_cases h : n = k
        · simp [assocGet, h]
        · simp [assocGet, h, Ne.symm h]
      · by_cases h : j = k
        · have : k ≠ n := by omega
          simp [assocGet, h, this]
        · simpa [assocGet, h] using ih

/-! ## The memory of the module -/

theorem byte_setByte (s : State) (pa q : Nat) (v : Byte) :
    (s.setByte pa v).byte q = if s.canon q = s.canon pa then v else s.byte q := by
  have hc : (s.setByte pa v).canon q = s.canon q := rfl
  unfold State.byte
  rw [hc]
  simp only [State.setByte, imgGet_imgSet]
  split
  · rename_i h; rw [h, BitVec.xor_assoc, BitVec.xor_self, BitVec.xor_zero]
  · rfl

@[simp] theorem setByte_canon (s : State) (pa q : Nat) (v : Byte) : (s.setByte pa v).canon q = s.canon q := rfl
@[simp] theorem setByte_region (s : State) (pa q : Nat) (v : Byte) : (s.setByte pa v).region q = s.region q := rfl

/-- What `putBytes` writes is memory and nothing else. -/
theorem putBytes_eq (bs : List Byte) : ∀ (s : State) (pa : Nat), s.putBytes pa bs = { s with mem := (s.putBytes pa bs).mem } := by
  induction bs with
  | nil => intro s pa; rfl
  | cons b bs ih =>
    intro s pa
    simp only [State.putBytes]
    rw [ih]
    rfl

@[simp] theorem putBytes_canon (s : State) (pa q : Nat) (bs : List Byte) : (s.putBytes pa bs).canon q = s.canon q := by
  rw [putBytes_eq]; rfl

/-- A byte outside those that were written. -/
theorem byte_putBytes_out (bs : List Byte) : ∀ (s : State) (pa q : Nat),
    (∀ j, j < bs.length → s.canon (pa + j) = pa + j) → (s.canon q < pa ∨ pa + bs.length ≤ s.canon q) →
    (s.putBytes pa bs).byte q = s.byte q := by
  induction bs with
  | nil => intro s pa q _ _; rfl
  | cons b bs ih =>
    intro s pa q hc hq
    have h0 : s.canon pa = pa := hc 0 (Nat.succ_pos _)
    have hs : ∀ j, j < bs.length → (s.setByte pa b).canon (pa + 1 + j) = pa + 1 + j := by
      intro j hj
      rw [setByte_canon, Nat.add_assoc, Nat.add_comm 1 j]
      exact hc (j + 1) (Nat.succ_lt_succ hj)
    rw [List.length_cons] at hq
    rw [State.putBytes, ih _ _ _ hs (by rw [setByte_canon]; omega), byte_setByte, h0, if_neg (by omega)]

/-- A byte that was written; `pa` names the bytes locally. -/
theorem byte_putBytes_in (bs : List Byte) : ∀ (s : State) (pa q k : Nat) (hk : k < bs.length),
    (∀ j, j < bs.length → s.canon (pa + j) = pa + j) → s.canon q = pa + k → (s.putBytes pa bs).byte q = bs[k] := by
  induction bs with
  | nil => intro s pa q k hk; simp at hk
  | cons b bs ih =>
    intro s pa q k hk hc hq
    have h0 : s.canon pa = pa := hc 0 (Nat.succ_pos _)
    have hs : ∀ j, j < bs.length → (s.setByte pa b).canon (pa + 1 + j) = pa + 1 + j := by
      intro j hj
      rw [setByte_canon, Nat.add_assoc, Nat.add_comm 1 j]
      exact hc (j + 1) (Nat.succ_lt_succ hj)
    rw [State.putBytes]
    cases k with
    | zero =>
      rw [byte_putBytes_out bs _ _ _ hs (by rw [setByte_canon, hq]; omega), byte_setByte, h0, hq, if_pos (Nat.add_zero pa)]
      rfl
    | succ k =>
      rw [ih (s.setByte pa b) (pa + 1) q k (Nat.lt_of_succ_lt_succ hk) hs (by rw [setByte_canon, hq]; omega)]
      rfl

/-! ## Every memory operation keeps the canonical form -/

theorem wf_setByte {s : State} (h : Memory.wf s.mem = true) (pa : Nat) (v : Byte) : Memory.wf (s.setByte pa v).mem = true :=
  wf_imgSet h _ _

theorem wf_putBytes (bs : List Byte) : ∀ {s : State} (_ : Memory.wf s.mem = true) (pa : Nat),
    Memory.wf (s.putBytes pa bs).mem = true := by
  induction bs with
  | nil => intro s h pa; exact h
  | cons b bs ih => intro s h pa; exact ih (wf_setByte h pa b) (pa + 1)

@[simp] theorem setMeta_mem (s : State) (pa : Nat) (m : LineMeta) : (s.setMeta pa m).mem = s.mem := by
  unfold State.setMeta; split <;> rfl
@[simp] theorem setPoison_mem (s : State) (pa : Nat) (p : Bool) : (s.setPoison pa p).mem = s.mem := setMeta_mem s pa _
@[simp] theorem snoop_mem (s : State) (l : Nat) : (s.snoop l).mem = s.mem := by
  unfold State.snoop; simp only; split <;> rfl
@[simp] theorem dropStream_mem (s : State) (l : Nat) : (s.dropStream l).mem = s.mem := rfl
@[simp] theorem setCore_mem (s : State) (n : Nat) (c : Core) : (s.setCore n c).mem = s.mem := rfl
@[simp] theorem cacheWrite_mem (s : State) (o : Origin) (pa n : Nat) : (s.cacheWrite o pa n).mem = s.mem := rfl
@[simp] theorem holdAt_mem (s : State) (pa c : Nat) (e : StoreEntry) : (s.holdAt pa c e).mem = s.mem := rfl
@[simp] theorem holdAtPort_mem (s : State) (m pa : Nat) (bs : List (Byte × Byte)) (heal : Bool) (o : Origin) :
    (s.holdAtPort m pa bs heal o).mem = s.mem := rfl
@[simp] theorem markPassing_mem (s : State) (l : Nat) : (s.markPassing l).mem = s.mem := rfl
@[simp] theorem request_mem (s : State) (op : CxlOp) (pa : Nat) : (s.request op pa).mem = s.mem := by
  unfold State.request; split <;> rfl
@[simp] theorem answer_mem (s : State) (o : Origin) : (s.answer o).mem = s.mem := by
  unfold State.answer; repeat' (split <;> try rfl)

theorem wf_performByte {s : State} (h : Memory.wf s.mem = true) (pa : Nat) (v mask : Byte) :
    Memory.wf (s.performByte pa v mask).mem = true := by
  unfold State.performByte
  split
  · exact h
  · dsimp only
    exact wf_setByte h _ _

theorem wf_performBytes (bs : List (Byte × Byte)) : ∀ {s : State} (_ : Memory.wf s.mem = true) (pa : Nat),
    Memory.wf (s.performBytes pa bs).mem = true := by
  induction bs with
  | nil => intro s h pa; exact h
  | cons b bs ih => intro s h pa; exact ih (wf_performByte h pa b.1 b.2) (pa + 1)

theorem wf_foldl {α : Type} (f : State → α → State) (hf : ∀ s a, Memory.wf s.mem = true → Memory.wf (f s a).mem = true)
    (l : List α) : ∀ {s : State} (_ : Memory.wf s.mem = true), Memory.wf (l.foldl f s).mem = true := by
  induction l with
  | nil => intro s h; exact h
  | cons a l ih => intro s h; exact ih (hf s a h)

theorem wf_landAt {s : State} (h : Memory.wf s.mem = true) (pa : Nat) (bs : List (Byte × Byte)) (heal : Bool) (o : Origin) :
    Memory.wf (s.landAt pa bs heal o).mem = true := by
  have hs : Memory.wf (s.snoop (lineOf pa)).mem = true := by rw [snoop_mem]; exact h
  have ht : Memory.wf (if o.path = hwPath then (s.snoop (lineOf pa)).putBytes pa (bs.map (·.1))
      else (s.snoop (lineOf pa)).performBytes pa bs).mem = true := by
    split
    · exact wf_putBytes _ hs pa
    · exact wf_performBytes bs hs pa
  unfold State.landAt
  simp only
  split
  · rw [setPoison_mem, cacheWrite_mem, dropStream_mem]; exact ht
  · rw [cacheWrite_mem, dropStream_mem]; exact ht

theorem wf_performAt {s : State} (h : Memory.wf s.mem = true) (pa : Nat) (bs : List (Byte × Byte)) (heal : Bool) (o : Origin) :
    Memory.wf (s.performAt pa bs heal o).mem = true := by
  unfold State.performAt
  split
  · split
    · rw [answer_mem]; exact wf_landAt h _ _ _ _
    · split
      · rw [answer_mem]; exact h
      · exact h
  · rw [answer_mem]; exact wf_landAt h _ _ _ _

@[simp] theorem sendSlow_mem (s : State) (pa : Nat) (bs : List (Byte × Byte)) (heal : Bool) (o : Origin) :
    (s.sendSlow pa bs heal o).mem = s.mem := by
  unfold State.sendSlow
  simp only
  split
  · rw [holdAtPort_mem, request_mem, holdAtPort_mem, request_mem]
  · rw [holdAtPort_mem, request_mem]

theorem wf_sendStore {s : State} (h : Memory.wf s.mem = true) (pa : Nat) (bs : List (Byte × Byte)) (heal : Bool) (o : Origin) :
    Memory.wf (s.sendStore pa bs heal o).mem = true := by
  unfold State.sendStore
  split
  · rw [sendSlow_mem]; exact h
  · exact wf_performAt h _ _ _ _

theorem wf_arriveAt {s : State} (h : Memory.wf s.mem = true) (pa : Nat) (bs : List (Byte × Byte)) (heal : Bool) (o : Origin) :
    Memory.wf (s.arriveAt pa bs heal o).mem = true := by
  unfold State.arriveAt
  simp only
  split
  · exact h
  · exact wf_sendStore h _ _ _ _
  · rw [answer_mem]; exact h

theorem wf_performHeld (hs : List HeldWrite) : ∀ {s : State} (_ : Memory.wf s.mem = true),
    Memory.wf (s.performHeld hs).mem = true := by
  induction hs with
  | nil => intro s h; exact h
  | cons w hs ih => intro s h; exact ih (wf_arriveAt h _ _ _ _)

theorem wf_landCopy {s : State} (h : Memory.wf s.mem = true) (dest : Nat) (data : List Byte) (p : Bool) :
    Memory.wf (s.landCopy dest data p).mem = true := by
  unfold State.landCopy
  split
  · split
    · exact h
    · rw [setPoison_mem]; exact wf_landAt h _ _ _ _
  · split
    · rw [setPoison_mem]; exact h
    · exact h
  · rw [setPoison_mem]; exact wf_landAt h _ _ _ _

@[simp] theorem dropCached_mem (s : State) (l : Nat) : (s.dropCached l).mem = s.mem := rfl

theorem wf_leaveTether {s : State} (h : Memory.wf s.mem = true) (l d : Nat) : Memory.wf (s.leaveTether l d).mem = true := by
  unfold State.leaveTether
  simp only
  rw [setMeta_mem, dropCached_mem, dropStream_mem]
  exact wf_putBytes _ h _

theorem wf_finishMove {s : State} (h : Memory.wf s.mem = true) (m : Move) : Memory.wf (s.finishMove m).mem = true := by
  unfold State.finishMove
  simp only
  apply wf_performHeld
  rw [answer_mem]
  dsimp only
  rw [dropCached_mem]
  exact wf_leaveTether (wf_landCopy (by rw [markPassing_mem]; exact h) _ _ _) _ _

@[simp] theorem sendCopy_mem (s : State) (m : Move) : (s.sendCopy m).mem = s.mem := by
  unfold State.sendCopy
  simp only
  rw [sendSlow_mem]

theorem wf_commitMove {s : State} (h : Memory.wf s.mem = true) (m : Move) : Memory.wf (s.commitMove m).mem = true := by
  unfold State.commitMove
  split
  · exact h
  · split
    · split
      · rw [sendCopy_mem]; exact h
      · split
        · exact h
        · exact wf_finishMove h _
    · exact wf_finishMove h _

theorem wf_settleLine {s : State} (h : Memory.wf s.mem = true) (l : Nat) : Memory.wf (s.settleLine l).mem = true := by
  unfold State.settleLine
  split
  · exact h
  · simp only
    split
    · exact wf_commitMove (wf_foldl _ (fun _ _ h => wf_commitMove h _) _ h) _
    · exact wf_foldl _ (fun _ _ h => wf_commitMove h _) _ h

theorem wf_settleGo (n : Nat) : ∀ {s : State} (_ : Memory.wf s.mem = true) (pa : Nat),
    Memory.wf (State.settleGo n s pa).1.mem = true := by
  induction n with
  | zero => intro s h pa; exact h
  | succ n ih =>
    intro s h pa
    unfold State.settleGo
    simp only
    split
    · exact ih (wf_settleLine h _) _
    · exact h

theorem wf_sendNow {s : State} (h : Memory.wf s.mem = true) (pa : Nat) (bs : List (Byte × Byte)) (heal : Bool) (o : Origin) :
    Memory.wf (s.sendNow pa bs heal o).mem = true := by
  have hs : Memory.wf (s.settle pa).1.mem = true := wf_settleGo _ h pa
  unfold State.sendNow
  generalize s.settle pa = r at hs ⊢
  exact wf_arriveAt hs _ _ _ _

theorem wf_performAtomic {s : State} (h : Memory.wf s.mem = true) (pa : Nat) (bs : List (Byte × Byte)) (o : Origin) :
    Memory.wf (s.performAtomic pa bs o).mem = true := by
  unfold State.performAtomic
  rw [request_mem]
  exact wf_performAt (by rw [request_mem]; exact h) _ _ _ _

theorem wf_hwLine {s : State} (h : Memory.wf s.mem = true) (pa : Nat) (bs : List Byte) :
    Memory.wf (s.hwLine pa bs).mem = true := by
  unfold State.hwLine
  split
  · exact h
  · split
    · exact h
    · exact wf_sendNow h _ _ _ _

/-- The same where a test decides whether the line is written. -/
theorem wf_hwLine_if {s : State} (h : Memory.wf s.mem = true) (c : Prop) [Decidable c] (pa : Nat) (bs : List Byte) :
    Memory.wf (if c then s.hwLine pa bs else s).mem = true := by
  split
  · exact wf_hwLine h _ _
  · exact h

theorem wf_hwWrite {s : State} (h : Memory.wf s.mem = true) (pa : Nat) (bs : List Byte) :
    Memory.wf (s.hwWrite pa bs).mem = true :=
  wf_hwLine_if (wf_hwLine_if (wf_hwLine h _ _) _ _ _) _ _ _

theorem wf_leave {s : State} (h : Memory.wf s.mem = true) (c : Nat) (e : StoreEntry) (rest : List StoreEntry) :
    Memory.wf (s.leave c e rest).mem = true := by
  unfold State.leave
  simp only
  split
  · exact wf_sendNow h _ _ _ _
  · split
    · exact h
    · exact wf_arriveAt h _ _ _ _

@[simp] theorem requeue_mem (s : State) (c : Nat) (kept : List StoreEntry) : (s.requeue c kept).mem = s.mem := by
  unfold State.requeue
  split <;> rfl

theorem wf_performAll (c : Nat) (rest : List StoreEntry) (es : List StoreEntry) : ∀ (kept : List StoreEntry) {s : State}
    (_ : Memory.wf s.mem = true), Memory.wf (s.performAll c rest kept es).mem = true := by
  induction es with
  | nil => intro kept s h; rw [State.performAll, requeue_mem]; exact h
  | cons e es ih =>
    intro kept s h
    rw [State.performAll]
    split
    · exact ih _ h
    · exact ih _ (wf_sendNow h _ _ _ _)

theorem wf_settleHeldGo (c k n : Nat) : ∀ {s : State} (_ : Memory.wf s.mem = true),
    Memory.wf (State.settleHeldGo c k n s).mem = true := by
  induction n with
  | zero => intro s h; exact h
  | succ n ih => intro s h; exact ih (wf_foldl _ (fun _ _ h => wf_settleLine h _) _ h)

theorem wf_settleHeld {s : State} (h : Memory.wf s.mem = true) (c k : Nat) : Memory.wf (s.settleHeld c k).mem = true :=
  wf_settleHeldGo c k _ h

theorem wf_drainSbuf {s : State} (h : Memory.wf s.mem = true) (c : Nat) (p : StoreEntry → Bool) :
    Memory.wf (s.drainSbuf c p).mem = true := wf_performAll _ _ _ _ (by simpa using h)

theorem wf_drainSqueue {s : State} (h : Memory.wf s.mem = true) (c : Nat) (p : StoreEntry → Bool) :
    Memory.wf (s.drainSqueue c p).mem = true := wf_performAll _ _ _ _ (by simpa using h)

theorem wf_drainStrand {s : State} (h : Memory.wf s.mem = true) (c k : Nat) : Memory.wf (s.drainStrand c k).mem = true :=
  wf_settleHeld (wf_drainSqueue (wf_drainSbuf h _ _) _ _) _ _

end Sys2Proof.Machine
end

