-- ==== Sys2Proof/Laws/State.lean ====
section
/-! SUPPORT. What each plain update leaves of each field of a state and of a strand: one lemma per field, by computation. -/
namespace Sys2Proof.Machine

/-! ## `State.xset` changes `me` only -/

section
variable (s : State) (d : Reg) (v : Word)
@[simp] theorem State.xset_strands : (s.xset d v).strands = s.strands := rfl
@[simp] theorem State.xset_cores : (s.xset d v).cores = s.cores := rfl
@[simp] theorem State.xset_braids : (s.xset d v).braids = s.braids := rfl
@[simp] theorem State.xset_copyq : (s.xset d v).copyq = s.copyq := rfl
@[simp] theorem State.xset_stackq : (s.xset d v).stackq = s.stackq := rfl
@[simp] theorem State.xset_collectives : (s.xset d v).collectives = s.collectives := rfl
@[simp] theorem State.xset_nextTicket : (s.xset d v).nextTicket = s.nextTicket := rfl
@[simp] theorem State.xset_barriers : (s.xset d v).barriers = s.barriers := rfl
@[simp] theorem State.xset_mem : (s.xset d v).mem = s.mem := rfl
@[simp] theorem State.xset_lines : (s.xset d v).lines = s.lines := rfl
@[simp] theorem State.xset_moves : (s.xset d v).moves = s.moves := rfl
@[simp] theorem State.xset_heldWrites : (s.xset d v).heldWrites = s.heldWrites := rfl
@[simp] theorem State.xset_tlb : (s.xset d v).tlb = s.tlb := rfl
@[simp] theorem State.xset_dispatchers : (s.xset d v).dispatchers = s.dispatchers := rfl
@[simp] theorem State.xset_logs : (s.xset d v).logs = s.logs := rfl
@[simp] theorem State.xset_launches : (s.xset d v).launches = s.launches := rfl
@[simp] theorem State.xset_coreMap : (s.xset d v).coreMap = s.coreMap := rfl
@[simp] theorem State.xset_windows : (s.xset d v).windows = s.windows := rfl
@[simp] theorem State.xset_rings : (s.xset d v).rings = s.rings := rfl
@[simp] theorem State.xset_trapqs : (s.xset d v).trapqs = s.trapqs := rfl
@[simp] theorem State.xset_saveAreas : (s.xset d v).saveAreas = s.saveAreas := rfl
@[simp] theorem State.xset_exportBase : (s.xset d v).exportBase = s.exportBase := rfl
@[simp] theorem State.xset_scc : (s.xset d v).scc = s.scc := rfl
@[simp] theorem State.xset_ptpNs : (s.xset d v).ptpNs = s.ptpNs := rfl
@[simp] theorem State.xset_ptpFrac : (s.xset d v).ptpFrac = s.ptpFrac := rfl
@[simp] theorem State.xset_addend : (s.xset d v).addend = s.addend := rfl
@[simp] theorem State.xset_lock : (s.xset d v).lock = s.lock := rfl
@[simp] theorem State.xset_lockLog : (s.xset d v).lockLog = s.lockLog := rfl
@[simp] theorem State.xset_armed : (s.xset d v).armed = s.armed := rfl
@[simp] theorem State.xset_halts : (s.xset d v).halts = s.halts := rfl
@[simp] theorem State.xset_capture : (s.xset d v).capture = s.capture := rfl
@[simp] theorem State.xset_captureNext : (s.xset d v).captureNext = s.captureNext := rfl
@[simp] theorem State.xset_captureBy : (s.xset d v).captureBy = s.captureBy := rfl
@[simp] theorem State.xset_replayAt : (s.xset d v).replayAt = s.replayAt := rfl
@[simp] theorem State.xset_hbmStacks : (s.xset d v).hbmStacks = s.hbmStacks := rfl
@[simp] theorem State.xset_ports : (s.xset d v).ports = s.ports := rfl
@[simp] theorem State.xset_moduleNo : (s.xset d v).moduleNo = s.moduleNo := rfl
@[simp] theorem State.xset_routes : (s.xset d v).routes = s.routes := rfl
@[simp] theorem State.xset_lost : (s.xset d v).lost = s.lost := rfl
@[simp] theorem State.xset_portHeld : (s.xset d v).portHeld = s.portHeld := rfl
@[simp] theorem State.xset_rasStatus : (s.xset d v).rasStatus = s.rasStatus := rfl
@[simp] theorem State.xset_rasLog : (s.xset d v).rasLog = s.rasLog := rfl
@[simp] theorem State.xset_snoopFilter : (s.xset d v).snoopFilter = s.snoopFilter := rfl
@[simp] theorem State.xset_controller : (s.xset d v).controller = s.controller := rfl
@[simp] theorem State.xset_rollback : (s.xset d v).rollback = s.rollback := rfl
@[simp] theorem State.xset_out : (s.xset d v).out = s.out := rfl
@[simp] theorem State.xset_agenda : (s.xset d v).agenda = s.agenda := rfl
@[simp] theorem State.xset_free : (s.xset d v).free = s.free := rfl
@[simp] theorem State.xset_nextSerial : (s.xset d v).nextSerial = s.nextSerial := rfl
end

/-! ## `State.advance` changes `me` only -/

section
variable (s : State) 
@[simp] theorem State.advance_strands : s.advance.strands = s.strands := rfl
@[simp] theorem State.advance_cores : s.advance.cores = s.cores := rfl
@[simp] theorem State.advance_braids : s.advance.braids = s.braids := rfl
@[simp] theorem State.advance_copyq : s.advance.copyq = s.copyq := rfl
@[simp] theorem State.advance_stackq : s.advance.stackq = s.stackq := rfl
@[simp] theorem State.advance_collectives : s.advance.collectives = s.collectives := rfl
@[simp] theorem State.advance_nextTicket : s.advance.nextTicket = s.nextTicket := rfl
@[simp] theorem State.advance_barriers : s.advance.barriers = s.barriers := rfl
@[simp] theorem State.advance_mem : s.advance.mem = s.mem := rfl
@[simp] theorem State.advance_lines : s.advance.lines = s.lines := rfl
@[simp] theorem State.advance_moves : s.advance.moves = s.moves := rfl
@[simp] theorem State.advance_heldWrites : s.advance.heldWrites = s.heldWrites := rfl
@[simp] theorem State.advance_tlb : s.advance.tlb = s.tlb := rfl
@[simp] theorem State.advance_dispatchers : s.advance.dispatchers = s.dispatchers := rfl
@[simp] theorem State.advance_logs : s.advance.logs = s.logs := rfl
@[simp] theorem State.advance_launches : s.advance.launches = s.launches := rfl
@[simp] theorem State.advance_coreMap : s.advance.coreMap = s.coreMap := rfl
@[simp] theorem State.advance_windows : s.advance.windows = s.windows := rfl
@[simp] theorem State.advance_rings : s.advance.rings = s.rings := rfl
@[simp] theorem State.advance_trapqs : s.advance.trapqs = s.trapqs := rfl
@[simp] theorem State.advance_saveAreas : s.advance.saveAreas = s.saveAreas := rfl
@[simp] theorem State.advance_exportBase : s.advance.exportBase = s.exportBase := rfl
@[simp] theorem State.advance_scc : s.advance.scc = s.scc := rfl
@[simp] theorem State.advance_ptpNs : s.advance.ptpNs = s.ptpNs := rfl
@[simp] theorem State.advance_ptpFrac : s.advance.ptpFrac = s.ptpFrac := rfl
@[simp] theorem State.advance_addend : s.advance.addend = s.addend := rfl
@[simp] theorem State.advance_lock : s.advance.lock = s.lock := rfl
@[simp] theorem State.advance_lockLog : s.advance.lockLog = s.lockLog := rfl
@[simp] theorem State.advance_armed : s.advance.armed = s.armed := rfl
@[simp] theorem State.advance_halts : s.advance.halts = s.halts := rfl
@[simp] theorem State.advance_capture : s.advance.capture = s.capture := rfl
@[simp] theorem State.advance_captureNext : s.advance.captureNext = s.captureNext := rfl
@[simp] theorem State.advance_captureBy : s.advance.captureBy = s.captureBy := rfl
@[simp] theorem State.advance_replayAt : s.advance.replayAt = s.replayAt := rfl
@[simp] theorem State.advance_hbmStacks : s.advance.hbmStacks = s.hbmStacks := rfl
@[simp] theorem State.advance_ports : s.advance.ports = s.ports := rfl
@[simp] theorem State.advance_moduleNo : s.advance.moduleNo = s.moduleNo := rfl
@[simp] theorem State.advance_routes : s.advance.routes = s.routes := rfl
@[simp] theorem State.advance_lost : s.advance.lost = s.lost := rfl
@[simp] theorem State.advance_portHeld : s.advance.portHeld = s.portHeld := rfl
@[simp] theorem State.advance_rasStatus : s.advance.rasStatus = s.rasStatus := rfl
@[simp] theorem State.advance_rasLog : s.advance.rasLog = s.rasLog := rfl
@[simp] theorem State.advance_snoopFilter : s.advance.snoopFilter = s.snoopFilter := rfl
@[simp] theorem State.advance_controller : s.advance.controller = s.controller := rfl
@[simp] theorem State.advance_rollback : s.advance.rollback = s.rollback := rfl
@[simp] theorem State.advance_out : s.advance.out = s.out := rfl
@[simp] theorem State.advance_agenda : s.advance.agenda = s.agenda := rfl
@[simp] theorem State.advance_free : s.advance.free = s.free := rfl
@[simp] theorem State.advance_nextSerial : s.advance.nextSerial = s.nextSerial := rfl
end

/-! ## `State.jump` changes `me` only -/

section
variable (s : State) (p : Word)
@[simp] theorem State.jump_strands : (s.jump p).strands = s.strands := rfl
@[simp] theorem State.jump_cores : (s.jump p).cores = s.cores := rfl
@[simp] theorem State.jump_braids : (s.jump p).braids = s.braids := rfl
@[simp] theorem State.jump_copyq : (s.jump p).copyq = s.copyq := rfl
@[simp] theorem State.jump_stackq : (s.jump p).stackq = s.stackq := rfl
@[simp] theorem State.jump_collectives : (s.jump p).collectives = s.collectives := rfl
@[simp] theorem State.jump_nextTicket : (s.jump p).nextTicket = s.nextTicket := rfl
@[simp] theorem State.jump_barriers : (s.jump p).barriers = s.barriers := rfl
@[simp] theorem State.jump_mem : (s.jump p).mem = s.mem := rfl
@[simp] theorem State.jump_lines : (s.jump p).lines = s.lines := rfl
@[simp] theorem State.jump_moves : (s.jump p).moves = s.moves := rfl
@[simp] theorem State.jump_heldWrites : (s.jump p).heldWrites = s.heldWrites := rfl
@[simp] theorem State.jump_tlb : (s.jump p).tlb = s.tlb := rfl
@[simp] theorem State.jump_dispatchers : (s.jump p).dispatchers = s.dispatchers := rfl
@[simp] theorem State.jump_logs : (s.jump p).logs = s.logs := rfl
@[simp] theorem State.jump_launches : (s.jump p).launches = s.launches := rfl
@[simp] theorem State.jump_coreMap : (s.jump p).coreMap = s.coreMap := rfl
@[simp] theorem State.jump_windows : (s.jump p).windows = s.windows := rfl
@[simp] theorem State.jump_rings : (s.jump p).rings = s.rings := rfl
@[simp] theorem State.jump_trapqs : (s.jump p).trapqs = s.trapqs := rfl
@[simp] theorem State.jump_saveAreas : (s.jump p).saveAreas = s.saveAreas := rfl
@[simp] theorem State.jump_exportBase : (s.jump p).exportBase = s.exportBase := rfl
@[simp] theorem State.jump_scc : (s.jump p).scc = s.scc := rfl
@[simp] theorem State.jump_ptpNs : (s.jump p).ptpNs = s.ptpNs := rfl
@[simp] theorem State.jump_ptpFrac : (s.jump p).ptpFrac = s.ptpFrac := rfl
@[simp] theorem State.jump_addend : (s.jump p).addend = s.addend := rfl
@[simp] theorem State.jump_lock : (s.jump p).lock = s.lock := rfl
@[simp] theorem State.jump_lockLog : (s.jump p).lockLog = s.lockLog := rfl
@[simp] theorem State.jump_armed : (s.jump p).armed = s.armed := rfl
@[simp] theorem State.jump_halts : (s.jump p).halts = s.halts := rfl
@[simp] theorem State.jump_capture : (s.jump p).capture = s.capture := rfl
@[simp] theorem State.jump_captureNext : (s.jump p).captureNext = s.captureNext := rfl
@[simp] theorem State.jump_captureBy : (s.jump p).captureBy = s.captureBy := rfl
@[simp] theorem State.jump_replayAt : (s.jump p).replayAt = s.replayAt := rfl
@[simp] theorem State.jump_hbmStacks : (s.jump p).hbmStacks = s.hbmStacks := rfl
@[simp] theorem State.jump_ports : (s.jump p).ports = s.ports := rfl
@[simp] theorem State.jump_moduleNo : (s.jump p).moduleNo = s.moduleNo := rfl
@[simp] theorem State.jump_routes : (s.jump p).routes = s.routes := rfl
@[simp] theorem State.jump_lost : (s.jump p).lost = s.lost := rfl
@[simp] theorem State.jump_portHeld : (s.jump p).portHeld = s.portHeld := rfl
@[simp] theorem State.jump_rasStatus : (s.jump p).rasStatus = s.rasStatus := rfl
@[simp] theorem State.jump_rasLog : (s.jump p).rasLog = s.rasLog := rfl
@[simp] theorem State.jump_snoopFilter : (s.jump p).snoopFilter = s.snoopFilter := rfl
@[simp] theorem State.jump_controller : (s.jump p).controller = s.controller := rfl
@[simp] theorem State.jump_rollback : (s.jump p).rollback = s.rollback := rfl
@[simp] theorem State.jump_out : (s.jump p).out = s.out := rfl
@[simp] theorem State.jump_agenda : (s.jump p).agenda = s.agenda := rfl
@[simp] theorem State.jump_free : (s.jump p).free = s.free := rfl
@[simp] theorem State.jump_nextSerial : (s.jump p).nextSerial = s.nextSerial := rfl
end

/-! ## `State.setVregs` changes `me` only -/

section
variable (s : State) (m : Image)
@[simp] theorem State.setVregs_strands : (s.setVregs m).strands = s.strands := rfl
@[simp] theorem State.setVregs_cores : (s.setVregs m).cores = s.cores := rfl
@[simp] theorem State.setVregs_braids : (s.setVregs m).braids = s.braids := rfl
@[simp] theorem State.setVregs_copyq : (s.setVregs m).copyq = s.copyq := rfl
@[simp] theorem State.setVregs_stackq : (s.setVregs m).stackq = s.stackq := rfl
@[simp] theorem State.setVregs_collectives : (s.setVregs m).collectives = s.collectives := rfl
@[simp] theorem State.setVregs_nextTicket : (s.setVregs m).nextTicket = s.nextTicket := rfl
@[simp] theorem State.setVregs_barriers : (s.setVregs m).barriers = s.barriers := rfl
@[simp] theorem State.setVregs_mem : (s.setVregs m).mem = s.mem := rfl
@[simp] theorem State.setVregs_lines : (s.setVregs m).lines = s.lines := rfl
@[simp] theorem State.setVregs_moves : (s.setVregs m).moves = s.moves := rfl
@[simp] theorem State.setVregs_heldWrites : (s.setVregs m).heldWrites = s.heldWrites := rfl
@[simp] theorem State.setVregs_tlb : (s.setVregs m).tlb = s.tlb := rfl
@[simp] theorem State.setVregs_dispatchers : (s.setVregs m).dispatchers = s.dispatchers := rfl
@[simp] theorem State.setVregs_logs : (s.setVregs m).logs = s.logs := rfl
@[simp] theorem State.setVregs_launches : (s.setVregs m).launches = s.launches := rfl
@[simp] theorem State.setVregs_coreMap : (s.setVregs m).coreMap = s.coreMap := rfl
@[simp] theorem State.setVregs_windows : (s.setVregs m).windows = s.windows := rfl
@[simp] theorem State.setVregs_rings : (s.setVregs m).rings = s.rings := rfl
@[simp] theorem State.setVregs_trapqs : (s.setVregs m).trapqs = s.trapqs := rfl
@[simp] theorem State.setVregs_saveAreas : (s.setVregs m).saveAreas = s.saveAreas := rfl
@[simp] theorem State.setVregs_exportBase : (s.setVregs m).exportBase = s.exportBase := rfl
@[simp] theorem State.setVregs_scc : (s.setVregs m).scc = s.scc := rfl
@[simp] theorem State.setVregs_ptpNs : (s.setVregs m).ptpNs = s.ptpNs := rfl
@[simp] theorem State.setVregs_ptpFrac : (s.setVregs m).ptpFrac = s.ptpFrac := rfl
@[simp] theorem State.setVregs_addend : (s.setVregs m).addend = s.addend := rfl
@[simp] theorem State.setVregs_lock : (s.setVregs m).lock = s.lock := rfl
@[simp] theorem State.setVregs_lockLog : (s.setVregs m).lockLog = s.lockLog := rfl
@[simp] theorem State.setVregs_armed : (s.setVregs m).armed = s.armed := rfl
@[simp] theorem State.setVregs_halts : (s.setVregs m).halts = s.halts := rfl
@[simp] theorem State.setVregs_capture : (s.setVregs m).capture = s.capture := rfl
@[simp] theorem State.setVregs_captureNext : (s.setVregs m).captureNext = s.captureNext := rfl
@[simp] theorem State.setVregs_captureBy : (s.setVregs m).captureBy = s.captureBy := rfl
@[simp] theorem State.setVregs_replayAt : (s.setVregs m).replayAt = s.replayAt := rfl
@[simp] theorem State.setVregs_hbmStacks : (s.setVregs m).hbmStacks = s.hbmStacks := rfl
@[simp] theorem State.setVregs_ports : (s.setVregs m).ports = s.ports := rfl
@[simp] theorem State.setVregs_moduleNo : (s.setVregs m).moduleNo = s.moduleNo := rfl
@[simp] theorem State.setVregs_routes : (s.setVregs m).routes = s.routes := rfl
@[simp] theorem State.setVregs_lost : (s.setVregs m).lost = s.lost := rfl
@[simp] theorem State.setVregs_portHeld : (s.setVregs m).portHeld = s.portHeld := rfl
@[simp] theorem State.setVregs_rasStatus : (s.setVregs m).rasStatus = s.rasStatus := rfl
@[simp] theorem State.setVregs_rasLog : (s.setVregs m).rasLog = s.rasLog := rfl
@[simp] theorem State.setVregs_snoopFilter : (s.setVregs m).snoopFilter = s.snoopFilter := rfl
@[simp] theorem State.setVregs_controller : (s.setVregs m).controller = s.controller := rfl
@[simp] theorem State.setVregs_rollback : (s.setVregs m).rollback = s.rollback := rfl
@[simp] theorem State.setVregs_out : (s.setVregs m).out = s.out := rfl
@[simp] theorem State.setVregs_agenda : (s.setVregs m).agenda = s.agenda := rfl
@[simp] theorem State.setVregs_free : (s.setVregs m).free = s.free := rfl
@[simp] theorem State.setVregs_nextSerial : (s.setVregs m).nextSerial = s.nextSerial := rfl
end

/-! ## `State.setCore` changes `cores` only -/

section
variable (s : State) (n : Nat) (c : Core)
@[simp] theorem State.setCore_me : (s.setCore n c).me = s.me := rfl
@[simp] theorem State.setCore_strands : (s.setCore n c).strands = s.strands := rfl
@[simp] theorem State.setCore_braids : (s.setCore n c).braids = s.braids := rfl
@[simp] theorem State.setCore_copyq : (s.setCore n c).copyq = s.copyq := rfl
@[simp] theorem State.setCore_stackq : (s.setCore n c).stackq = s.stackq := rfl
@[simp] theorem State.setCore_collectives : (s.setCore n c).collectives = s.collectives := rfl
@[simp] theorem State.setCore_nextTicket : (s.setCore n c).nextTicket = s.nextTicket := rfl
@[simp] theorem State.setCore_barriers : (s.setCore n c).barriers = s.barriers := rfl
@[simp] theorem State.setCore_mem : (s.setCore n c).mem = s.mem := rfl
@[simp] theorem State.setCore_lines : (s.setCore n c).lines = s.lines := rfl
@[simp] theorem State.setCore_moves : (s.setCore n c).moves = s.moves := rfl
@[simp] theorem State.setCore_heldWrites : (s.setCore n c).heldWrites = s.heldWrites := rfl
@[simp] theorem State.setCore_tlb : (s.setCore n c).tlb = s.tlb := rfl
@[simp] theorem State.setCore_dispatchers : (s.setCore n c).dispatchers = s.dispatchers := rfl
@[simp] theorem State.setCore_logs : (s.setCore n c).logs = s.logs := rfl
@[simp] theorem State.setCore_launches : (s.setCore n c).launches = s.launches := rfl
@[simp] theorem State.setCore_coreMap : (s.setCore n c).coreMap = s.coreMap := rfl
@[simp] theorem State.setCore_windows : (s.setCore n c).windows = s.windows := rfl
@[simp] theorem State.setCore_rings : (s.setCore n c).rings = s.rings := rfl
@[simp] theorem State.setCore_trapqs : (s.setCore n c).trapqs = s.trapqs := rfl
@[simp] theorem State.setCore_saveAreas : (s.setCore n c).saveAreas = s.saveAreas := rfl
@[simp] theorem State.setCore_exportBase : (s.setCore n c).exportBase = s.exportBase := rfl
@[simp] theorem State.setCore_scc : (s.setCore n c).scc = s.scc := rfl
@[simp] theorem State.setCore_ptpNs : (s.setCore n c).ptpNs = s.ptpNs := rfl
@[simp] theorem State.setCore_ptpFrac : (s.setCore n c).ptpFrac = s.ptpFrac := rfl
@[simp] theorem State.setCore_addend : (s.setCore n c).addend = s.addend := rfl
@[simp] theorem State.setCore_lock : (s.setCore n c).lock = s.lock := rfl
@[simp] theorem State.setCore_lockLog : (s.setCore n c).lockLog = s.lockLog := rfl
@[simp] theorem State.setCore_armed : (s.setCore n c).armed = s.armed := rfl
@[simp] theorem State.setCore_halts : (s.setCore n c).halts = s.halts := rfl
@[simp] theorem State.setCore_capture : (s.setCore n c).capture = s.capture := rfl
@[simp] theorem State.setCore_captureNext : (s.setCore n c).captureNext = s.captureNext := rfl
@[simp] theorem State.setCore_captureBy : (s.setCore n c).captureBy = s.captureBy := rfl
@[simp] theorem State.setCore_replayAt : (s.setCore n c).replayAt = s.replayAt := rfl
@[simp] theorem State.setCore_hbmStacks : (s.setCore n c).hbmStacks = s.hbmStacks := rfl
@[simp] theorem State.setCore_ports : (s.setCore n c).ports = s.ports := rfl
@[simp] theorem State.setCore_moduleNo : (s.setCore n c).moduleNo = s.moduleNo := rfl
@[simp] theorem State.setCore_routes : (s.setCore n c).routes = s.routes := rfl
@[simp] theorem State.setCore_lost : (s.setCore n c).lost = s.lost := rfl
@[simp] theorem State.setCore_portHeld : (s.setCore n c).portHeld = s.portHeld := rfl
@[simp] theorem State.setCore_rasStatus : (s.setCore n c).rasStatus = s.rasStatus := rfl
@[simp] theorem State.setCore_rasLog : (s.setCore n c).rasLog = s.rasLog := rfl
@[simp] theorem State.setCore_snoopFilter : (s.setCore n c).snoopFilter = s.snoopFilter := rfl
@[simp] theorem State.setCore_controller : (s.setCore n c).controller = s.controller := rfl
@[simp] theorem State.setCore_rollback : (s.setCore n c).rollback = s.rollback := rfl
@[simp] theorem State.setCore_out : (s.setCore n c).out = s.out := rfl
@[simp] theorem State.setCore_agenda : (s.setCore n c).agenda = s.agenda := rfl
@[simp] theorem State.setCore_free : (s.setCore n c).free = s.free := rfl
@[simp] theorem State.setCore_nextSerial : (s.setCore n c).nextSerial = s.nextSerial := rfl
end

/-! ## `State.setByte` changes `mem` only -/

section
variable (s : State) (pa : Nat) (v : Byte)
@[simp] theorem State.setByte_me : (s.setByte pa v).me = s.me := rfl
@[simp] theorem State.setByte_strands : (s.setByte pa v).strands = s.strands := rfl
@[simp] theorem State.setByte_cores : (s.setByte pa v).cores = s.cores := rfl
@[simp] theorem State.setByte_braids : (s.setByte pa v).braids = s.braids := rfl
@[simp] theorem State.setByte_copyq : (s.setByte pa v).copyq = s.copyq := rfl
@[simp] theorem State.setByte_stackq : (s.setByte pa v).stackq = s.stackq := rfl
@[simp] theorem State.setByte_collectives : (s.setByte pa v).collectives = s.collectives := rfl
@[simp] theorem State.setByte_nextTicket : (s.setByte pa v).nextTicket = s.nextTicket := rfl
@[simp] theorem State.setByte_barriers : (s.setByte pa v).barriers = s.barriers := rfl
@[simp] theorem State.setByte_lines : (s.setByte pa v).lines = s.lines := rfl
@[simp] theorem State.setByte_moves : (s.setByte pa v).moves = s.moves := rfl
@[simp] theorem State.setByte_heldWrites : (s.setByte pa v).heldWrites = s.heldWrites := rfl
@[simp] theorem State.setByte_tlb : (s.setByte pa v).tlb = s.tlb := rfl
@[simp] theorem State.setByte_dispatchers : (s.setByte pa v).dispatchers = s.dispatchers := rfl
@[simp] theorem State.setByte_logs : (s.setByte pa v).logs = s.logs := rfl
@[simp] theorem State.setByte_launches : (s.setByte pa v).launches = s.launches := rfl
@[simp] theorem State.setByte_coreMap : (s.setByte pa v).coreMap = s.coreMap := rfl
@[simp] theorem State.setByte_windows : (s.setByte pa v).windows = s.windows := rfl
@[simp] theorem State.setByte_rings : (s.setByte pa v).rings = s.rings := rfl
@[simp] theorem State.setByte_trapqs : (s.setByte pa v).trapqs = s.trapqs := rfl
@[simp] theorem State.setByte_saveAreas : (s.setByte pa v).saveAreas = s.saveAreas := rfl
@[simp] theorem State.setByte_exportBase : (s.setByte pa v).exportBase = s.exportBase := rfl
@[simp] theorem State.setByte_scc : (s.setByte pa v).scc = s.scc := rfl
@[simp] theorem State.setByte_ptpNs : (s.setByte pa v).ptpNs = s.ptpNs := rfl
@[simp] theorem State.setByte_ptpFrac : (s.setByte pa v).ptpFrac = s.ptpFrac := rfl
@[simp] theorem State.setByte_addend : (s.setByte pa v).addend = s.addend := rfl
@[simp] theorem State.setByte_lock : (s.setByte pa v).lock = s.lock := rfl
@[simp] theorem State.setByte_lockLog : (s.setByte pa v).lockLog = s.lockLog := rfl
@[simp] theorem State.setByte_armed : (s.setByte pa v).armed = s.armed := rfl
@[simp] theorem State.setByte_halts : (s.setByte pa v).halts = s.halts := rfl
@[simp] theorem State.setByte_capture : (s.setByte pa v).capture = s.capture := rfl
@[simp] theorem State.setByte_captureNext : (s.setByte pa v).captureNext = s.captureNext := rfl
@[simp] theorem State.setByte_captureBy : (s.setByte pa v).captureBy = s.captureBy := rfl
@[simp] theorem State.setByte_replayAt : (s.setByte pa v).replayAt = s.replayAt := rfl
@[simp] theorem State.setByte_hbmStacks : (s.setByte pa v).hbmStacks = s.hbmStacks := rfl
@[simp] theorem State.setByte_ports : (s.setByte pa v).ports = s.ports := rfl
@[simp] theorem State.setByte_moduleNo : (s.setByte pa v).moduleNo = s.moduleNo := rfl
@[simp] theorem State.setByte_routes : (s.setByte pa v).routes = s.routes := rfl
@[simp] theorem State.setByte_lost : (s.setByte pa v).lost = s.lost := rfl
@[simp] theorem State.setByte_portHeld : (s.setByte pa v).portHeld = s.portHeld := rfl
@[simp] theorem State.setByte_rasStatus : (s.setByte pa v).rasStatus = s.rasStatus := rfl
@[simp] theorem State.setByte_rasLog : (s.setByte pa v).rasLog = s.rasLog := rfl
@[simp] theorem State.setByte_snoopFilter : (s.setByte pa v).snoopFilter = s.snoopFilter := rfl
@[simp] theorem State.setByte_controller : (s.setByte pa v).controller = s.controller := rfl
@[simp] theorem State.setByte_rollback : (s.setByte pa v).rollback = s.rollback := rfl
@[simp] theorem State.setByte_out : (s.setByte pa v).out = s.out := rfl
@[simp] theorem State.setByte_agenda : (s.setByte pa v).agenda = s.agenda := rfl
@[simp] theorem State.setByte_free : (s.setByte pa v).free = s.free := rfl
@[simp] theorem State.setByte_nextSerial : (s.setByte pa v).nextSerial = s.nextSerial := rfl
end

/-! ## What the changed field becomes -/

@[simp] theorem State.xset_me (s : State) (d : Reg) (v : Word) : (s.xset d v).me = s.me.xset d v := rfl
@[simp] theorem State.advance_me (s : State) : s.advance.me = { s.me with pc := s.me.pc + 4 } := rfl
@[simp] theorem State.jump_me (s : State) (p : Word) : (s.jump p).me = { s.me with pc := p } := rfl
@[simp] theorem State.setVregs_me (s : State) (m : Image) : (s.setVregs m).me = { s.me with vregs := m } := rfl

/-! ## `Strand.xset` changes `x` only -/

section
variable (t : Strand) (d : Reg) (v : Word)
theorem Strand.xset_eq : t.xset d v = { t with x := (t.xset d v).x } := by
  unfold Strand.xset; split <;> rfl
@[simp] theorem Strand.xset_placed : (t.xset d v).placed = t.placed := by rw [Strand.xset_eq]
@[simp] theorem Strand.xset_core : (t.xset d v).core = t.core := by rw [Strand.xset_eq]
@[simp] theorem Strand.xset_slot : (t.xset d v).slot = t.slot := by rw [Strand.xset_eq]
@[simp] theorem Strand.xset_logical : (t.xset d v).logical = t.logical := by rw [Strand.xset_eq]
@[simp] theorem Strand.xset_pc : (t.xset d v).pc = t.pc := by rw [Strand.xset_eq]
@[simp] theorem Strand.xset_ctl : (t.xset d v).ctl = t.ctl := by rw [Strand.xset_eq]
@[simp] theorem Strand.xset_pendNreg : (t.xset d v).pendNreg = t.pendNreg := by rw [Strand.xset_eq]
@[simp] theorem Strand.xset_wid : (t.xset d v).wid = t.wid := by rw [Strand.xset_eq]
@[simp] theorem Strand.xset_ptroot : (t.xset d v).ptroot = t.ptroot := by rw [Strand.xset_eq]
@[simp] theorem Strand.xset_priv : (t.xset d v).priv = t.priv := by rw [Strand.xset_eq]
@[simp] theorem Strand.xset_cur : (t.xset d v).cur = t.cur := by rw [Strand.xset_eq]
@[simp] theorem Strand.xset_recd : (t.xset d v).recd = t.recd := by rw [Strand.xset_eq]
@[simp] theorem Strand.xset_pend : (t.xset d v).pend = t.pend := by rw [Strand.xset_eq]
@[simp] theorem Strand.xset_left : (t.xset d v).left = t.left := by rw [Strand.xset_eq]
@[simp] theorem Strand.xset_vregs : (t.xset d v).vregs = t.vregs := by rw [Strand.xset_eq]
@[simp] theorem Strand.xset_skeins : (t.xset d v).skeins = t.skeins := by rw [Strand.xset_eq]
@[simp] theorem Strand.xset_queue : (t.xset d v).queue = t.queue := by rw [Strand.xset_eq]
@[simp] theorem Strand.xset_issued : (t.xset d v).issued = t.issued := by rw [Strand.xset_eq]
@[simp] theorem Strand.xset_disarms : (t.xset d v).disarms = t.disarms := by rw [Strand.xset_eq]
@[simp] theorem Strand.xset_early : (t.xset d v).early = t.early := by rw [Strand.xset_eq]
@[simp] theorem Strand.xset_debts : (t.xset d v).debts = t.debts := by rw [Strand.xset_eq]
@[simp] theorem Strand.xset_vwaitDone : (t.xset d v).vwaitDone = t.vwaitDone := by rw [Strand.xset_eq]
@[simp] theorem Strand.xset_vwaitAt : (t.xset d v).vwaitAt = t.vwaitAt := by rw [Strand.xset_eq]
@[simp] theorem Strand.xset_trec : (t.xset d v).trec = t.trec := by rw [Strand.xset_eq]
@[simp] theorem Strand.xset_tcount : (t.xset d v).tcount = t.tcount := by rw [Strand.xset_eq]
@[simp] theorem Strand.xset_held : (t.xset d v).held = t.held := by rw [Strand.xset_eq]
@[simp] theorem Strand.xset_postedStk : (t.xset d v).postedStk = t.postedStk := by rw [Strand.xset_eq]
@[simp] theorem Strand.xset_postedCpy : (t.xset d v).postedCpy = t.postedCpy := by rw [Strand.xset_eq]
@[simp] theorem Strand.xset_tickets : (t.xset d v).tickets = t.tickets := by rw [Strand.xset_eq]
@[simp] theorem Strand.xset_arrival : (t.xset d v).arrival = t.arrival := by rw [Strand.xset_eq]
@[simp] theorem Strand.xset_frac : (t.xset d v).frac = t.frac := by rw [Strand.xset_eq]
@[simp] theorem Strand.xset_stepped : (t.xset d v).stepped = t.stepped := by rw [Strand.xset_eq]
@[simp] theorem Strand.xset_mark : (t.xset d v).mark = t.mark := by rw [Strand.xset_eq]
@[simp] theorem Strand.xset_parked : (t.xset d v).parked = t.parked := by rw [Strand.xset_eq]
@[simp] theorem Strand.xset_timedOut : (t.xset d v).timedOut = t.timedOut := by rw [Strand.xset_eq]
@[simp] theorem Strand.xset_launch : (t.xset d v).launch = t.launch := by rw [Strand.xset_eq]
@[simp] theorem Strand.xset_req : (t.xset d v).req = t.req := by rw [Strand.xset_eq]
@[simp] theorem Strand.xset_header : (t.xset d v).header = t.header := by rw [Strand.xset_eq]
@[simp] theorem Strand.xset_serial : (t.xset d v).serial = t.serial := by rw [Strand.xset_eq]
end

/-! ## Reading registers -/

@[simp] theorem Strand.xget_zero (t : Strand) : t.xget 0 = 0 := rfl

theorem Strand.xget_xset (t : Strand) (d r : Reg) (v : Word) :
    (t.xset d v).xget r = if r = d ∧ d ≠ 0 then v else t.xget r := by
  unfold Strand.xset Strand.xget
  by_cases hd : d = 0
  · simp [hd]
  · by_cases hr : r = d
    · subst hr
      rw [if_neg hd, if_neg hd, if_pos ⟨rfl, hd⟩]
      exact Vector.getElem_set_self _
    · have hn : d.toNat ≠ r.toNat := fun h => hr (BitVec.eq_of_toNat_eq h.symm)
      rw [if_neg hd, if_neg (show ¬ (r = d ∧ d ≠ 0) from fun h => hr h.1)]
      by_cases h0 : r = 0
      · rw [if_pos h0, if_pos h0]
      · rw [if_neg h0, if_neg h0]
        dsimp only
        exact Vector.getElem_set_ne _ _ hn

/-- A register after a write; x0 discards it. -/
theorem State.xget_xset (s : State) (d r : Reg) (v : Word) :
    (s.xset d v).xget r = if r = d ∧ d ≠ 0 then v else s.xget r := Strand.xget_xset s.me d r v

@[simp] theorem State.xget_advance (s : State) (r : Reg) : s.advance.xget r = s.xget r := rfl
@[simp] theorem State.xget_jump (s : State) (p : Word) (r : Reg) : (s.jump p).xget r = s.xget r := rfl
@[simp] theorem State.xget_setVregs (s : State) (m : Image) (r : Reg) : (s.setVregs m).xget r = s.xget r := rfl
@[simp] theorem State.xget_setCore (s : State) (n : Nat) (c : Core) (r : Reg) : (s.setCore n c).xget r = s.xget r := rfl

/-! ## Cores -/

theorem State.core_setCore (s : State) (n k : Nat) (c : Core) :
    (s.setCore n c).core k = if k = n then c else s.core k := by
  unfold State.core State.setCore
  exact assocGet_assocSet _ _ _ _ _

end Sys2Proof.Machine
end

