-- ==== Sys2Proof/Laws/Vector.lean ====
section
/-! SUPPORT. The laws of vector register images: an element reads back as it was written, elements and registers that were not
written stay, and the same for mask bits. -/
namespace Sys2Proof.Machine

/-! ## Keys -/

/-- A register's bytes fit its keys, and its elements don't cross it. -/
def FitsKeys (rb W : Nat) : Prop := rb ≤ 65536 ∧ (8 ≤ W → W / 8 ∣ rb)

theorem vkey_inj {rb r b b' : Nat} (h : rb ≤ 65536) (he : vkey rb r b = vkey rb r b') : b = b' := by
  unfold vkey at he
  rcases Nat.eq_zero_or_pos rb with h0 | h0
  · subst h0
    simp only [Nat.div_zero, Nat.mod_zero] at he
    omega
  · have h1 := Nat.mod_lt b h0
    have h2 := Nat.mod_lt b' h0
    have h3 := Nat.div_add_mod b rb
    have h4 := Nat.div_add_mod b' rb
    have hq : b / rb = b' / rb := by omega
    have hm : b % rb = b' % rb := by omega
    rw [← h3, ← h4, hq, hm]

/-- The bytes of an element lie at consecutive keys. -/
theorem vkey_add {rb r n i j : Nat} (hd : n ∣ rb) (hj : j < n) : vkey rb r (i * n + j) = vkey rb r (i * n) + j := by
  obtain ⟨q, rfl⟩ := hd
  have hn : 0 < n := by omega
  unfold vkey
  have h1 : (i * n + j) / (n * q) = i * n / (n * q) := by
    rw [← Nat.div_div_eq_div_mul, ← Nat.div_div_eq_div_mul, Nat.mul_div_cancel _ hn]
    congr 1
    rw [Nat.add_comm, Nat.add_mul_div_right _ _ hn, Nat.div_eq_of_lt hj, Nat.zero_add]
  have h2 : (i * n + j) % (n * q) = i * n % (n * q) + j := by
    have e1 := Nat.div_add_mod (i * n + j) (n * q)
    have e2 := Nat.div_add_mod (i * n) (n * q)
    rw [h1] at e1
    omega
  rw [h1, h2]
  omega

/-- Keys of different elements differ. -/
theorem vkey_sep {rb r n i j a b : Nat} (h : rb ≤ 65536) (hd : n ∣ rb) (ha : a < n) (hb : b < n) (hij : i ≠ j) :
    vkey rb r (i * n) + a ≠ vkey rb r (j * n) + b := by
  rw [← vkey_add hd ha, ← vkey_add hd hb]
  intro he
  have := vkey_inj h he
  apply hij
  have e1 : (i * n + a) / n = i := by
    rw [Nat.add_comm, Nat.add_mul_div_right _ _ (by omega), Nat.div_eq_of_lt ha, Nat.zero_add]
  have e2 : (j * n + b) / n = j := by
    rw [Nat.add_comm, Nat.add_mul_div_right _ _ (by omega), Nat.div_eq_of_lt hb, Nat.zero_add]
  rw [← e1, ← e2, this]

theorem imgGet_imgPut_at {m : Image} {a n v j : Nat} (hj : j < n) :
    imgGet (imgPut m a (leBytes n v)) (a + j) = (leBytes n v)[j]'(by rw [leBytes_length]; exact hj) := by
  rw [imgGet_imgPut, dif_pos (by rw [leBytes_length]; omega)]
  congr 1
  omega

/-! ## One element -/

/-- An element reads back as it was written. -/
theorem vreadImg_vwriteImg_self {rb W : Nat} (hW : W = 4 ∨ 8 ∣ W) (m : Image) (r i v : Nat) :
    vreadImg (vwriteImg m rb r W i v) rb r W i = v % 2 ^ W := by
  unfold vreadImg vwriteImg
  rcases hW with rfl | ⟨n, rfl⟩
  · simp only [if_true, imgGet_imgSet]
    have hb : (imgGet m (vkey rb r (i / 2))).toNat < 256 := (imgGet m (vkey rb r (i / 2))).isLt
    rw [BitVec.toNat_ofNat]
    rcases Nat.mod_two_eq_zero_or_one i with h | h
    · simp only [h, if_true, bits]
      omega
    · simp only [h, bits]
      norm_num
      omega
  · have h4 : ¬ 8 * n = 4 := by omega
    have hn : 8 * n / 8 = n := by omega
    rw [if_neg h4, if_neg h4, hn, imgNat_imgPut, Nat.pow_mul]

/-- Other elements of the image stay. -/
theorem vreadImg_vwriteImg_other {rb W : Nat} (hk : FitsKeys rb W) (m : Image) {r i j v : Nat} (hij : i ≠ j) :
    vreadImg (vwriteImg m rb r W i v) rb r W j = vreadImg m rb r W j := by
  obtain ⟨h, hd⟩ := hk
  unfold vreadImg vwriteImg
  by_cases hW : W = 4
  · subst hW
    simp only [if_true, imgGet_imgSet]
    by_cases he : vkey rb r (j / 2) = vkey rb r (i / 2)
    · rw [if_pos he]
      have hq : j / 2 = i / 2 := vkey_inj h he
      have hb : (imgGet m (vkey rb r (i / 2))).toNat < 256 := (imgGet m (vkey rb r (i / 2))).isLt
      rw [BitVec.toNat_ofNat, hq]
      rcases Nat.mod_two_eq_zero_or_one i with hi | hi
      · have hj : j % 2 = 1 := by omega
        simp only [hi, hj, if_true, bits]
        omega
      · have hj : j % 2 = 0 := by omega
        simp only [hi, hj, bits]
        norm_num
    · rw [if_neg he]
  · simp only [if_neg hW]
    unfold imgNat imgBytes
    congr 1
    apply List.map_congr_left
    intro x hx
    rw [List.mem_range] at hx
    have hd := hd (by omega)
    apply imgGet_imgPut_other
    rw [leBytes_length]
    by_contra hc
    have hlt : vkey rb r (j * (W / 8)) + x - vkey rb r (i * (W / 8)) < W / 8 := by omega
    exact vkey_sep (r := r) h hd hx hlt (Ne.symm hij) (by omega)

/-- Bytes that belong to no written element stay. -/
theorem imgGet_vwriteImg_other {rb W : Nat} (hW : W = 4 ∨ 8 ∣ W) (hk : FitsKeys rb W) (m : Image) {r i v key : Nat}
    (hn : ¬ inElem rb r W i key) : imgGet (vwriteImg m rb r W i v) key = imgGet m key := by
  unfold vwriteImg
  rcases hW with rfl | ⟨n, rfl⟩
  · rw [if_pos rfl]
    simp only [imgGet_imgSet]
    rw [if_neg]
    intro he
    exact hn ⟨i / 2, by omega, by omega, he⟩
  · have h4 : ¬ 8 * n = 4 := by omega
    have h8 : 8 * n / 8 = n := by omega
    rw [if_neg h4, h8]
    apply imgGet_imgPut_other
    rw [leBytes_length]
    by_contra hc
    have hd := hk.2 (by omega)
    rw [h8] at hd
    refine hn ⟨i * n + (key - vkey rb r (i * n)), ?_, ?_, ?_⟩
    · rw [show i * (8 * n) = 8 * (i * n) by ring]; omega
    · rw [show (i + 1) * (8 * n) = 8 * (i * n) + 8 * n by ring]; omega
    · rw [vkey_add hd (by omega)]; omega

/-! ## Several elements -/

/-- The writes of `vsetAll`, one after the other. -/
def vwriteAll (m : Image) (rb r W : Nat) (l : List (Nat × Nat)) : Image :=
  l.foldl (fun m e => vwriteImg m rb r W e.1 e.2) m

theorem vsetAll_eq (s : State) (c : VCtx) (r : BitVec 6) (W : Nat) (l : List (Nat × Nat)) :
    s.vsetAll c r W l = s.setVregs (vwriteAll s.me.vregs (c.rb s) r.toNat W l) := rfl

theorem vwriteAll_old {rb W : Nat} (hk : FitsKeys rb W) {r i : Nat} (l : List (Nat × Nat)) :
    ∀ m : Image, (∀ e ∈ l, e.1 ≠ i) → vreadImg (vwriteAll m rb r W l) rb r W i = vreadImg m rb r W i := by
  induction l with
  | nil => intro m _; rfl
  | cons e l ih =>
    intro m h
    rw [vwriteAll, List.foldl_cons]
    exact (ih _ fun x hx => h x (List.mem_cons_of_mem _ hx)).trans
      (vreadImg_vwriteImg_other hk m (h e List.mem_cons_self))

theorem vwriteAll_rest {rb W : Nat} (hW : W = 4 ∨ 8 ∣ W) (hk : FitsKeys rb W) {r key : Nat} (l : List (Nat × Nat)) :
    ∀ m : Image, (∀ e ∈ l, ¬ inElem rb r W e.1 key) → imgGet (vwriteAll m rb r W l) key = imgGet m key := by
  induction l with
  | nil => intro m _; rfl
  | cons e l ih =>
    intro m h
    rw [vwriteAll, List.foldl_cons]
    exact (ih _ fun x hx => h x (List.mem_cons_of_mem _ hx)).trans
      (imgGet_vwriteImg_other hW hk m (h e List.mem_cons_self))

theorem vwriteAll_new {rb W : Nat} (hW : W = 4 ∨ 8 ∣ W) (hk : FitsKeys rb W) {r : Nat} (l : List (Nat × Nat)) :
    ∀ m : Image, (l.map (·.1)).Nodup → ∀ e ∈ l, vreadImg (vwriteAll m rb r W l) rb r W e.1 = e.2 % 2 ^ W := by
  induction l with
  | nil => intro m _ e he; cases he
  | cons x l ih =>
    intro m hn e he
    rw [List.map_cons, List.nodup_cons] at hn
    rw [vwriteAll, List.foldl_cons]
    rcases List.mem_cons.1 he with rfl | he
    · refine (vwriteAll_old hk l _ ?_).trans (vreadImg_vwriteImg_self hW m r e.1 e.2)
      intro y hy hc
      exact hn.1 (List.mem_map.2 ⟨y, hy, hc⟩)
    · exact ih _ hn.2 e he

/-- Writing one value to each index of a list without repeats. -/
theorem Wrote.ofList {rb W : Nat} (hW : W = 4 ∨ 8 ∣ W) (hk : FitsKeys rb W) (m : Image) (r : Nat) (is : List Nat)
    (hn : is.Nodup) (v : Nat → Nat) :
    Wrote m (vwriteAll m rb r W (is.map fun i => (i, v i))) rb r W (fun i => i ∈ is) v where
  new i hi := vwriteAll_new hW hk _ m (by simpa [List.map_map, Function.comp_def] using hn) (i, v i)
    (List.mem_map.2 ⟨i, hi, rfl⟩)
  old i hi := vwriteAll_old hk _ m (by
    intro e he hc
    obtain ⟨j, hj, rfl⟩ := List.mem_map.1 he
    exact hi (hc ▸ hj))
  rest key h := vwriteAll_rest hW hk _ m (by
    intro e he
    obtain ⟨j, hj, rfl⟩ := List.mem_map.1 he
    exact h j hj)

/-- The register sizes of R26 fit, for every format width. -/
theorem regBytes_le (g : BitVec 4) (vtype : Word) : regBytes g vtype ≤ 65536 := by
  unfold regBytes nregOf
  have h1 : slicesOf g ≤ 4 := by unfold slicesOf; revert g; decide
  have h2 : vtypeNreg vtype < 4 := by unfold vtypeNreg bits; exact Nat.mod_lt _ (by decide)
  interval_cases vtypeNreg vtype <;> simp <;> omega

theorem regBytes_dvd (g : BitVec 4) (vtype : Word) : 1024 ∣ regBytes g vtype := by
  unfold regBytes nregOf
  have h2 : vtypeNreg vtype < 4 := by unfold vtypeNreg bits; exact Nat.mod_lt _ (by decide)
  generalize slicesOf g = n
  interval_cases vtypeNreg vtype <;> simp <;> omega

theorem ew_cases (f : Nat) : ew f = 4 ∨ 8 ∣ ew f := by
  unfold ew
  split <;> decide

theorem ew_dvd {f : Nat} (h : 8 ≤ ew f) : ew f / 8 ∣ 1024 := by
  revert h
  unfold ew
  split <;> decide

theorem fitsKeys_ew (g : BitVec 4) (vtype : Word) (f : Nat) : FitsKeys (regBytes g vtype) (ew f) :=
  ⟨regBytes_le g vtype, fun h => (ew_dvd h).trans (regBytes_dvd g vtype)⟩

/-! ## Mask bits -/

theorem setBitImg_byte (m : Image) (r i : Nat) (b : Bool) (key : Nat) (h : key ≠ 65536 * r + i / 8) :
    imgGet (setBitImg m r i b) key = imgGet m key := by
  unfold setBitImg
  simp only [imgGet_imgSet]
  rw [if_neg h]

theorem mbit_eq (s : State) (r : BitVec 6) (i : Nat) : s.mbit r i = bitOf s.me.vregs r.toNat i := rfl

/-- A mask bit reads back as it was written, and every other bit of the register stays. -/
theorem bitOf_setBitImg (m : Image) (r i j : Nat) (b : Bool) :
    bitOf (setBitImg m r i b) r j = if j = i then b else bitOf m r j := by
  unfold bitOf setBitImg
  simp only [imgGet_imgSet]
  by_cases he : 65536 * r + j / 8 = 65536 * r + i / 8
  · have hq : j / 8 = i / 8 := by omega
    have h8 : i % 8 < 8 := Nat.mod_lt _ (by decide)
    have h9 : j % 8 < 8 := Nat.mod_lt _ (by decide)
    rw [if_pos he, hq]
    by_cases hji : j = i
    · subst hji
      cases b <;> simp [h8]
    · have hne : j % 8 - i % 8 ≠ 0 ∨ j % 8 < i % 8 := by omega
      rw [if_neg hji]
      cases b <;> simp [h9] <;> omega
  · rw [if_neg he, if_neg (by rintro rfl; exact he rfl)]

/-- The writes of `msetAll`, one after the other. -/
def setBitsImg (m : Image) (r : Nat) (l : List (Nat × Bool)) : Image := l.foldl (fun m e => setBitImg m r e.1 e.2) m

theorem msetAll_eq (s : State) (r : BitVec 6) (l : List (Nat × Bool)) :
    s.msetAll r l = s.setVregs (setBitsImg s.me.vregs r.toNat l) := rfl

theorem setBitsImg_old {r i : Nat} (l : List (Nat × Bool)) :
    ∀ m : Image, (∀ e ∈ l, e.1 ≠ i) → bitOf (setBitsImg m r l) r i = bitOf m r i := by
  induction l with
  | nil => intro m _; rfl
  | cons e l ih =>
    intro m h
    rw [setBitsImg, List.foldl_cons]
    refine (ih _ fun x hx => h x (List.mem_cons_of_mem _ hx)).trans ?_
    rw [bitOf_setBitImg, if_neg (Ne.symm (h e List.mem_cons_self))]

theorem setBitsImg_new {r : Nat} (l : List (Nat × Bool)) :
    ∀ m : Image, (l.map (·.1)).Nodup → ∀ e ∈ l, bitOf (setBitsImg m r l) r e.1 = e.2 := by
  induction l with
  | nil => intro m _ e he; cases he
  | cons x l ih =>
    intro m hn e he
    rw [List.map_cons, List.nodup_cons] at hn
    rw [setBitsImg, List.foldl_cons]
    rcases List.mem_cons.1 he with rfl | he
    · refine (setBitsImg_old l _ ?_).trans ?_
      · intro y hy hc
        exact hn.1 (List.mem_map.2 ⟨y, hy, hc⟩)
      · rw [bitOf_setBitImg, if_pos rfl]
    · exact ih _ hn.2 e he

theorem setBitsImg_rest {r key : Nat} (l : List (Nat × Bool)) :
    ∀ m : Image, (∀ e ∈ l, key ≠ 65536 * r + e.1 / 8) → imgGet (setBitsImg m r l) key = imgGet m key := by
  induction l with
  | nil => intro m _; rfl
  | cons e l ih =>
    intro m h
    rw [setBitsImg, List.foldl_cons]
    exact (ih _ fun x hx => h x (List.mem_cons_of_mem _ hx)).trans (setBitImg_byte m r e.1 e.2 key (h e List.mem_cons_self))

/-- Writing one bit to each index of a list without repeats. -/
theorem WroteBits.ofList (m : Image) (r : Nat) (is : List Nat) (hn : is.Nodup) (v : Nat → Bool) :
    WroteBits m (setBitsImg m r (is.map fun i => (i, v i))) r (fun i => i ∈ is) v where
  new i hi := setBitsImg_new _ m (by simpa [List.map_map, Function.comp_def] using hn) (i, v i) (List.mem_map.2 ⟨i, hi, rfl⟩)
  old i hi := setBitsImg_old _ m (by
    intro e he hc
    obtain ⟨j, hj, rfl⟩ := List.mem_map.1 he
    exact hi (hc ▸ hj))
  rest key h := setBitsImg_rest _ m (by
    intro e he
    obtain ⟨j, hj, rfl⟩ := List.mem_map.1 he
    exact h j hj)

/-! ## Canonical form -/

theorem wf_vwriteImg {m : Image} (h : Memory.wf m = true) (rb r W i v : Nat) : Memory.wf (vwriteImg m rb r W i v) = true := by
  unfold vwriteImg
  split
  · exact wf_imgSet h _ _
  · exact wf_imgPut h _ _

theorem wf_vwriteAll (rb r W : Nat) (l : List (Nat × Nat)) : ∀ {m : Image} (_ : Memory.wf m = true),
    Memory.wf (vwriteAll m rb r W l) = true := by
  induction l with
  | nil => intro m h; exact h
  | cons e l ih => intro m h; exact ih (wf_vwriteImg h rb r W e.1 e.2)

theorem wf_setBitImg {m : Image} (h : Memory.wf m = true) (r i : Nat) (b : Bool) : Memory.wf (setBitImg m r i b) = true :=
  wf_imgSet h _ _

theorem wf_setBitsImg (r : Nat) (l : List (Nat × Bool)) : ∀ {m : Image} (_ : Memory.wf m = true),
    Memory.wf (setBitsImg m r l) = true := by
  induction l with
  | nil => intro m h; exact h
  | cons e l ih => intro m h; exact ih (wf_setBitImg h r e.1 e.2)

/-! ## The elements a word works on -/

theorem mem_active (s : State) (c : VCtx) (w : VWord) (i : Nat) : i ∈ s.active c w ↔ s.works c w i := by
  cases hm : w.m <;> simp [State.active, State.works, State.masked, List.mem_filter, mbit_eq, hm]

theorem nodup_active (s : State) (c : VCtx) (w : VWord) : (s.active c w).Nodup := List.nodup_range.filter _

end Sys2Proof.Machine
end

