-- ==== Sys2Proof/Laws/Ops.lean ====
section
/-! SUPPORT. What the shared operations do, once each: the frame of a scalar word, of a vector word and of firmware, taking a
trap and returning from one, and the end of a step. -/
namespace Sys2Proof.Machine

/-! ## The frame of a scalar word -/

theorem stalled_mono {t : Strand} {r r' : List Reg} (hs : ∀ x ∈ r', x ∈ r) (h : t.stalled r = false) :
    t.stalled r' = false := by
  unfold Strand.stalled at *
  simp only [Bool.or_eq_false_iff, List.any_eq_false] at h ⊢
  exact ⟨h.1, fun x hx => h.2 x (hs x hx)⟩

/-- A word may issue whenever a word of more registers may. -/
theorem State.issues.mono {s : State} {r r' : List Reg} (h : s.issues r) (hs : ∀ x ∈ r', x ∈ r) : s.issues r' :=
  stalled_mono hs h

/-- With no block queued every scalar word issues. -/
theorem issues_of_idle {s : State} (h : s.me.queue = []) (r : List Reg) : s.issues r := by
  unfold State.issues Strand.stalled Strand.pending
  rw [h]
  simp

/-- Everything that the frame of a scalar word can answer. -/
theorem scalarAfter_cases (regs : List Reg) (pre : State → State) (f : State → Except Stop State) (s : State) :
    (¬ s.issues regs ∧ scalarAfter regs pre f s = .next s) ∨
    (s.issues regs ∧
      ((∃ t, f (pre s) = .ok t ∧ scalarAfter regs pre f s = .next t) ∨
       (f (pre s) = .error .wait ∧ scalarAfter regs pre f s = .next (pre s)) ∨
       (∃ i, f (pre s) = .error (.fault i) ∧
         scalarAfter regs pre f s = .next ((pre s).takeTrap i s.me.pc false 0)))) := by
  unfold State.issues scalarAfter
  cases hst : s.me.stalled regs
  · right
    refine ⟨rfl, ?_⟩
    rw [if_neg (by simp)]
    rcases hf : f (pre s) with e | t
    · cases e with
      | wait => exact .inr (.inl ⟨rfl, rfl⟩)
      | fault i => exact .inr (.inr ⟨i, rfl, rfl⟩)
    · exact .inl ⟨t, rfl, rfl⟩
  · left
    exact ⟨by simp, by rw [if_pos rfl]⟩

theorem scalarAfter_ok {regs : List Reg} {pre : State → State} {f : State → Except Stop State} {s t : State}
    (h : s.issues regs) (hf : f (pre s) = .ok t) : scalarAfter regs pre f s = .next t := by
  rcases scalarAfter_cases regs pre f s with ⟨hn, _⟩ | ⟨_, ⟨t', h', e⟩ | ⟨h', _⟩ | ⟨_, h', _⟩⟩
  · exact absurd h hn
  · rw [h'] at hf; cases hf; exact e
  · rw [h'] at hf; cases hf
  · rw [h'] at hf; cases hf

theorem scalarAfter_wait {regs : List Reg} {pre : State → State} {f : State → Except Stop State} {s : State}
    (h : s.issues regs) (hf : f (pre s) = .error .wait) : scalarAfter regs pre f s = .next (pre s) := by
  rcases scalarAfter_cases regs pre f s with ⟨hn, _⟩ | ⟨_, ⟨t', h', e⟩ | ⟨h', e⟩ | ⟨_, h', _⟩⟩
  · exact absurd h hn
  · rw [h'] at hf; cases hf
  · exact e
  · rw [h'] at hf; cases hf

theorem scalarAfter_fault {regs : List Reg} {pre : State → State} {f : State → Except Stop State} {s : State} {i : FaultInfo}
    (h : s.issues regs) (hf : f (pre s) = .error (.fault i)) :
    scalarAfter regs pre f s = .next ((pre s).takeTrap i s.me.pc false 0) := by
  rcases scalarAfter_cases regs pre f s with ⟨hn, _⟩ | ⟨_, ⟨t', h', e⟩ | ⟨h', _⟩ | ⟨j, h', e⟩⟩
  · exact absurd h hn
  · rw [h'] at hf; cases hf
  · rw [h'] at hf; cases hf
  · rw [h'] at hf; cases hf; exact e

theorem scalarStep_ok {regs : List Reg} {f : State → Except Stop State} {s t : State}
    (h : s.issues regs) (hf : f s = .ok t) : scalarStep regs f s = .next t := scalarAfter_ok (pre := id) h hf

theorem scalarStep_wait {regs : List Reg} {f : State → Except Stop State} {s : State}
    (h : s.issues regs) (hf : f s = .error .wait) : scalarStep regs f s = .next s := scalarAfter_wait (pre := id) h hf

theorem scalarStep_fault {regs : List Reg} {f : State → Except Stop State} {s : State} {i : FaultInfo}
    (h : s.issues regs) (hf : f s = .error (.fault i)) : scalarStep regs f s = .next (s.takeTrap i s.me.pc false 0) :=
  scalarAfter_fault (pre := id) h hf

theorem scalarWrite_ok {regs : List Reg} {d : Reg} {v : State → Word} {s : State} (h : s.issues (d :: regs)) :
    scalarWrite regs d v s = .next (s.xset d (v s)).advance := scalarStep_ok h rfl

/-- Writing a register and going on is what `wrote` says. -/
theorem wrote_xset_jump (s : State) (d : Reg) (v pc : Word) : s.wrote ((s.xset d v).jump pc) d v pc := by
  refine ⟨fun r => ?_, ?_⟩
  · rw [State.xget_jump]
    exact State.xget_xset s d r v
  · unfold State.jump State.xset
    dsimp only
    rw [Strand.xset_eq]

theorem wrote_xset_advance (s : State) (d : Reg) (v : Word) : s.wrote (s.xset d v).advance d v (s.me.pc + 4) := by
  have h := wrote_xset_jump s d v (s.me.pc + 4)
  have he : (s.xset d v).advance = (s.xset d v).jump (s.me.pc + 4) := by
    unfold State.advance State.jump
    rw [State.xset_me, Strand.xset_pc]
  rw [he]
  exact h

/-- A word that only writes a register computes its value. -/
theorem computes_of_write {i : Instr} {regs : List Reg} {d : Reg} {v : State → Word} {s : State}
    (he : exec i s = scalarWrite regs d v s) (h : s.issues (d :: regs)) : Computes s i d (v s) :=
  ⟨_, he.trans (scalarWrite_ok h), wrote_xset_advance s d (v s)⟩

/-! ## Traps -/

/-- Of a strand a trap record may change the trap registers, the posted faults, what holds it, and what an issued convoy, a parked
VWAIT and early work leave at a boundary (R210, R217), and nothing else. -/
def Strand.sameButTrap (t u : Strand) : Prop :=
  ∃ trec tcount held parked timedOut queue issued early stk cpy done at_ tags,
    u = { t with trec := trec, tcount := tcount, held := held, parked := parked, timedOut := timedOut, queue := queue,
                 issued := issued, early := early, postedStk := stk, postedCpy := cpy, vwaitDone := done, vwaitAt := at_,
                 disarms := tags }

theorem Strand.sameButTrap.trans {t u v : Strand} (h : t.sameButTrap u) (h' : u.sameButTrap v) : t.sameButTrap v := by
  obtain ⟨a, b, c, d, e, f, g, i, j, k, l, m, n, rfl⟩ := h
  obtain ⟨a', b', c', d', e', f', g', i', j', k', l', m', n', rfl⟩ := h'
  exact ⟨a', b', c', d', e', f', g', i', j', k', l', m', n', rfl⟩

theorem takePosted_same (t : Strand) (r : TrapRec) : t.sameButTrap (t.takePosted r) := by
  unfold Strand.takePosted
  split <;> exact ⟨_, _, _, _, _, _, _, _, _, _, _, _, _, rfl⟩

theorem holdOn_same (t : Strand) (h : Held) (v : Bool) : t.sameButTrap (t.holdOn h v) := by
  unfold Strand.holdOn Strand.dropWork Strand.dropReads Strand.completed Strand.setVpc
  dsimp only
  split
  · split <;> exact ⟨_, _, _, _, _, _, _, _, _, _, _, _, _, rfl⟩
  · exact ⟨_, _, _, _, _, _, _, _, _, _, _, _, _, rfl⟩

theorem recorded_same (t : Strand) (r : TrapRec) (p : Posting) : t.sameButTrap (t.recorded r p) := by
  cases p with
  | made b f =>
    have h : t.sameButTrap { t with trec := b, tcount := t.tcount + 1 } := ⟨_, _, _, _, _, _, _, _, _, _, _, _, _, rfl⟩
    unfold Strand.recorded
    dsimp only
    split
    · exact h
    · exact h.trans (holdOn_same _ _ _)
  | dropped => exact ⟨_, _, _, _, _, _, _, _, _, _, _, _, _, rfl⟩
  | overflow => exact holdOn_same _ _ _

theorem trapRecord_strand (s : State) (t : Strand) (r : TrapRec) : t.sameButTrap (s.trapRecord t r).2 :=
  (takePosted_same t _).trans (recorded_same _ _ _)

/-- Taking a trap. -/
theorem takeTrap_strand (s : State) (f : FaultInfo) (resume : Word) (vector : Bool) (widx : Nat) :
    s.me.sameButTrap (s.takeTrap f resume vector widx).me := by
  unfold State.takeTrap
  split
  · exact ⟨_, _, _, _, _, _, _, _, _, _, _, _, _, rfl⟩
  · dsimp only
    split
    · exact ⟨_, _, _, _, _, _, _, _, _, _, _, _, _, rfl⟩
    · exact trapRecord_strand _ s.me _

/-- The program counter stays at a word that faults (R90, R363). -/
theorem takeTrap_pc (s : State) (f : FaultInfo) (resume : Word) (vector : Bool) (widx : Nat) :
    (s.takeTrap f resume vector widx).me.pc = s.me.pc := by
  obtain ⟨_, _, _, _, _, _, _, _, _, _, _, _, _, h⟩ := takeTrap_strand s f resume vector widx
  rw [h]

/-- The registers stay. -/
theorem takeTrap_x (s : State) (f : FaultInfo) (resume : Word) (vector : Bool) (widx : Nat) :
    (s.takeTrap f resume vector widx).me.x = s.me.x := by
  obtain ⟨_, _, _, _, _, _, _, _, _, _, _, _, _, h⟩ := takeTrap_strand s f resume vector widx
  rw [h]

/-- So do the vector registers. -/
theorem takeTrap_vregs (s : State) (f : FaultInfo) (resume : Word) (vector : Bool) (widx : Nat) :
    (s.takeTrap f resume vector widx).me.vregs = s.me.vregs := by
  obtain ⟨_, _, _, _, _, _, _, _, _, _, _, _, _, h⟩ := takeTrap_strand s f resume vector widx
  rw [h]

/-! ## The frame of a vector word -/

theorem heads_ready {i : Instr} {s : State} {c : VCtx} (h : s.heads i c) :
    (s.grantUnits (instrUnits i)).beforeWords [i] = s.grantUnits (instrUnits i) ∧
      (s.grantUnits (instrUnits i)).fenceWaits [i] = false := by
  obtain ⟨_, _, _, hw⟩ := h
  have hd : (s.grantUnits (instrUnits i)).me = s.me := by
    unfold State.grantUnits
    split <;> rfl
  unfold State.beforeWords State.fenceWaits State.payDebts
  rw [hd]
  rcases hw with hw | hw
  · simp [hw]
  · simp [hw]

theorem vectorStep_ok {i : Instr} {run : VRun} {s : State} {c : VCtx} (h : s.heads i c) {t : State}
    (hr : run c (s.grantUnits (instrUnits i)) = .ok t) : vectorStep i run s = .next (t.retire 1) := by
  obtain ⟨hb, hf⟩ := heads_ready h
  obtain ⟨_, rfl, hc, _⟩ := h
  unfold vectorStep
  simp [hc, hb, hf, hr]

theorem vectorStep_fault {i : Instr} {run : VRun} {s : State} {c : VCtx} (h : s.heads i c) {f : FaultInfo}
    (hr : run c (s.grantUnits (instrUnits i)) = .error (.fault f)) :
    vectorStep i run s = .next ((s.grantUnits (instrUnits i)).convoyTrap f 0) := by
  obtain ⟨hb, hf⟩ := heads_ready h
  obtain ⟨_, rfl, hc, _⟩ := h
  unfold vectorStep
  simp [hc, hb, hf, hr]

/-- A word that fails a decode check traps, and nothing of it runs (R88). -/
theorem vectorStep_check {i : Instr} {run : VRun} {s : State} {f : FaultInfo}
    (h : s.wordCheck s.vctx.ctl.vtype i s.vctx.addr = some f) : vectorStep i run s = .next (s.convoyTrap f 0) := by
  unfold vectorStep
  simp only [h]

@[simp] theorem grantUnits_nil (s : State) : s.grantUnits [] = s := rfl

/-- Retirement after a change of vector registers. -/
theorem retire_setVregs (s : State) (m : Image) :
    (s.setVregs m).retire 1 = { s with me := { s.me.nextWord s.vctx.addr with vregs := m } } := by
  unfold State.retire State.setVregs Strand.setVpc State.vctx Strand.nextWord
  dsimp only
  cases hq : s.me.queue <;> simp

/-- A word that names no unit and writes vector registers. -/
theorem vcomputes_of_vregs {i : Instr} {run : VRun} {s : State} {c : VCtx} {P : Image → Image → Prop} {m' : Image}
    (he : exec i s = vectorStep i run s) (h : s.heads i c) (hu : instrUnits i = [])
    (hr : run c s = .ok (s.setVregs m')) (hp : P s.me.vregs m') : VComputes s i c P := by
  refine ⟨m', ?_, hp⟩
  rw [he, vectorStep_ok h (t := s.setVregs m') (by rw [hu]; exact hr), retire_setVregs, h.2.1]

/-- Element writes at a width of a format. -/
theorem wrote_vsetAll (s : State) (c : VCtx) (r : BitVec 6) (f : Nat) (is : List Nat) (hn : is.Nodup) (v : Nat → Nat) :
    Wrote s.me.vregs (vwriteAll s.me.vregs (c.rb s) r.toNat (ew f) (is.map fun i => (i, v i))) (c.rb s) r.toNat (ew f)
      (fun i => i ∈ is) v :=
  Wrote.ofList (ew_cases f) (fitsKeys_ew _ _ f) _ _ is hn v

/-! ## Firmware, and the end of a step -/

theorem firmwareStep_on {f : State → State} {s : State} (h : s.firmware = true) : firmwareStep f s = .next (f s) := by
  unfold firmwareStep
  rw [if_pos h]

theorem firmwareStep_off {f : State → State} {s : State} (h : s.firmware = false) : firmwareStep f s = .next s := by
  unfold firmwareStep
  rw [h]
  rfl

theorem afterStep_next (t : State) : afterStep (.next t) = .next t.tick := rfl

end Sys2Proof.Machine
end

