-- ==== Sys2Proof/Tests/Slice0.lean ====
section
/-! SUPPORT. The smoke tests of well-formedness, the decoding of words that the spec writes out, small results, and a state and
operands that meet the hypotheses of each statement. -/
namespace Sys2Proof.Tests
open Sys2Proof.Machine

set_option Elab.async false
/-! ## Well-formedness: an ill-formed term for each check -/

/-- The fields of a vector word whose fields are all zero. -/
def blank : VWord :=
  { last := false, m := false, vd := 0, va := 0, vb := 0, vc := 0, fmt := 0, xl := 0, clr := 0, rm := 0, fn := 0 }

/-- VADD.I32 v4, v2, v3. -/
def sampleAdd : VWord := { blank with vd := 4, va := 2, vb := 3, fmt := 4 }

theorem test_wf_accepts : (Instr.wf (.vadd sampleAdd) && Instr.wf (.amoadd 1 2 3 3 true true 5) &&
    Instr.wf (.fenceC 4 6) && Instr.wf (.fenceX 3 0 3) && Instr.wf (.barrier 5 2) && Instr.wf (.stopat 7 6 4) &&
    Instr.wf (.timerd 1 3)) = true := by decide
-- scalar words: an atomic's width and scope, a fence's scope, colours and classes, the scopes and counters
theorem test_wf_atomic_width : Instr.wf (.amoadd 1 2 3 1 false false 0) = false := by decide
theorem test_wf_atomic_scope : Instr.wf (.amocas 1 2 3 3 false false 6) = false := by decide
theorem test_wf_fence_colours : Instr.wf (.fenceC 3 0) = false := by decide
theorem test_wf_fence_scope : (Instr.wf (.fenceC 6 1) || Instr.wf (.fenceX 6 0 1)) = false := by decide
theorem test_wf_fence_classes : (Instr.wf (.fenceX 0 2 2) || Instr.wf (.fenceX 0 5 1) || Instr.wf (.fenceX 0 1 5)) = false := by
  decide
theorem test_wf_barrier_scope : (Instr.wf (.barrier 1 0) || Instr.wf (.barrier 1 5)) = false := by decide
theorem test_wf_stopat_scope : (Instr.wf (.stopat 1 2 0) || Instr.wf (.stopat 1 2 5)) = false := by decide
theorem test_wf_timer : Instr.wf (.timerd 1 4) = false := by decide
-- vector words: a field that the word does not use
theorem test_wf_unused_register : Instr.wf (.vadd { sampleAdd with vc := 1 }) = false := by decide
-- a scalar register, a tile, a packed register and a table of the scan unit out of range
theorem test_wf_scalar_register : Instr.wf (.vld { blank with vd := 4, va := 32, fmt := 4 }) = false := by decide
theorem test_wf_tile : Instr.wf (.tfill { blank with vd := 8 }) = false := by decide
theorem test_wf_packed : Instr.wf (.ptld { blank with vd := 8, va := 8 }) = false := by decide
theorem test_wf_scan_register : Instr.wf (.sld { blank with vd := 4, fmt := 4 }) = false := by decide
-- a format, a mask, a modifier, a colour and a rounding that the word does not take
theorem test_wf_format : Instr.wf (.vadd { sampleAdd with fmt := 8 }) = false := by decide
theorem test_wf_mask : Instr.wf (.vmerge { sampleAdd with m := true }) = false := by decide
theorem test_wf_modifier : (Instr.wf (.vadd { sampleAdd with xl := 1 }) ||
    Instr.wf (.vsplat { blank with vd := 4, fmt := 4, xl := 8 })) = false := by decide
theorem test_wf_colour : Instr.wf (.vadd { sampleAdd with clr := 1 }) = false := by decide
theorem test_wf_rounding : (Instr.wf (.vfadd { sampleAdd with fmt := 10, rm := 7 }) ||
    Instr.wf (.vadd { sampleAdd with rm := 6 })) = false := by decide
-- FN, a selector, v0 as the destination of a masked word, and a row's own selector
theorem test_wf_function : Instr.wf (.vadd { sampleAdd with fn := 3 }) = false := by decide
theorem test_wf_selector : Instr.wf (.vroute { blank with vd := 8, va := 4, vb := 9, vc := 8, fmt := 5 }) = false := by decide
theorem test_wf_masked_v0 : Instr.wf (.vadd { sampleAdd with vd := 0, m := true }) = false := by decide
theorem test_wf_row : (Instr.wf (.vsplat { blank with vd := 4, fmt := 4, fn := 1 }) ||
    Instr.wf (.vfsgnj { sampleAdd with fmt := 10, fn := 4 })) = false := by decide

/-! ## Decoding: the words that the spec writes out -/

-- sections 4 and 5, and the worked programs: the ALU family and the immediates
theorem test_decode_alu : decodeScalar 0x04642800 = .ok (.add 3 4 5) ∧ decodeScalar 0x09000007 = .ok (.addi 8 0 7) ∧
    decodeScalar 0x19080012 = .ok (.slli 8 8 18) ∧ decodeScalar 0x2DE0FF80 = .ok (.lui 15 0xFF80) ∧
    decodeScalar 0x12B55538 = .ok (.ori 21 21 0x5538) ∧ decodeScalar 0x0AD6FFFF = .ok (.addi 22 22 0xFFFF) := by decide
theorem test_decode_alu_corners : decodeScalar 0x046428 = .error .unassigned ∧ decodeScalar 0x0464280F = .error .unassigned ∧
    decodeScalar 0x04642818 = .error .unusedField := by decide
-- loads and stores
theorem test_decode_scalar_memory : decodeScalar 0x40C50010 = .ok (.ldI64 6 5 16) ∧
    decodeScalar 0x4A6B005B = .ok (.ldN8 19 11 0x5B) ∧ decodeScalar 0x6D340000 = .ok (.stI64 9 20 0) ∧
    decodeScalar 0x6AB40000 = .ok (.stI32 21 20 0) := by decide
-- atomics, CLAIM and fences
theorem test_decode_atomics : decodeScalar 0x714C58EB = .ok (.amoadd 10 12 11 3 false true 3) ∧
    decodeScalar 0x70B434F3 = .ok (.amocas 5 20 6 3 true false 3) ∧
    decodeScalar 0x7014A84B = .ok (.amoswap 0 20 21 2 false true 3) ∧
    decodeScalar 0x70F501D3 = .ok (.amoor 7 21 0 2 true false 3) ∧ decodeScalar 0x78CA5800 = .ok (.claim 6 10 11) := by decide
theorem test_decode_fences : decodeScalar 0x7C000000 = .ok .fsv ∧ decodeScalar 0x7C002000 = .ok .fvs ∧
    decodeScalar 0x7C004000 = .ok .fvv ∧ decodeScalar 0x7C007006 = .ok (.fenceC 4 6) ∧
    decodeScalar 0x7C008C0C = .ok (.fenceX 3 0 3) ∧ decodeScalar 0x7C008840 = .ok (.fenceX 2 2 0) := by decide
-- branches, shape and VFETCH
theorem test_decode_control : decodeScalar 0x8CE8FFFD = .ok (.bltN 7 8 0xFFFD) ∧ decodeScalar 0x80E0FFFF = .ok (.beq 7 0 0xFFFF) ∧
    decodeScalar 0x88E9FFFF = .ok (.blt 7 9 0xFFFF) ∧ decodeScalar 0xA0EB0002 = .ok (.setvl 7 11 2) ∧
    decodeScalar 0xB000000D = .ok (.vfetch 13) := by decide
-- TMOVE and TREL
theorem test_decode_tethers : decodeScalar 0xB40A5800 = .ok (.tmove 10 11) ∧ decodeScalar 0xB80A0000 = .ok (.trel 10) ∧
    decodeScalar 0xB80A0001 = .ok (.trelZ 10) := by decide
-- the system family, TRAP, the privileged family and the control registers
theorem test_decode_system : decodeScalar 0xC0A01002 = .ok (.barrier 5 2) ∧ decodeScalar 0xC134B803 = .ok (.launch 9 20 23) ∧
    decodeScalar 0xC12C0004 = .ok (.colstart 9 12) ∧ decodeScalar 0xC0640007 = .ok (.tickwait 3 4) ∧
    decodeScalar 0xC0E61809 = .ok (.stopat 7 6 3) ∧ decodeScalar 0xC274000A = .ok (.brform 19 20) ∧
    decodeScalar 0xC2C0000B = .ok (.brwait 22) ∧ decodeScalar 0xC00A000D = .ok (.xunfold 10) := by decide
theorem test_decode_privileged : decodeScalar 0xC40A0040 = .ok (.trap 10 0x40) ∧ decodeScalar 0xC8042803 = .ok (.tlbinv 4 5) ∧
    decodeScalar 0xE8E00002 = .ok (.crrd 7 2) ∧ decodeScalar 0xEC090003 = .ok (.crwr 9 3) ∧
    decodeScalar 0xEC090204 = .ok (.crwr 9 0x204) := by decide
-- vector arithmetic, compares and conversions
theorem test_decode_vector_arithmetic : decodeVector 0x0404083008000000 = .ok (.vadd sampleAdd) ∧
    decodeVector 0x840A08200AD00000 = .ok (.vadd { blank with last := true, vd := 10, va := 2, vb := 2, fmt := 5, xl := 13 }) ∧
    decodeVector 0x850D31500A000001 = .ok (.vmulh { blank with last := true, vd := 13, va := 12, vb := 21, fmt := 5, fn := 1 }) ∧
    decodeVector 0x8C0009400A000015 = .ok (.vcmp { blank with last := true, va := 2, vb := 20, fmt := 5, fn := 0x15 }) ∧
    decodeVector 0xC30C253394018001 = .ok (.vfma { blank with
      last := true, m := true, vd := 12, va := 9, vb := 19, vc := 14, fmt := 10, rm := 6, fn := 1 }) ∧
    decodeVector 0xCD0A24000800800A = .ok (.vcvt { blank with
      last := true, m := true, vd := 10, va := 9, fmt := 4, rm := 2, fn := 10 }) := by decide
-- reductions, lookups and routing
theorem test_decode_cross : decodeVector 0x9015100008000000 = .ok (.vredsum { blank with last := true, vd := 21, va := 4, fmt := 4 }) ∧
    decodeVector 0xD21220F014000000 = .ok (.vfredmax { blank with last := true, m := true, vd := 18, va := 8, vb := 15, fmt := 10 }) ∧
    decodeVector 0x938414300A000045 = .ok (.vlut { blank with last := true, vd := 4, va := 5, vb := 3, fmt := 5, fn := 0x45 }) ∧
    decodeVector 0x948810918A000000 = .ok (.vroute { blank with last := true, vd := 8, va := 4, vb := 9, vc := 6, fmt := 5 }) ∧
    decodeVector 0x950610000E000000 = .ok (.ixlook { blank with last := true, vd := 6, va := 4, fmt := 7 }) := by decide
-- vector memory, atomics, VWAIT and VTMOVE
theorem test_decode_vector_memory :
    decodeVector 0x2003280008000058 = .ok (.vld { blank with vd := 3, va := 10, fmt := 4, fn := 0x58 }) ∧
    decodeVector 0xA80214000A000000 = .ok (.vst { blank with last := true, vd := 2, va := 5, fmt := 5 }) ∧
    decodeVector 0xE106144248000020 = .ok (.vldxb { blank with
      last := true, m := true, vd := 6, va := 5, vb := 4, vc := 9, fmt := 4, fn := 0x20 }) ∧
    decodeVector 0xA907184148000560 = .ok (.vamoadd { blank with
      last := true, vd := 7, va := 6, vb := 4, vc := 5, fmt := 4, fn := 0x560 }) ∧
    decodeVector 0xA1C05020C8000040 = .ok (.vwait { blank with last := true, va := 20, vb := 2, vc := 3, fmt := 4, fn := 0x40 }) ∧
    decodeVector 0xA149300000000020 = .ok (.vskein { blank with last := true, vd := 9, va := 12, fn := 0x20 }) ∧
    decodeVector 0xA980284140000000 = .ok (.vtmove { blank with last := true, va := 10, vb := 4, vc := 5 }) := by decide
-- tiles, braids and the structured-data unit
theorem test_decode_matrix : decodeVector 0x3001086012018000 = .ok (.topadd { blank with vd := 1, va := 2, vb := 6, fmt := 9, rm := 6 }) ∧
    decodeVector 0xB0C120601201809F = .ok (.brtopadd { blank with
      last := true, vd := 1, va := 8, vb := 6, fmt := 9, rm := 6, fn := 0x9F }) ∧
    decodeVector 0xB183000000000000 = .ok (.tfill { blank with last := true, vd := 3 }) ∧
    decodeVector 0xB340000000000000 = .ok (.sdscan { blank with last := true }) ∧
    decodeVector 0xB3400C0300002000 = .ok (.sdscanMem { blank with last := true, va := 3, vc := 12, fn := 0x2000 }) ∧
    decodeVector 0x33C8100014000000 = .ok (.sdfin { blank with vd := 8, va := 4, fmt := 10 }) := by decide
/-! ## Witnesses: a state and operands that meet the hypotheses of each statement -/

/-- A strand of slot 0 on core 0, unprivileged, at 0x200000, nothing queued. -/
def bare : State := { State.reset with me := readyStrand }

/-- The same, with one page of 2 MB that it may read, write and fetch. -/
def paged : State := State.reset.ready

/-- Scalar registers of the executing strand. -/
def withX (s : State) (l : List (Nat × Word)) : State := l.foldl (fun s e => s.xset (BitVec.ofNat 5 e.1) e.2) s

/-- The executing strand made another. -/
def withMe (s : State) (f : Strand → Strand) : State := { s with me := f s.me }

/-- x5 points into the page, x6 to a line further on. -/
def mem0 : State := withX paged [(5, 0x200010), (6, 0x200080), (7, 5), (8, 0xFFFFFFFFFFFFFFFF)]

/-- Firmware's doing: a privileged strand. -/
def boss (s : State) : State := withMe s fun t => { t with priv := true }

/-- A queued block at the next line. -/
def blockAt (va : Word) : QEntry := { target := va, vpc := va, ctl := readyStrand.ctl, direct := false, caps := [], writes := [], work := [] }

theorem near {s : State} {pa k : Nat} (h : s.region pa = .hbm k) : ∀ m, s.region pa = .remote m → s.portOpen m = true := by
  intro m hm; rw [h] at hm; cases hm

theorem noTag {s : State} {pa k : Nat} (h : s.region pa = .hbm k) {P : Prop} : (∃ c, s.region pa = .tagWindow c) → P := by
  rintro ⟨c, hc⟩; rw [h] at hc; cases hc

theorem wit_RegisterResults : bare.issues [1, 2, 3] ∧ (withMe bare fun t => { t with queue := [blockAt 0x200100] }).issues [0, 31] := by
  unfold State.issues; decide

theorem wit_LoadResults : mem0.issues [3, 5] ∧ ScalarGoes mem0.settleFirst ∧ mem0.settleFirst.heldWrites = [] ∧
    (mem0.xget 5 + (-8 : BitVec 16).signExtend 64).toNat % 8 = 0 ∧
    ∃ p : Probed, mem0.settleFirst.probeRead mem0.settleFirst.me.ptroot (mem0.xget 5 + (-8 : BitVec 16).signExtend 64) true = .ok p ∧
      p.pa = 0x4000200008 ∧
      ((∃ c, mem0.settleFirst.region p.pa = .tagWindow c) → (4 : Nat) = 8) ∧ Readable mem0.settleFirst p.pa :=
  ⟨by unfold State.issues; decide, by decide, by decide, by decide, _, rfl, by decide, noTag (k := 0) (by decide), by decide,
    by decide, near (k := 0) (by decide)⟩

/-- Sixteen stores stand in the buffer. -/
def fullBuffer (s : State) : State :=
  s.setCore 0 { s.core 0 with sbuf := (List.range 16).map fun k =>
    { slot := 1, path := 5, pa := hbmBase + 0x300000 + 128 * k, bytes := [(0x5A, 0xFF)], colour := 0, via := [], word := 0,
      heal := false } }

theorem wit_StoreWordResults : mem0.issues [7, 5] ∧ ScalarGoes (mem0.beforeStore 0x200010 8) ∧
    ScalarGoes ((fullBuffer mem0).beforeStore 0x200010 8) ∧ (mem0.xget 5).toNat % 8 = 0 ∧
    sbufEntries ((mem0.beforeStore 0x200010 8).core 0).sbuf < 16 ∧
    (∃ p : Probed, (mem0.beforeStore 0x200010 8).probe (mem0.beforeStore 0x200010 8).me.ptroot 0x200010 .write true = .ok p ∧
      p.pa % 8 = 0 ∧ (mem0.beforeStore 0x200010 8).region p.pa = .hbm 0) ∧
    sbufEntries (((fullBuffer mem0).beforeStore 0x200010 8).core 0).sbuf = 16 ∧
    (∃ p : Probed, ((fullBuffer mem0).beforeStore 0x200010 8).probe ((fullBuffer mem0).beforeStore 0x200010 8).me.ptroot
      0x200010 .write true = .ok p ∧ p.pa % 8 = 0 ∧ ((fullBuffer mem0).beforeStore 0x200010 8).region p.pa = .hbm 0 ∧
      ∀ y, (((fullBuffer mem0).beforeStore 0x200010 8).core 0).sbuf.getLast? = some y → y.pa ≠ p.pa / 8 * 8) :=
  ⟨by unfold State.issues; decide, by decide, by decide, by decide, by decide, ⟨_, rfl, by decide, by decide⟩, by decide,
    ⟨_, rfl, by decide, by decide, by decide⟩⟩

theorem wit_StoreLeavesItsQueue : ∃ e es, ((fullBuffer bare).core 0).sbuf = e :: es ∧
    (∀ y, es.head? = some y → y.joined = false) ∧
    (fullBuffer bare).tether ((fullBuffer bare).follow e.pa) = .plain ∧
    (∀ h ∈ (fullBuffer bare).heldWrites, ¬ (h.core = 0 ∧ h.entry.path = e.path)) ∧
    (∀ m, (fullBuffer bare).region ((fullBuffer bare).follow e.pa) = .remote m → (fullBuffer bare).portOpen m = true) ∧
    (∀ j, j < e.bytes.length → (fullBuffer bare).canon ((fullBuffer bare).follow e.pa + j) = (fullBuffer bare).follow e.pa + j) ∧
    (fullBuffer bare).follow e.pa % 128 + e.bytes.length ≤ 128 :=
  ⟨_, _, rfl, by decide, by decide, by decide, near (k := 0) (by decide), by decide, by decide⟩

theorem atomic_mem0 (n : Nat) (hn : n = 8 ∨ n = 16) : ∃ w, AtomicAt mem0 w 0x200010 n 0x4000200010 (decide (n = 8)) := by
  rcases hn with rfl | rfl <;>
    exact ⟨_, by decide, _, _, by decide, rfl, by decide, by decide, rfl, by decide, ⟨by decide, by decide, near (k := 0) (by decide)⟩,
      fun _ => ⟨by decide, by decide⟩, rfl, by decide, by unfold State.plainBytes; decide⟩

theorem wit_AtomicWordResults : mem0.issues [1, 5, 7] ∧ ∃ w, AtomicAt mem0 w (mem0.xget 5) 8 0x4000200010 true :=
  ⟨by unfold State.issues; decide, atomic_mem0 8 (.inl rfl)⟩

theorem wit_ClaimResult : mem0.issues [1, 5, 7] ∧ mem0.capture = 0 ∧ ∃ w, AtomicAt mem0 w (mem0.xget 5) 16 0x4000200010 false :=
  ⟨by unfold State.issues; decide, by decide, atomic_mem0 16 (.inr rfl)⟩

theorem wit_ClaimResult_replay : ({ mem0 with capture := 2 } : State).capture.getLsbD 1 = true ∧
    ({ mem0 with capture := 2 } : State).replayClaim = none := by decide

theorem wit_AddrEqResult : mem0.issues [1, 5, 6] ∧ ScalarGoes mem0.beforeMove ∧
    mem0.beforeMove.stillHeld mem0.me.core mem0.me.slot (fun o => o.path = 5) = false ∧
    (∃ p : Probed, mem0.beforeMove.probeRead mem0.beforeMove.me.ptroot (mem0.xget 5) true = .ok p ∧
      ∀ k, mem0.beforeMove.region p.pa ≠ .tagWindow k) ∧
    ∃ q : Probed, mem0.beforeMove.probeRead mem0.beforeMove.me.ptroot (mem0.xget 6) true = .ok q ∧
      ∀ k, mem0.beforeMove.region q.pa ≠ .tagWindow k :=
  ⟨by unfold State.issues; decide, by decide, by decide, ⟨_, rfl, fun k h => noTag (k := 0) (by decide) ⟨k, h⟩⟩,
    ⟨_, rfl, fun k h => noTag (k := 0) (by decide) ⟨k, h⟩⟩⟩

/-- The strand with one block queued and a posted fault of each engine. -/
def queued (s : State) : State := withMe s fun t => { t with queue := [blockAt 0x200100] }

theorem wit_FenceResults : bare.issues [] ∧ bare.me.queue = [] ∧ (queued bare).issues [] ∧ (queued bare).me.queue ≠ [] ∧
    (bare.settleCopies (clusterOf bare.me.core) (fun c => c.owner = bare.me.owner)).me.postedCpy = [] ∧
    (bare.settleStacks bare.me.owner).me.postedStk = [] ∧ (∀ c ∈ bare.collectives, c.owner = bare.me.owner → c.status ≠ none) := by
  unfold State.issues; decide

theorem wit_BranchAndJumpResults : mem0.issues [1, 5, 7] ∧ mem0.xget 5 ≠ mem0.xget 7 ∧
    (mem0.xget 8).toInt < (mem0.xget 7).toInt ∧ (mem0.xget 7).toNat < (mem0.xget 8).toNat ∧
    (BitVec.ofInt 64 ((mem0.xget 7).toInt + (-1 : BitVec 16).toInt)).toNat % 4 = 0 ∧
    (BitVec.ofInt 64 ((mem0.xget 7).toInt + (1 : BitVec 16).toInt)).toNat % 4 ≠ 0 := by
  unfold State.issues; decide

/-- A recorded change of shape. -/
def reshaping (s : State) : State := withMe s fun t => { t with pend := true, recd := 3, left := 4096 }

theorem wit_ShapeResults : bare.issues [1, 2] ∧ bare.me.reshapes = false ∧ (reshaping bare).me.reshapes = true ∧
    (reshaping bare).me.queue = [] ∧ (queued (reshaping bare)).issues [1, 2] ∧ (queued (reshaping bare)).me.reshapes = true ∧
    (queued (reshaping bare)).me.queue ≠ [] := by
  unfold State.issues; decide

/-- A strip of 8 elements, x7 counts and x5 points: entry 0 of STRIPCFG advances x5 by 4-byte elements. -/
def looping (s : State) : State :=
  withMe s fun t => { t with ctl := { t.ctl with vl := 8, stripcfg := 5 * 8 + 2 } }

theorem wit_StripResult : mem0.me.ctl.vl = 0 ∧ mem0.issues [7, 3] ∧ (looping mem0).me.ctl.vl ≠ 0 ∧
    (looping mem0).issues (3 :: stripRegs (looping mem0) 7) ∧ (looping mem0).me.reshapes = false := by
  unfold State.issues; decide

theorem wit_WhileResult : nregOf mem0.me.ctl.vtype ≤ (31 : Reg).toNat ∧ mem0.issues [7] ∧
    (3 : Reg).toNat < nregOf (looping mem0).me.ctl.vtype ∧ (looping mem0).me.queue = [] ∧ FirstZero (looping mem0) 3 0 := by
  unfold State.issues FirstZero; decide

theorem wit_WhileResult_full : ∃ s : State, (3 : Reg).toNat < nregOf s.me.ctl.vtype ∧ s.me.ctl.vl ≠ 0 ∧ s.me.queue = [] ∧
    FirstZero s 3 s.me.ctl.vl.toNat :=
  ⟨withMe (looping mem0) fun t => { t with vregs := (List.range 64).map fun b => (65536 * 3 + b, 1) }, by
    unfold FirstZero; decide⟩

theorem wit_FetchResult : bare.issues [] ∧ (BitVec.ofInt 64 (bare.me.pc.toInt + 4 * (1 : BitVec 21).toInt)).toNat % 8 ≠ 0 ∧
    (BitVec.ofInt 64 (bare.me.pc.toInt + 4 * (2 : BitVec 21).toInt)).toNat % 8 = 0 ∧ bare.me.queue.length < 8 ∧
    bare.me.queue = [] ∧ ∃ c, ScannedAs bare 0x200008 c ∧ c.ok = false := by
  refine ⟨by unfold State.issues; decide, by decide, by decide, by decide, by decide, bare.scan bare.me.ctl.vtype 0x200008, ?_, by decide⟩
  unfold ScannedAs
  rw [show ((bare.blockAddr 0x200008).bind fun a => (bare.core bare.me.core).scans.find? fun e => e.block = a) = none by decide]

/-- A block of one word, VADD.I32 v4, v2, v3, and VSTOP. -/
def twoWords : State := (paged.layBytes 0x200008 (leBytes 8 0x8404083008000000)).layBytes 0x200010 (leBytes 8 0xBF80000000000000)

theorem wit_FetchResult_small : let c := twoWords.scan twoWords.me.ctl.vtype 0x200008
    ((twoWords.blockAddr 0x200008).bind fun a => (twoWords.core twoWords.me.core).scans.find? fun e => e.block = a) = none ∧ c.ok = true ∧
    c.reads.length ≤ 16 ∧ ∀ r ∈ c.reads, twoWords.me.pending r = false := by decide

/-- The same block, after its first VFETCH: its sets are kept. -/
theorem wit_FetchResult_kept : (match exec (.vfetch 2) twoWords with
    | .next u => ((u.blockAddr 0x200008).bind fun a => (u.core u.me.core).scans.find? fun e => e.block = a).isSome
    | _ => false) = true := by decide +kernel

theorem wit_ControlRegisters : bare.issues [1] ∧ bare.me.trec.length = 64 ∧ bare.me.priv = false ∧ (boss bare).me.priv = true ∧
    ((bare.core bare.me.core).units.map fun e => e.1).Nodup := by
  unfold State.issues; decide
/-- Slot 0 holds tile 2 and the scratchpad. -/
def holding (s : State) : State := s.setCore 0 { s.core 0 with units := [(2, 0), (20, 0)], tiles := [(32768 * 2 + 5, 0x77)] }

theorem wit_UnitsReleased : (holding bare).me.queue = [] ∧
    (∀ tile, (holding bare).openTile (holding bare).me = some tile → (tile, 0) ∉ ((holding bare).core 0).units) ∧
    (∀ e ∈ ((holding bare).core 0).units, ∀ e' ∈ ((holding bare).core 0).units, e.1 = e'.1 → e = e') ∧
    (∀ e ∈ ((holding bare).core 0).units, e.1 < 21) ∧ (withX (holding bare) [(1, 4)]).xget 1 = 4 ∧
    (withX (holding bare) [(1, 0x200000)]).xget 1 = 0x200000 ∧ (queued (holding bare)).me.queue ≠ [] ∧
    (queued (holding bare)).issues [1] :=
  ⟨by decide, fun tile h => (nomatch (h : (none : Option Nat) = some tile)), by decide, by decide, by decide, by decide, by decide,
    by unfold State.issues; decide⟩

/-- The core's trap queue, of 4 records and registered in the HBM, with WR as given. -/
def trapping (wr : Nat) (s : State) : State :=
  ({ s with trapqs := [{ q := 0, addr := hbmBase + 0x400000, wr := wr, seq := 9, dropn := 0 }] }.putBytes (hbmBase + 0x400000)
    (leBytes 8 (hbmBase + 0x400080))).putBytes (hbmBase + 0x400018) [2]

/-- The hardware's own writes are performed at once, as a test. -/
def hwOk (u : State) (a n : Nat) : Bool :=
  (List.range n).all fun j => u.canon (a + j) == a + j && u.tether (a + j) == .plain &&
    match u.region (a + j) with | .hbm _ => true | _ => false

theorem hw_of {u : State} {a n : Nat} (h : hwOk u a n = true) : HwPlain u a n := by
  intro j hj
  have h := List.all_eq_true.mp h j (List.mem_range.mpr hj)
  simp only [Bool.and_eq_true, beq_iff_eq] at h
  obtain ⟨⟨h1, h2⟩, h3⟩ := h
  refine ⟨h1, h2, ?_, fun m hm => ?_⟩
  · intro hm; rw [hm] at h3; cases h3
  · rw [hm] at h3; cases h3

theorem wit_TrapEntry : FaultKind.cls .misaligned = 0 ∧ FaultKind.cls .tetherLong = 0 ∧ FaultKind.cls .braidShare = 2 ∧
    Finishes bare ∧ bare.trapqs.find? (fun q => q.q = bare.me.logical && bare.trapBase q ≠ 0) = none ∧
    (∀ wr, wr = 2 ∨ wr = 3 ∨ wr = 4 → let u := (trapping wr bare).finishStrand bare.me
      Finishes (trapping wr bare) ∧ ∃ q, u.trapqs.find? (fun q => q.q = bare.me.logical && u.trapBase q ≠ 0) = some q ∧
        (q.wr + 2 ^ 64 - u.hwRead (q.addr + 16) 8) % 2 ^ 64 = wr ∧ 2 ^ u.trapLgn q = 4 ∧
        HwPlain u (u.trapBase q + 64 * (q.wr % 4)) 64 ∧ HwPlain u q.addr 32 ∧ q.addr + 32 ≤ u.trapBase q) ∧
    bare.me.disarms = [] ∧ bare.issues [1] ∧ FaultKind.cls .softwareTrap = 0 :=
  ⟨by decide, by decide, by decide, by decide, by decide, by
    rintro wr (rfl | rfl | rfl) <;> exact ⟨by decide, _, rfl, by decide +kernel, by decide +kernel, hw_of (by decide +kernel),
      hw_of (by decide +kernel), by decide +kernel⟩, by decide, by unfold State.issues; decide, by decide⟩

/-- Slot 1 of the core holds another strand, as given; the executing one is privileged, x1 names the slot, x2 the action. -/
def serving (f : Strand → Strand) : State :=
  withX { boss bare with strands := [f { readyStrand with slot := 1 }] } [(1, 1), (2, 0), (3, 4), (4, 1)]

theorem wit_TrapReturn : ∀ h, h = Held.replayable 0x200040 false ∨ h = Held.replayable 0x200048 true ∨ h = Held.fatal ∨ h = Held.no →
    let s := serving fun t => { t with held := h, mark := true }
    s.issues [1, 2] ∧ ScalarGoes s.settleFirst ∧ s.me.priv = true ∧ s.me.placed = true ∧ (s.xget 1).toNat < 4 ∧
      (s.xget 2).toNat = 0 ∧ (s.xget 4).toNat = 1 ∧ 4 ≤ (s.xget 3).toNat ∧ ∃ t, ServedBy s.settleFirst 1 t ∧ t.held = h ∧
      t.issued = none := by
  rintro h (rfl | rfl | rfl | rfl) <;>
    exact ⟨by unfold State.issues; decide, by decide, by decide, by decide, by decide, by decide, by decide, by decide,
      _, ⟨by decide, rfl, by decide⟩, by decide, by decide⟩

/-- A write of the strand in slot 1 is held for module 9, which no route reaches. -/
def heldBack : State := { serving id with
  portHeld := [{ module_ := 9, addr := 0x1240000000000, bytes := [(1, 0xFF)], heal := false,
                 origin := { core := some 0, slot := 1, path := 5 } }] }

theorem wit_TrapReturn_held : ServedBy { heldBack with halts := [⟨1, 0, 1⟩] } 1 { readyStrand with slot := 1 } ∧
    (heldBack.settleFirst.finishStrand { readyStrand with slot := 1 }).unfinished { readyStrand with slot := 1 } = true :=
  ⟨⟨by decide, rfl, by decide⟩, by decide⟩

theorem wit_TrapReturn_none : ∀ t, ¬ ServedBy (serving id).settleFirst 3 t := by
  rintro t ⟨-, h, -⟩; exact nomatch (h : (none : Option Strand) = some t)

theorem wit_PrivilegeFaults : bare.issues [1, 2, 3] ∧ ScalarGoes bare.settleFirst ∧ bare.me.priv = false ∧
    1 < (2 : BitVec 5).toNat ∧ 0x0201 ≤ (0x0204 : BitVec 16).toNat ∧ (bare.xget 1).toNat < 3 ∧
    ∀ k, k < 4 → (bare.xget 1).toNat / 2 ^ (16 * k + 2) % 2 ^ 14 = 0 := by
  unfold State.issues; decide

/-- The strand is parked on TICKWAIT until count 100. -/
def waiting (now : Word) : State := { withMe bare fun t => { t with parked := .tickwait 100 3 } with ptpNs := now }

theorem wit_TimeResults : mem0.issues [1, 7] ∧ (mem0.xget 0).toNat ≤ mem0.ptpNs.toNat ∧ mem0.ptpNs.toNat < (mem0.xget 7).toNat ∧
    (waiting 100).me.placed = true ∧ (waiting 100).me.parked = .tickwait 100 3 ∧ (waiting 100).halted 0 = false ∧
    (100 : Word).toNat ≤ (waiting 100).ptpNs.toNat ∧ (waiting 99).ptpNs.toNat < (100 : Word).toNat := by
  unfold State.issues; decide

/-- Counts armed on core 0 and on the package, one of them reached, and core 1 halted. -/
def cut : State := { withX bare [(2, 9096), (3, 9095)] with
  scc := 5000, armed := [⟨1, 0, 5000⟩, ⟨4, 0, 9000⟩], halts := [⟨1, 1, 4000⟩] }

/-- Firmware runs. -/
def managed (s : State) : State := { s with controller := { s.controller with image := some ([], 0) } }

theorem wit_CutResults : cut.issues [1, 2] ∧ (1 : BitVec 5).toNat ≤ 1 ∧ cut.scc.toNat + 4096 ≤ (cut.xget 2).toNat ∧
    (cut.xget 3).toNat < cut.scc.toNat + 4096 ∧
    cut.armed.find? (fun e' => e'.scope = 1 && e'.unit = 0 && cut.due e') = some ⟨1, 0, 5000⟩ ∧
    (managed cut).firmware = true ∧
    cut.halts.find? (fun h => h.scope = 1 && h.unit = 1) = some ⟨1, 1, 4000⟩ := by
  unfold State.issues; decide

theorem wit_UnitsGranted : (∀ u ∈ [2, 20], u < 21) ∧ (∃ e ∈ ((holding bare).core 0).units, e.1 = 2) ∧
    ∀ e ∈ ((holding bare).core 0).units, e.1 ≠ 3 := by decide
/-- The strand executes a block whose words work on eight elements; x8, x9 and x10 are captured as the addresses of three lines
and x11 as a count. -/
def vec (s : State) : State :=
  withMe s fun t => { t with queue := [{ blockAt 0x200100 with
    ctl := { t.ctl with vl := 8, vtype := 0x1C20A }, caps := [(8, 0x201000), (9, 0x202000), (10, 0x203000), (11, 4)] }] }

/-- The word stands at the head of the block and passes the decode checks. -/
def accepts (s : State) (i : Instr) : Bool :=
  (s.wordCheck s.vctx.ctl.vtype i s.vctx.addr).isNone && (worksOf [i] = [] || s.me.debts = [])

theorem heads_of {s : State} {i : Instr} (hq : s.me.queue ≠ []) (h : accepts s i = true) : s.heads i s.vctx :=
  ⟨hq, rfl, by simpa [accepts] using h⟩

theorem heads_all {s : State} {l : List Instr} (hq : s.me.queue ≠ []) (h : l.all (accepts s) = true) :
    ∀ i ∈ l, s.heads i s.vctx := fun i hi => heads_of hq (List.all_eq_true.mp h i hi)

def vec0 : State := vec paged

theorem vec0_queue : vec0.me.queue ≠ [] := by decide

/-- VFADD.F32 v4, v2, v3. -/
def sampleF : VWord := { sampleAdd with fmt := 10, rm := 6 }

def floats : List Instr :=
  [.vfadd sampleF, .vfsub { sampleF with m := true }, .vfmul { sampleF with fmt := 8, xl := 16 }, .vfdiv { sampleF with fmt := 9 },
   .vfsqrt { sampleF with vb := 0, fmt := 11, vd := 8, va := 6 }, .vfma { sampleF with vc := 5 }, .vfms { sampleF with vc := 5, fn := 1 },
   .vfnma { sampleF with vc := 5 }, .vfnms { sampleF with vc := 5 }, .vfrece { sampleF with vb := 0, rm := 0 },
   .vfrsqe { sampleF with vb := 0, rm := 0 }]

theorem wit_VectorFloatResults : ∀ i ∈ floats, vec0.heads i vec0.vctx := heads_all vec0_queue (by decide)

/-- Without rounding. -/
def sampleP : VWord := { sampleF with rm := 0 }

def patterns : List Instr :=
  [.vfmin sampleP, .vfmax sampleP, .vfsgnj sampleP, .vfsgnjn { sampleP with fn := 4 }, .vfsgnjx { sampleP with fn := 8 },
   .vfclass { sampleP with vb := 0, fmt := 12, fn := 0x1FF }]

theorem wit_VectorPatternResults : ∀ i ∈ patterns, vec0.heads i vec0.vctx := heads_all vec0_queue (by decide)

def integers : List Instr :=
  [.vadd sampleAdd, .vsub sampleAdd, .vrsub sampleAdd, .vmul { sampleAdd with fn := 1 }, .vmulh sampleAdd, .vdiv sampleAdd,
   .vrem { sampleAdd with fmt := 5 }, .vmin sampleAdd, .vmax sampleAdd, .vavg sampleAdd, .vand { sampleAdd with vb := 0, fn := 0x7E },
   .vor sampleAdd, .vxor sampleAdd, .vsll sampleAdd, .vsrl sampleAdd, .vsra sampleAdd, .vmadd { sampleAdd with vc := 5 },
   .vadds sampleAdd, .vsubs sampleAdd, .vmuls { sampleAdd with fmt := 1 }, .vabs { sampleAdd with vb := 0 },
   .vclz { sampleAdd with vb := 0 }, .vpopc { sampleAdd with vb := 0 }, .vaddm { sampleAdd with fmt := 5, vc := 8 },
   .vsubm { sampleAdd with fmt := 5, vc := 8 }, .vmulm { sampleAdd with fmt := 5, vc := 8 }]

theorem wit_VectorIntegerResults : isInt 4 = true ∧ ∀ i ∈ integers, vec0.heads i vec0.vctx :=
  ⟨by decide, heads_all vec0_queue (by decide)⟩

def compares : List Instr :=
  [.vcmp { sampleAdd with fn := 0x14 }, .vcmp { sampleP with fn := 0x1C }, .vmand { sampleAdd with fmt := 0 },
   .vmor { sampleAdd with fmt := 0 }, .vmxor { sampleAdd with fmt := 0, vd := 0, m := true }, .vmandn { sampleAdd with fmt := 0 }]

theorem wit_VectorCompareAndMaskResults : isInt 4 = true ∧ isInt 10 = false ∧
    (0x14 : BitVec 14).toNat / 4 % 16 < 6 ∧ (0x1C : BitVec 14).toNat / 4 % 16 < 8 ∧
    ∀ i ∈ compares, vec0.heads i vec0.vctx :=
  ⟨by decide, by decide, by decide, by decide, heads_all vec0_queue (by decide)⟩

def movers : List Instr :=
  [.vmerge sampleAdd, .vmv { sampleAdd with vb := 0 }, .vsplat { sampleAdd with vb := 0 }, .vsplatImm { sampleAdd with va := 0, vb := 0, fn := 3 },
   .vid { sampleAdd with vb := 0 }, .vcvt { sampleAdd with vb := 0, fn := 10, rm := 2 }, .vunpack { sampleAdd with vb := 8, fn := 5 }]

theorem wit_VectorMoveResults : ∀ i ∈ movers, vec0.heads i vec0.vctx := heads_all vec0_queue (by decide)

def reductions : List Instr :=
  [.vext { sampleAdd with vb := 11 }, .vredsum { sampleAdd with vd := 21 }, .vredmin { sampleAdd with vd := 21, m := true },
   .vredmax sampleAdd, .vredand sampleAdd, .vredor sampleAdd, .vredxor sampleAdd, .vfredmin sampleP, .vfredmax sampleP,
   .vfredsum sampleF]

theorem wit_ReductionResults : isInt 4 = true ∧ ∀ i ∈ reductions, vec0.heads i vec0.vctx :=
  ⟨by decide, heads_all vec0_queue (by decide)⟩

def scans : List Instr :=
  [.vmpop { sampleAdd with fmt := 0, vb := 0 }, .vmfirst { sampleAdd with fmt := 0, vb := 0 }, .viota { sampleAdd with vb := 0 },
   .vcompress { sampleAdd with vb := 0 }, .vexpand { sampleAdd with vb := 0 }]

theorem wit_MaskScanResults : ∀ i ∈ scans, vec0.heads i vec0.vctx := heads_all vec0_queue (by decide)

def lookups : List Instr :=
  [.vlut { sampleAdd with fmt := 5, fn := 0x45 }, .vperm sampleAdd, .vsldn { sampleAdd with vb := 11 }, .vslup { sampleAdd with vb := 11 },
   .vroute { sampleAdd with fmt := 5, vd := 8, va := 4, vb := 9, vc := 6 }]

theorem wit_LookupSlideAndRouteResults : ∀ i ∈ lookups, vec0.heads i vec0.vctx := heads_all vec0_queue (by decide)

def indexWords : List Instr :=
  [.ixins { sampleAdd with fmt := 6, vb := 6 }, .ixacc { sampleAdd with fmt := 7, vb := 6 }, .ixacc { sampleAdd with fmt := 11, vb := 6, rm := 6 },
   .ixlook { sampleAdd with fmt := 7, vb := 0 }, .ixdrain { sampleAdd with fmt := 6, va := 0, vb := 11, vc := 6, fn := 1 }]

theorem wit_IndexScratchpadResults : (∀ i ∈ indexWords, vec0.heads i vec0.vctx) ∧
    (∀ i ∈ indexWords, (vec (holding paged)).heads i (vec (holding paged)).vctx) ∧
    (∀ e ∈ (vec0.core 0).units, ∀ e' ∈ (vec0.core 0).units, e.1 = e'.1 → e = e') ∧ vec0.vctx.ctl.vl ≠ 0 ∧
    (queued paged).heads (.ixdrain { sampleAdd with fmt := 6, va := 0, vb := 11, vc := 6 }) (queued paged).vctx ∧
    (queued paged).vctx.ctl.vl = 0 :=
  ⟨heads_all vec0_queue (by decide), heads_all (by decide) (by decide), by decide, by decide, heads_of (by decide) (by decide),
    by decide⟩
/-- The checks of a read, as a test. -/
def readsOk (s : State) (va : Word) (n pa : Nat) : Bool :=
  va.toNat % n == 0 && (match s.probeRead s.me.ptroot va false with | .ok p => s.follow p.pa == pa | .error _ => false) &&
  (!s.badLine pa && !s.slowPending pa && (match s.region pa with | .remote _ => false | _ => true))

theorem readable_of {s : State} {pa : Nat}
    (h : (!s.badLine pa && !s.slowPending pa && (match s.region pa with | .remote _ => false | _ => true)) = true) : Readable s pa := by
  simp only [Bool.and_eq_true, Bool.not_eq_true'] at h
  exact ⟨h.1.1, h.1.2, fun m hm => by rw [hm] at h; cases h.2⟩

theorem reads_of {s : State} {va : Word} {n pa : Nat} (h : readsOk s va n pa = true) : ReadsAt s va n pa := by
  rw [readsOk, Bool.and_eq_true, Bool.and_eq_true, beq_iff_eq] at h
  obtain ⟨⟨h1, h2⟩, h3⟩ := h
  refine ⟨h1, ?_, readable_of h3⟩
  split at h2
  · rename_i p hp; exact ⟨p, hp, by simpa using h2⟩
  · cases h2

/-- Every worked element below eight passes. -/
theorem reads_all {s : State} {c : VCtx} {w : VWord} {va : Nat → Word} {n : Nat} {pa : Nat → Nat} (hv : c.vl = 8)
    (h : (List.range 8).all (fun e => readsOk s (va e) n (pa e)) = true) :
    ∀ e, s.works c w e → ReadsAt s (va e) n (pa e) := fun e he =>
  reads_of (List.all_eq_true.mp h e (List.mem_range.mpr (hv ▸ he.1)))

/-- The line that x8 names, and the checks of a write there. -/
def line8 : Nat := 0x4000201000

def writesOk (s : State) (va : Word) (n pa : Nat) : Bool :=
  va.toNat % n == 0 && (match s.probe s.me.ptroot va .write false with
    | .ok p => s.follow p.pa == pa && !s.slotMismatch p.pa | .error _ => false) && s.tether pa == .plain &&
  (!s.badLine pa && !s.slowPending pa && (match s.region pa with | .remote _ => false | _ => true)) &&
  (List.range n).all fun j => s.canon (pa + j) == pa + j && !s.hwOnly (pa + j) && !s.isOvf (pa + j)

theorem writes_of {s : State} {va : Word} {n pa : Nat} (h : writesOk s va n pa = true) : WritesAt s va n pa := by
  rw [writesOk, Bool.and_eq_true, Bool.and_eq_true, Bool.and_eq_true, Bool.and_eq_true, beq_iff_eq, beq_iff_eq] at h
  obtain ⟨⟨⟨⟨h1, h2⟩, h3⟩, h4⟩, h5⟩ := h
  simp only [Bool.and_eq_true, beq_iff_eq, Bool.not_eq_true', List.all_eq_true, List.mem_range] at h5
  refine ⟨h1, ?_, h3, readable_of h4, fun j hj => ⟨(h5 j hj).1.1, (h5 j hj).1.2, (h5 j hj).2⟩⟩
  split at h2
  · rename_i p hp; exact ⟨p, hp, by simpa using h2⟩
  · cases h2

/-- VLD.I32 v4, [x8]. -/
def sampleLd : VWord := { blank with vd := 4, va := 8, fmt := 4 }

def loadWords : List Instr :=
  [.vld sampleLd, .vlds { sampleLd with vb := 11 }, .vldx { sampleLd with vb := 6 }, .vldxb { sampleLd with vb := 6, vc := 11 }]

theorem wit_VectorLoadWordResults : (∀ i ∈ loadWords, vec0.heads i vec0.vctx) ∧ Still vec0 ∧
    (∀ e, vec0.works vec0.vctx sampleLd e → ReadsAt vec0 (vbase vec0.vctx sampleLd + BitVec.ofNat 64 (e * 4)) 4 (line8 + 4 * e)) ∧
    (∀ e, vec0.works vec0.vctx sampleLd e →
      ReadsAt vec0 (vbase vec0.vctx sampleLd + BitVec.ofNat 64 e * vec0.vctx.x 11) 4 (line8 + 4 * e)) ∧
    (∀ e, vec0.works vec0.vctx sampleLd e →
      ReadsAt vec0 (vbase vec0.vctx sampleLd + BitVec.ofInt 64 (voffset vec0 vec0.vctx 6 e)) 4 line8) ∧
    0 ≤ voffset vec0 vec0.vctx 6 0 ∧ voffset vec0 vec0.vctx 6 0 + (4 : Nat) ≤ (vec0.vctx.x 11).toNat :=
  ⟨heads_all vec0_queue (by decide), by decide, reads_all (by decide) (by decide), reads_all (by decide) (by decide),
    reads_all (by decide) (by decide), by decide, by decide⟩

theorem wit_SegmentLoadResult : vec0.heads (.vldseg { sampleLd with vb := 2, vc := 2 }) vec0.vctx ∧
    ∀ e f, vec0.works vec0.vctx { sampleLd with vb := 2, vc := 2 } e → f < 2 →
      ReadsAt vec0 (vbase vec0.vctx sampleLd + BitVec.ofNat 64 ((e * 2 + f) * 2)) 2 (line8 + (e * 2 + f) * 2) := by
  refine ⟨heads_of vec0_queue (by decide), fun e f he hf => reads_of ?_⟩
  have h : (List.range 8).all (fun e => (List.range 2).all fun f =>
      readsOk vec0 (vbase vec0.vctx sampleLd + BitVec.ofNat 64 ((e * 2 + f) * 2)) 2 (line8 + (e * 2 + f) * 2)) = true := by decide
  exact List.all_eq_true.mp (List.all_eq_true.mp h e (List.mem_range.mpr (lt_of_lt_of_eq he.1 (by decide)))) f (List.mem_range.mpr hf)

def storeWords : List Instr :=
  [.vst { sampleLd with clr := 3 }, .vsts { sampleLd with vb := 11 }, .vstx { sampleLd with vb := 6 },
   .vstseg { sampleLd with vb := 2, vc := 2 }]

theorem wit_VectorStoreResults : (∀ i ∈ storeWords, vec0.heads i vec0.vctx) ∧ (worked vec0 vec0.vctx sampleLd).length = 8 ∧
    ∀ k, k < 8 → (vbase vec0.vctx sampleLd + BitVec.ofNat 64 (k * 4)).toNat % 4 = 0 ∧
      ∃ p : Probed, vec0.probe vec0.me.ptroot (vbase vec0.vctx sampleLd + BitVec.ofNat 64 (k * 4)) .write false = .ok p ∧
        p.pa = line8 + 4 * k := by
  refine ⟨heads_all vec0_queue (by decide), by decide, fun k hk => ?_⟩
  have h : (List.range 8).all (fun k => (vbase vec0.vctx sampleLd + BitVec.ofNat 64 (k * 4)).toNat % 4 == 0 &&
      match vec0.probe vec0.me.ptroot (vbase vec0.vctx sampleLd + BitVec.ofNat 64 (k * 4)) .write false with
      | .ok p => p.pa == line8 + 4 * k | .error _ => false) = true := by decide
  have hk' := List.all_eq_true.mp h k (List.mem_range.mpr hk)
  simp only [Bool.and_eq_true, beq_iff_eq] at hk'
  refine ⟨hk'.1, ?_⟩
  have h2 := hk'.2
  split at h2
  · rename_i p hp; exact ⟨p, hp, by simpa using h2⟩
  · cases h2

/-- The record of a skein at x9: base 0x201000, one row of four elements of stride 4. -/
def skeinRecord (n : Nat) (s : State) : State :=
  s.putBytes 0x4000202000 (leBytes 8 0x201000 ++ leBytes 8 4 ++ leBytes 8 16 ++ leBytes 4 n ++ leBytes 4 1)

/-- A strand that has bound these registers. -/
def bound (l : List Nat) (s : State) : State := withMe s fun t =>
  { t with skeins := l.map fun r => { reg := r, base := 0x201000, str0 := 4, str1 := 16, cnt0 := 4, cnt1 := 1, cursor := 0 } }

def skeinWord : VWord := { blank with vd := 4, va := 9 }

theorem wit_SkeinResults : (∀ s ∈ [skeinRecord 4 vec0, skeinRecord 0 vec0, skeinRecord 4 (bound [1, 2, 3, 5] vec0)],
      s.heads (.vskein skeinWord) s.vctx ∧ s.heads (.vskeinUnbind { skeinWord with va := 0, vb := 1 }) s.vctx ∧
      s.heads (.vldk { blank with vd := 4, fmt := 4 }) s.vctx ∧ Still s ∧ Finishes s ∧ s.vctx.ctl.vl ≠ 0 ∧ s.me.held = .no) ∧
    ReadsAt (skeinRecord 4 vec0) (vbase vec0.vctx skeinWord) 32 0x4000202000 ∧
    ReadsAt (skeinRecord 0 vec0) (vbase vec0.vctx skeinWord) 32 0x4000202000 ∧
    leNat ((skeinRecord 4 vec0).bytesOver [] 0x4000202000 32) / 2 ^ 192 % 2 ^ 32 = 4 ∧
    leNat ((skeinRecord 0 vec0).bytesOver [] 0x4000202000 32) / 2 ^ 192 % 2 ^ 32 = 0 ∧
    (queued paged).heads (.vskein skeinWord) (queued paged).vctx ∧ (queued paged).vctx.ctl.vl = 0 ∧
    (bound [4] vec0).heads (.vldk { blank with vd := 4, fmt := 16 }) (bound [4] vec0).vctx ∧ ew 16 = 4 ∧ (4 : Word) ∉ [0, 1, allOnes] ∧
    (bound [1, 2, 3, 5] vec0).me.skeins.length = 4 ∧ boundTo (bound [1, 2, 3, 5] vec0).me 4 = none ∧
    ∃ k, boundTo (bound [4] vec0).me 4 = some k ∧ k.cnt0 = 4 ∧ k.cnt1 = 1 ∧
      ∀ e, (bound [4] vec0).works (bound [4] vec0).vctx { blank with vd := 4, fmt := 4 } e ∧ k.cursor + e < k.cnt0 * k.cnt1 →
        ReadsAt (bound [4] vec0) (k.base + BitVec.ofNat 64 e * k.str0) 4 (line8 + 4 * e) := by
  refine ⟨?_, reads_of (by decide +kernel), reads_of (by decide +kernel), by decide +kernel, by decide +kernel, heads_of (by decide) (by decide), by decide,
    heads_of (by decide) (by decide), by decide, by decide, by decide, by decide, _, rfl, by decide, by decide,
    fun e he => reads_all (c := vec0.vctx) (w := sampleLd) (s := bound [4] vec0) (va := fun e => (0x201000 : Word) + BitVec.ofNat 64 e * 4) (pa := fun e => line8 + 4 * e)
      (by decide) (by decide) e ⟨lt_of_lt_of_eq he.1.1 (by decide), fun h => absurd h.1 (by decide)⟩⟩
  intro s hs
  simp only [List.mem_cons, List.not_mem_nil, or_false] at hs
  rcases hs with rfl | rfl | rfl <;>
    exact ⟨heads_of (by decide) (by decide), heads_of (by decide) (by decide), heads_of (by decide) (by decide), by decide, by decide,
      by decide, by decide⟩

/-- VAMOADD.I32 v4, [x8], v6, v5. -/
def sampleAmo : VWord := { sampleLd with vb := 6, vc := 5, fn := 0x400 }

def atomicWords : List Instr :=
  [.vamoswap { sampleAmo with fn := 0 }, .vamoadd sampleAmo, .vamoand { sampleAmo with fn := 0x800 },
   .vamoor { sampleAmo with fn := 0xC00 }, .vamoxor { sampleAmo with fn := 0x1000 }, .vamomin { sampleAmo with fn := 0x1400 },
   .vamomax { sampleAmo with fn := 0x1800 }, .vamocas { sampleAmo with fn := 0x2400 }]

theorem wit_VectorAtomicResults : (4 ≤ sampleAmo.f ∧ sampleAmo.f < 8) ∧ (∀ i ∈ atomicWords, vec0.heads i vec0.vctx) ∧
    Still vec0 ∧ (∀ e ∈ (vec0.core 0).squeue, e.slot ≠ vec0.me.slot) ∧
    vec0.stillHeld vec0.me.core vec0.me.slot (fun o => decide (o.path < 4)) = false ∧
    ∀ e, vec0.works vec0.vctx sampleAmo e →
      WritesAt vec0 (vec0.vctx.x 8 + BitVec.ofInt 64 (voffset vec0 vec0.vctx 6 e)) 4 line8 := by
  refine ⟨by decide, heads_all vec0_queue (by decide), by decide, by decide, by decide, fun e he => writes_of ?_⟩
  have h : (List.range 8).all (fun e =>
      writesOk vec0 (vec0.vctx.x 8 + BitVec.ofInt 64 (voffset vec0 vec0.vctx 6 e)) 4 line8) = true := by decide
  exact List.all_eq_true.mp h e (List.mem_range.mpr (lt_of_lt_of_eq he.1 (by decide)))

/-- VWAIT.EQ.I32 [x8], v6, v5: memory and v5 both read 0; of VWAIT.NE no element is met. -/
def waitWord : VWord := { sampleLd with vd := 0, vb := 6, vc := 5 }

theorem wit_VectorWaitResults : vec0.heads (.vwait waitWord) vec0.vctx ∧ vec0.heads (.vwait { waitWord with fn := 4 }) vec0.vctx ∧
    Still vec0 ∧ isInt waitWord.f = true ∧ vec0.works vec0.vctx waitWord 0 ∧
    (∀ e, vec0.works vec0.vctx waitWord e → ReadsAt vec0 (vec0.vctx.x 8 + BitVec.ofInt 64 (voffset vec0 vec0.vctx 6 e)) 4 line8) ∧
    intOf 4 (leNat (seenBytes vec0 vec0.vctx 32 0 line8 4)) = intOf 4 (laneOf vec0 vec0.vctx 5 32 0) :=
  ⟨heads_of vec0_queue (by decide), heads_of vec0_queue (by decide), by decide, by decide, ⟨by decide, by decide⟩,
    reads_all (by decide) (by decide), by decide⟩

/-- The record of a page pool at x9: TOP 3 and the entries from 0x201000 on. -/
def pool : State := vec0.putBytes 0x4000202000 (leBytes 8 3 ++ leBytes 8 0x201000)

def poolWord : VWord := { blank with vd := 4, va := 9, vc := 11, fmt := 6 }

theorem wit_PageGrantResult : pool.heads (.vpgalloc poolWord) pool.vctx ∧ Still pool ∧ pool.vctx.ctl.vl ≠ 0 ∧
    (∀ e ∈ (pool.core 0).squeue, e.slot ≠ pool.me.slot) ∧ WritesAt pool (pool.vctx.x 9) 16 0x4000202000 ∧
    pool.region (0x4000202000 + 8) = pool.region 0x4000202000 ∧ pool.natAt 0x4000202000 8 = 3 ∧
    pool.natAt (0x4000202000 + 8) 8 % 8 = 0 ∧ ((worked pool pool.vctx poolWord).take 3).length = 3 ∧
    ∀ k, k < 3 → ReadsAt pool (BitVec.ofNat 64 (0x201000 + 8 * (3 - 1 - k))) 8 (line8 + 8 * (3 - 1 - k)) :=
  ⟨heads_of (by decide) (by decide), by decide, by decide, by decide, writes_of (by decide), by decide, by decide, by decide,
    by decide, fun k hk => reads_of (List.all_eq_true.mp
      (show (List.range 3).all (fun k => readsOk pool (BitVec.ofNat 64 (0x201000 + 8 * (3 - 1 - k))) 8 (line8 + 8 * (3 - 1 - k))) = true
        by decide) k (List.mem_range.mpr hk))⟩

/-- VSTK.I32 [x8], v6 to x9; VADDR.EQ and VTMOVE of v6 and v5. -/
def gatherWord : VWord := { sampleLd with vd := 0, vb := 6, vc := 9 }
def pairWord : VWord := { blank with vd := 4, va := 8, vb := 6, vc := 5 }
def oneMove (s : State) : State := withMe s fun t =>
  { t with queue := t.queue.map fun q => { q with ctl := { q.ctl with vl := 1 } }, vregs := [(65536 * 5 + 1, 1)] }

theorem wit_GatherMoveAndCompareResults : vec0.heads (.vstk gatherWord) vec0.vctx ∧ vec0.heads (.vaddrEq pairWord) vec0.vctx ∧
    (oneMove vec0).heads (.vtmove { pairWord with vd := 0 }) (oneMove vec0).vctx ∧
    (∀ e ∈ worked vec0 vec0.vctx gatherWord, (∃ x : Xl, vec0.xlate vec0.me.ptroot 0x201000 .read = .ok x ∧ x.device = false ∧
      vec0.region x.pa = .hbm 0) ∧ ∃ y : Xl, vec0.xlate vec0.me.ptroot (vec0.vctx.x 9 + BitVec.ofNat 64 (e * 4)) .write = .ok y ∧
      y.device = false) ∧
    let s := (oneMove vec0).fresh.1
    worked s s.vctx { pairWord with vd := 0 } = [0] ∧
    ∃ u m, s.moveStages 0x201000 0x201100 = .ok () ∧ s.moveCheck 0x201000 0x201100 [] = .ok (u, m) := by
  refine ⟨heads_of vec0_queue (by decide), heads_of vec0_queue (by decide), heads_of (by decide) (by decide), ?_, by decide, _, _, rfl, rfl⟩
  have h : (worked vec0 vec0.vctx gatherWord) = List.range 8 := by decide
  rw [h]
  intro e he
  refine ⟨⟨_, rfl, by decide, by decide⟩, ?_⟩
  have h : (List.range 8).all (fun e => match vec0.xlate vec0.me.ptroot (vec0.vctx.x 9 + BitVec.ofNat 64 (e * 4)) .write with
      | .ok y => !y.device | .error _ => false) = true := by decide
  have h2 := List.all_eq_true.mp h e he
  split at h2
  · rename_i y hy; exact ⟨y, hy, by simpa using h2⟩
  · cases h2

/-- Whether a page may be moved from or to. -/
def plainPage (x : Xl) (s : State) : Bool := !x.device && !x.sink && !x.pin && !s.onChip x.pa && s.tether x.pa == .plain

theorem wit_GatherMoveAndCompareResults_move : ∃ (p : Probed) (x : Xl), worked (oneMove vec0) (oneMove vec0).vctx { pairWord with vd := 0 } = [0] ∧
    Still (oneMove vec0) ∧ (oneMove vec0).portHeld = [] ∧
    (∀ k ∈ (oneMove vec0).cores, k.2.sbuf = [] ∧ k.2.squeue = []) ∧
    vbase (oneMove vec0).vctx pairWord + BitVec.ofInt 64 (voffset (oneMove vec0) (oneMove vec0).vctx 6 0) = 0x201000 ∧
    vbase (oneMove vec0).vctx pairWord + BitVec.ofInt 64 (voffset (oneMove vec0) (oneMove vec0).vctx 5 0) = 0x201100 ∧
    (oneMove vec0).probe (oneMove vec0).me.ptroot 0x201000 .write false = .ok p ∧
    (oneMove vec0).xlate (oneMove vec0).me.ptroot 0x201100 .write = .ok x ∧
    plainPage x (oneMove vec0) = true ∧ plainPage ⟨p.pa, 0, p.device, p.pin, p.sink⟩ (oneMove vec0) = true ∧
    (oneMove vec0).hasTether p.pa = true ∧ (oneMove vec0).admitted x.pa .write = true ∧ (oneMove vec0).farTether ⟨x.pa, []⟩ = none ∧
    (oneMove vec0).region x.pa ≠ .slow ∧ (oneMove vec0).destReady p.pa = true ∧ (oneMove vec0).silent p.pa = false ∧ lineOf p.pa ≠ lineOf x.pa ∧
    (∀ j, j < 128 → (oneMove vec0).canon (lineOf p.pa + j) = lineOf p.pa + j) ∧ (oneMove vec0).plainBytes (lineOf x.pa) 128 ∧
    ∀ n, (oneMove vec0).region x.pa = .remote n → (oneMove vec0).portOpen n = true :=
  ⟨_, _, by decide, by decide, by decide, by decide, by decide, by decide, rfl, rfl, by decide, by decide, by decide, by decide,
    by decide, by decide, by decide, by decide, by decide, by decide +kernel, by unfold State.plainBytes; decide +kernel, near (k := 0) (by decide)⟩
/-- A block of n elements whose words work on 32 columns of a tile; v0 has only bit 0. -/
def mat (n : Word) : State := withMe vec0 fun t => { t with
  vregs := [(0, 1)], queue := t.queue.map fun q => { q with ctl := { q.ctl with vl := n, vtype := 0x1C00A } } }

theorem wit_UnitsHeld : (∀ u ∈ [0, 7, 8, 16, 20], u < 21) ∧ (∃ e ∈ ((holding bare).core 0).units, e.1 = 20) ∧
    ∀ e ∈ ((holding bare).core 0).units, e.1 ≠ 7 := by decide

/-- TOPADD.BF16 t1, v2, v6. -/
def sampleTop : VWord := { blank with vd := 1, va := 2, vb := 6, fmt := 9, rm := 6 }

def outers : List Instr :=
  [.topadd sampleTop, .topadd { sampleTop with fmt := 0, rm := 0, m := true }, .topadd { sampleTop with fmt := 11 },
   .topadd { sampleTop with fmt := 14 }, .topsub { sampleTop with fmt := 19, fn := 3 }, .topsld { sampleTop with fn := 0x180 }]

theorem wit_OuterProductResults : (∀ i ∈ outers, (mat 64).heads i (mat 64).vctx) ∧ tileFree (mat 64) 1 ∧
    (mat 64).vctx.ctl.vtype.toNat / 2 ^ 8 % 4 ≠ 3 :=
  ⟨heads_all (by decide) (by decide), by unfold tileFree; decide, by decide⟩

/-- TLD.F32 t1, [x8], x11, v0.m: row 0 alone. -/
def tileWord : VWord := { blank with m := true, vd := 1, va := 8, vb := 11, fmt := 10 }

/-- The checks of a store, as a test. -/
def storeOk (s : State) (va : Word) (n pa : Nat) : Bool :=
  va.toNat % n == 0 && match s.probe s.me.ptroot va .write false with | .ok p => p.pa == pa | .error _ => false

theorem stores_of {s : State} {va : Word} {n pa : Nat} (h : storeOk s va n pa = true) :
    va.toNat % n = 0 ∧ ∃ p : Probed, s.probe s.me.ptroot va .write false = .ok p ∧ p.pa = pa := by
  simp only [storeOk, Bool.and_eq_true, beq_iff_eq] at h
  refine ⟨h.1, ?_⟩
  have h2 := h.2
  split at h2
  · rename_i p hp; exact ⟨p, hp, by simpa using h2⟩
  · cases h2

theorem all_below {n : Nat} {f : Nat → Bool} (h : (List.range n).all f = true) : ∀ k, k < n → f k = true :=
  fun k hk => List.all_eq_true.mp h k (List.mem_range.mpr hk)

theorem wit_TileMoveResults : (mat 8).vctx.ctl.vtype.toNat / 2 ^ 8 % 4 ≠ 3 ∧ (mat 8).vctx.ctl.vl ≠ 0 ∧ MatCalm (mat 8) ∧
    tileFree (mat 8) 1 ∧ (mat 8).me.held = .no ∧
    (∀ i ∈ [Instr.tld tileWord, .tst { tileWord with clr := 2 }, .tfill { blank with vd := 1, va := 11 },
      .trdrow { tileWord with vd := 4, va := 1 }, .trdcol { tileWord with vd := 4, va := 1, m := false }, .twrrow { tileWord with va := 4 }],
      (mat 8).heads i (mat 8).vctx) ∧
    (∀ r col, r < 64 → ¬ (tileWord.m = true ∧ bitOf (mat 8).me.vregs 0 r = false) → col < usedCols (mat 8).vctx 10 →
      ReadsAt (mat 8) (vbase (mat 8).vctx tileWord + BitVec.ofNat 64 r * (mat 8).vctx.x 11 + BitVec.ofNat 64 (col * 4)) 4
        (line8 + 4 * col)) ∧
    (∀ n, n < 32 → (vbase (mat 8).vctx tileWord + BitVec.ofNat 64 (n * 4)).toNat % 4 = 0 ∧
      ∃ p : Probed, (mat 8).probe (mat 8).me.ptroot (vbase (mat 8).vctx tileWord + BitVec.ofNat 64 (n * 4)) .write false = .ok p ∧
        p.pa = line8 + 4 * n) ∧
    ((mat 8).vctx.x 11).toNat < 64 ∧ 64 ≤ ((mat 8).vctx.x 8).toNat ∧
    ∀ i ∈ [Instr.trdrow { tileWord with vd := 4, va := 1, vb := 8 }, .twrrow { tileWord with va := 4, vb := 8 }],
      (mat 8).heads i (mat 8).vctx := by
  refine ⟨by decide, by decide, by unfold MatCalm; decide, by unfold tileFree; decide, by decide, heads_all (by decide) (by decide), ?_,
    fun n hn => stores_of (all_below (n := 32) (f := fun n => storeOk (mat 8)
      (vbase (mat 8).vctx tileWord + BitVec.ofNat 64 (n * 4)) 4 (line8 + 4 * n)) (by decide +kernel) n hn),
    by decide, by decide, heads_all (by decide) (by decide)⟩
  intro r col hr hm hc
  have h0 : ∀ r, r < 64 → r ≠ 0 → bitOf (mat 8).me.vregs 0 r = false := by decide
  have : r = 0 := by
    by_contra h; exact hm ⟨rfl, h0 r hr h⟩
  subst this
  exact reads_of (all_below (n := 32) (f := fun col => readsOk (mat 8)
    (vbase (mat 8).vctx tileWord + BitVec.ofNat 64 0 * (mat 8).vctx.x 11 + BitVec.ofNat 64 (col * 4)) 4 (line8 + 4 * col))
    (by decide +kernel) col (lt_of_lt_of_eq hc (by decide)))

/-- The table of the identity permutation, 20 bytes, at x8. -/
def identity : Nat := ((List.range 32).map fun k => k * 2 ^ (5 * k)).sum
def sorted (n : Word) : State := (mat n).putBytes line8 (leBytes 20 identity)

/-- A word of the scan unit at x8. -/
def sdWord : VWord := { blank with va := 8 }

theorem wit_SortedDifferenceResults_words :
    (∀ n, n = 1 ∨ n = 32 → ∀ i ∈ [Instr.sdsort { sdWord with vb := 4 }, .ptld sdWord, .ptst { sdWord with vb := 1, clr := 1 },
      .sdscan { blank with va := 4 }, .sdscanMem { blank with va := 4, vc := 8, fn := 0x2000 }, .sddot { sdWord with vd := 4, fmt := 10 },
      .sdfin { sdWord with vd := 4, va := 6, fmt := 10 }, .sld { sdWord with fmt := 4 }, .sst { sdWord with fmt := 4 }],
      (sorted n).heads i (sorted n).vctx) ∧ MatCalm (sorted 1) ∧ MatCalm (sorted 32) ∧ (sorted 1).vctx.ctl.vl ≠ 0 := by
  refine ⟨?_, by unfold MatCalm; decide, by unfold MatCalm; decide, by decide⟩
  rintro n (rfl | rfl) <;> exact heads_all (by decide +kernel) (by decide +kernel)

theorem wit_SortedDifferenceResults_reads :
    (min 1 64 = 1 ∧ RunAt (sorted 1) (vbase (sorted 1).vctx sdWord) 20 (fun k => line8 + k) ∧
      Permutes (runSeen (sorted 1) (sorted 1).vctx 20 (fun k => line8 + k))) ∧
    (min (32 / 32) 64 = 1 ∧ RunAt (sorted 32) ((sorted 32).vctx.x 8) 20 (fun k => line8 + k)) ∧
    RunAt (sorted 1) (vbase (sorted 1).vctx sdWord + 20) 18 (fun k => line8 + 20 + k) ∧
    ReadsAt (sorted 1) (vbase (sorted 1).vctx sdWord) 4 line8 :=
  ⟨⟨by decide, fun k hk => reads_of (all_below (n := 20) (f := fun k => readsOk (sorted 1)
      (vbase (sorted 1).vctx sdWord + BitVec.ofNat 64 k) 1 (line8 + k)) (by decide +kernel) k hk), by unfold Permutes; decide +kernel⟩,
   ⟨by decide, fun k hk => reads_of (all_below (n := 20) (f := fun k => readsOk (sorted 32)
      ((sorted 32).vctx.x 8 + BitVec.ofNat 64 k) 1 (line8 + k)) (by decide +kernel) k hk)⟩,
   fun k hk => reads_of (all_below (n := 18) (f := fun k => readsOk (sorted 1)
      (vbase (sorted 1).vctx sdWord + 20 + BitVec.ofNat 64 k) 1 (line8 + 20 + k)) (by decide +kernel) k hk),
   reads_of (by decide +kernel)⟩

/-- 20 bytes of zero are no permutation. -/
theorem wit_SortedDifferenceResults_form : (mat 1).heads (.ptld sdWord) (mat 1).vctx ∧
    (mat 32).heads (.sdscanMem { blank with va := 4, vc := 8, fn := 0x2000 }) (mat 32).vctx ∧ MatCalm (mat 1) ∧
    (mat 1).vctx.ctl.vl ≠ 0 ∧ RunAt (mat 1) (vbase (mat 1).vctx sdWord) 20 (fun k => line8 + k) ∧
    ¬ Permutes (runSeen (mat 1) (mat 1).vctx 20 (fun k => line8 + k)) :=
  ⟨heads_of (by decide) (by decide), heads_of (by decide) (by decide), by unfold MatCalm; decide, by decide,
    fun k hk => reads_of (all_below (n := 20) (f := fun k => readsOk (mat 1)
      (vbase (mat 1).vctx sdWord + BitVec.ofNat 64 k) 1 (line8 + k)) (by decide +kernel) k hk), by unfold Permutes; decide +kernel⟩

theorem wit_SortedDifferenceResults_stores :
    (∀ n, n < 38 → (vbase (sorted 32).vctx sdWord + BitVec.ofNat 64 n).toNat % 1 = 0 ∧
      ∃ p : Probed, (sorted 32).probe (sorted 32).me.ptroot (vbase (sorted 32).vctx sdWord + BitVec.ofNat 64 n) .write false = .ok p ∧
        p.pa = line8 + n) ∧
    32 / (32 * bunOf (sorted 32).vctx) * bundleOf (sorted 32).vctx = 38 :=
  ⟨fun n hn => stores_of (all_below (n := 38) (f := fun n => storeOk (sorted 32)
    (vbase (sorted 32).vctx sdWord + BitVec.ofNat 64 n) 1 (line8 + n)) (by decide +kernel) n hn), by decide⟩

/-! ### Braids -/

/-- Tile 3, cores 0 and 1. -/
def pairV : Word := 0x3100000100

/-- A braid of cores 0 and 1, its members in slot 0. -/
def twoMembers (formed isOpen : Bool) : Braid where
  cluster := 0
  formed := formed
  open_ := isOpen
  epoch := 2
  cores := [0, 1]
  tile := 3
  last := 0
  members := [0, 1].map fun i =>
    { index := i, slot := 0, word := pairV, ready := i == 1, fault := none, gone := false, logical := i, req := 0 }

/-- The executing strand on core k is a member. -/
def braided (k : Nat) (formed isOpen : Bool) : State :=
  { withMe bare fun t => { t with core := k, logical := k } with braids := [twoMembers formed isOpen] }

theorem wit_BraidMembership_form : (withX bare [(1, pairV)]).issues [2, 1] ∧ (withX bare [(1, pairV)]).me.queue = [] ∧
    WordLegal pairV 0 ∧ ¬ WordLegal 0 0 ∧
    (∃ b ∈ (braided 0 true false).braids, b.cluster = (braided 0 true false).me.core / 4 ∧
      ∃ m ∈ b.members, m.index = (braided 0 true false).me.core % 4) ∧
    ¬ (∃ b ∈ bare.braids, b.cluster = bare.me.core / 4 ∧ ∃ m ∈ b.members, m.index = bare.me.core % 4) ∧
    (∀ e ∈ (bare.core 0).units, e.1 = wordTile pairV → e.2 = bare.me.slot) ∧
    ∃ e ∈ ((bare.setCore 0 { bare.core 0 with units := [(3, 1)] }).core 0).units, e.1 = wordTile pairV ∧
      ∀ e' ∈ ((bare.setCore 0 { bare.core 0 with units := [(3, 1)] }).core 0).units, e'.1 = wordTile pairV → e'.2 ≠ bare.me.slot := by
  refine ⟨by unfold State.issues; decide, by decide, ⟨by decide, by decide, by decide, ?_, by decide, ?_, 0, by decide, by decide⟩,
    fun h => absurd h.2.2.1 (by decide), by decide, by decide, by decide, by decide⟩
  · intro m h1 h2
    have : wordMembers pairV = 2 := by decide
    rw [this] at h1
    interval_cases m <;> decide
  · intro m n h1 h2
    have : wordMembers pairV = 2 := by decide
    rw [this] at h2
    have : m = 0 ∧ n = 1 := by omega
    rw [this.1, this.2]; decide

theorem wit_BraidMembership_wait : (∀ k, k < 2 → ∃ b, (braided k true false).braidOf (braided k true false).me = some b ∧
      b.formed = true ∧ b.open_ = false ∧ b.cores.idxOf? ((braided k true false).me.core % 4) = some k ∧
      ((braided k true false).core k).braidRec = none ∧ (braided k true false).issues [2, 1] ∧
      (∀ d, (braided k true false).me.parked ≠ .brwait d) ∧ (braided k true false).me.queue = []) ∧
    (∃ b, (braided 0 true true).braidOf (braided 0 true true).me = some b ∧ b.formed = true ∧ b.open_ = true) ∧
    (∃ b, (braided 0 false false).braidOf (braided 0 false false).me = some b ∧ b.formed = false) ∧
    (bare.braidOf bare.me = none ∧ (bare.core 0).braidRec = none) ∧
    ((bare.setCore 0 { bare.core 0 with braidRec := some 7 }).core 0).braidRec = some 7 ∧
    (withMe bare fun t => { t with parked := .brwait 3 }).me.parked = .brwait 3 ∧
    ((withMe bare fun t => { t with parked := .brreturn 3 7 }).me.parked = .brreturn 3 7 ∧
      (withMe bare fun t => { t with parked := .brreturn 3 7 }).issues [3, 1]) ∧ (queued bare).issues [2, 1] ∧ (queued bare).me.queue ≠ [] := by
  refine ⟨?_, ⟨_, rfl, by decide, by decide⟩, ⟨_, rfl, by decide⟩, by decide, by decide, by decide,
    ⟨by decide, by unfold State.issues; decide⟩, by unfold State.issues; decide, by decide⟩
  intro k hk
  interval_cases k <;>
    exact ⟨_, rfl, by decide, by decide, by decide, by decide, by unfold State.issues; decide, fun d => (nofun : Parked.no ≠ .brwait d), by decide⟩

theorem unpoisoned {s : State} (h : s.lines = []) (pa : Nat) : s.poisoned pa = false := by
  simp [State.poisoned, State.meta_, h, assocGet]

/-- The leader of the braid executes a block; x8 is captured as the offset o. -/
def leading (o : Word) (formed isOpen : Bool) : State :=
  withMe (braided 0 formed isOpen) fun t => { t with queue := [{ blockAt 0x200100 with
    ctl := { t.ctl with vl := 8, vtype := 0x1C00A }, caps := [(8, o)] }] }

/-- BRTOPADD.BF16 t3, [x8], v6, fin. -/
def braidWord : VWord := { blank with vd := 3, va := 8, vb := 6, fmt := 9, rm := 6, fn := 0x80 }

theorem wit_BraidProductResult : (∀ o, o = 0 ∨ o = 0x40000 ∨ o = 1 → ∀ f g,
      (leading o f g).heads (.brtopadd braidWord) (leading o f g).vctx ∧ (leading o f g).vctx.ctl.vl ≠ 0 ∧
        (leading o f g).vctx.ctl.vtype.toNat / 2 ^ 8 % 4 ≠ 3 ∧ ((leading o f g).vctx.x 8) = o) ∧
    (∀ g, ∃ b, Leads (leading 0 true g) b braidWord) ∧
    (vec bare).braidOf (vec bare).me = none ∧ (∃ b, (leading 0 false false).braidOf (leading 0 false false).me = some b ∧ b.formed = false) := by
  refine ⟨?_, ?_, by decide, _, rfl, by decide⟩
  · rintro o (rfl | rfl | rfl) f g <;> cases f <;> cases g <;>
      exact ⟨heads_of (by decide) (by decide), by decide, by decide, by decide⟩
  · intro g
    cases g <;>
      exact ⟨_, rfl, by decide, by decide, by decide, by decide, by decide, fun m _ k _ => unpoisoned rfl _, by decide, by decide⟩
/-! ### Convoys, the end of a strand, barriers and launches -/

def wordOf (i : Instr) : Nat := match encode i with | .vector w => w.toNat | _ => 0

/-- A result that is there and passes a test. -/
def okAnd {ε α : Type} (x : Except ε α) (P : α → Bool) : Bool := match x with | .ok a => P a | .error _ => false

theorem ok_with {ε α : Type} {x : Except ε α} {P : α → Bool} (h : okAnd x P = true) : ∃ a, x = .ok a ∧ P a = true := by
  cases x with
  | error e => cases h
  | ok a => exact ⟨a, rfl, h⟩

theorem ok_eq {ε α : Type} [BEq α] [LawfulBEq α] {x : Except ε α} {a : α} (h : okAnd x (· == a) = true) : x = .ok a := by
  obtain ⟨b, rfl, hb⟩ := ok_with h
  rw [eq_of_beq hb]

/-- The same of a place. -/
theorem ok_at {ε : Type} {x : Except ε Resolved} {a : Resolved} (h : okAnd x (· == a) = true) : x = .ok a := by
  obtain ⟨b, rfl, hb⟩ := ok_with h
  rw [of_decide_eq_true (p := b = a) hb]

/-- A block whose first word is VADD.I32 v4, v2, v3, END 1, and its convoy has issued. -/
def convoy (iss : Bool) : State :=
  withMe (vec (paged.layBytes 0x200100 (leBytes 8 0x8404083008000000))) fun t => { t with issued := if iss then some 0x200100 else none }

def convoyWord : Instr := .vadd { sampleAdd with last := true }

/-- The convoy is these words, may issue, and each of them runs. -/
def convoyRuns (s : State) (ws : List Instr) : Bool :=
  s.me.issued == none && okAnd s.headConvoy fun gw => gw.2 == ws && !(gw.1.beforeWords ws).fenceWaits ws &&
    okAnd (runWords { s.vctx with later := true } 0 ws (gw.1.beforeWords ws)) fun _ => true

theorem ready_of {s : State} {ws : List Instr} (h : convoyRuns s ws = true) :
    ∃ u v, ConvoyReady s ws u ∧ runWords { s.vctx with later := true } 0 ws u = .ok v := by
  simp only [convoyRuns, Bool.and_eq_true, beq_iff_eq] at h
  obtain ⟨hi, h⟩ := h
  obtain ⟨⟨g, ws'⟩, hg, h⟩ := ok_with h
  simp only [Bool.and_eq_true, beq_iff_eq, Bool.not_eq_true'] at h
  obtain ⟨⟨rfl, hf⟩, h⟩ := h
  obtain ⟨v, hv, -⟩ := ok_with h
  exact ⟨_, v, ⟨hi, g, hg, rfl, hf⟩, hv⟩

/-- Words that run one after another give the states in between. -/
theorem chain_of {c : VCtx} : ∀ {ws : List Instr} {n : Nat} {s v : State}, runWords c n ws s = .ok v →
    ∃ st : Nat → State, st 0 = s ∧ ∀ k j, ws[k]? = some j → runWord j c (st k) = .ok (st (k + 1)) := by
  intro ws
  induction ws with
  | nil => intro n s v _; exact ⟨fun _ => s, rfl, by simp⟩
  | cons i ws ih =>
    intro n s v h
    rw [runWords] at h
    split at h
    · cases h
    · rename_i t ht
      obtain ⟨st, h0, hs⟩ := ih h
      refine ⟨fun k => match k with | 0 => s | k + 1 => st k, rfl, fun k j hk => ?_⟩
      cases k with
      | zero => simp only [List.getElem?_cons_zero, Option.some.injEq] at hk; subst hk; simp only [h0, ht]
      | succ k => exact hs k j (by simpa using hk)

theorem wit_ConvoyWordResults : ∀ iss, (∃ q, (convoy iss).me.queue = q :: []) ∧
    (convoy iss).me.placed = true ∧ (convoy iss).me.held = .no ∧ ((convoy iss).me.issued = none ↔ iss = false) ∧
    (iss = false → ∃ (u : State) (st : Nat → State), ConvoyReady (convoy iss) [convoyWord] u ∧ st 0 = u ∧
      ∀ k j, [convoyWord][k]? = some j → runWord j { (convoy iss).vctx with later := true } (st k) = .ok (st (k + 1))) ∧
    (convoy iss).me.disarms = [] ∧
    vfields convoyWord ≠ none ∧ [convoyWord] ≠ [.vstop] ∧ (convoy iss).me.parked ≠ .vwait := by
  intro iss
  refine ⟨by cases iss <;> exact ⟨_, rfl⟩, by cases iss <;> decide, by cases iss <;> decide, by cases iss <;> decide, ?_, by cases iss <;> decide, by decide, by decide,
    by cases iss <;> decide⟩
  rintro rfl
  obtain ⟨u, v, h, hv⟩ := ready_of (s := convoy false) (ws := [convoyWord]) (by decide +kernel)
  obtain ⟨st, h0, hs⟩ := chain_of hv
  exact ⟨u, st, h, h0, hs⟩

/-- A block whose first word is VWAIT.I32 [x8], v6, v5 with FN's comparison `cond`, END 1, in the address translation of the last turn. -/
def vwaiting (cond : BitVec 14) : State :=
  let s := vec (paged.layBytes 0x200100 (leBytes 8 (wordOf (.vwait { waitWord with last := true, fn := cond }))))
  match s.headConvoy with
  | .ok (g, _) => withMe g fun t => { t with parked := .vwait }
  | .error _ => s

/-- The parked VWAIT of a convoy, its elements met (0) or not (1). -/
theorem wit_ConvoyWordResults_wait : ∀ cond : BitVec 14, cond = 0 ∨ cond = 4 →
    let w := { waitWord with last := true, fn := cond }
    (vwaiting cond).me.placed = true ∧ (vwaiting cond).me.held = .no ∧ (vwaiting cond).me.parked = .vwait ∧ Still (vwaiting cond) ∧
    (vwaiting cond).me.issued = none ∧ okAnd (vwaiting cond).headConvoy (fun gw => gw.1 == vwaiting cond && gw.2 == [.vwait w]) = true ∧
    (vwaiting cond).beforeWords [.vwait w] = vwaiting cond ∧ (vwaiting cond).fenceWaits [.vwait w] = false ∧
    (vwaiting cond).heads (.vwait w) (vwaiting cond).vctx ∧ isInt w.f = true := by
  rintro cond (rfl | rfl) <;>
    exact ⟨by decide +kernel, by decide +kernel, by decide +kernel, by decide +kernel, by decide +kernel, by decide +kernel, by decide +kernel,
      by decide +kernel, heads_of (by decide +kernel) (by decide +kernel), by decide +kernel⟩

/-- A strand of a launch; another strand of it, in slot 1, may have arrived at the barrier of the core. -/
def launched (there : Bool) (f : Strand → Strand) : State :=
  let t := { readyStrand with launch := some ⟨0, 0, 5⟩ }
  { bare with me := f t, strands := [{ t with slot := 1, arrival := if there then some ⟨1, 0, 1⟩ else none }] }

theorem wit_EndAndBarrierResults : bare.me.queue = [] ∧ bare.me.postedStk = [] ∧ bare.me.postedCpy = [] ∧
    (let u := (bare.finishStrand bare.me).payDebts
     (∀ k ∈ u.me.debts, k.all = false ∧ k.next = none) ∧ u.unfinished bare.me = false) ∧
    bare.epochOpen bare.me = false ∧ bare.me.placed = true ∧ (braided 0 true true).epochOpen (braided 0 true true).me = true ∧
    (braided 0 true true).me.queue = [] ∧
    (∀ b, (launched b id).me.placed = true ∧ (launched b id).halted 0 = false ∧ (launched b id).me.arrival = none ∧
      ((∀ t ∈ (launched b id).strands, t.placed = true ∧ t.launch = (launched b id).me.launch → t.arrival = some ⟨1, 0, 1⟩) ↔ b = true)) ∧
    (∀ b, let s := launched b fun t => { t with arrival := some ⟨1, 0, 1⟩, parked := .barrier 3 }
      s.me.launch = some ⟨0, 0, 5⟩ ∧ s.me.arrival = some ⟨1, unitOf 1 0, 0 + 1⟩ ∧ s.me.parked = .barrier 3 ∧ s.halted 0 = false) := by
  refine ⟨by decide, by decide, by decide, by decide, by decide, by decide, by decide, by decide, ?_, ?_⟩ <;> intro b <;> cases b <;> decide

/-- A write of the strand is held for module 9, which no route reaches. -/
def holdsWrite : State :=
  { bare with portHeld := [{ module_ := 9, addr := 0x1240000000000, bytes := [(1, 0xFF)], heal := false,
                             origin := { core := some 0, slot := 0, path := 5 } }] }

/-- A fault that an engine has posted, and a write of the strand that can't be performed now. -/
theorem wit_EndAndBarrierResults_posted : let p : Posted := { cause := 0x20, index := 3 }
    (withMe bare fun t => { t with postedStk := [p] }).me.postedStk = p :: [] ∧
    (withMe bare fun t => { t with postedCpy := [p] }).me.postedCpy = p :: [] ∧
    ((holdsWrite.finishStrand holdsWrite.me).payDebts).unfinished holdsWrite.me = true := by decide

/-- The checks of a landing write, as a test. -/
def landsOk (s : State) (pa n : Nat) : Bool :=
  (List.range n).all fun j => s.canon (pa + j) == pa + j && !s.hwOnly (pa + j) && !s.isOvf (pa + j) &&
    s.tether (pa + j) == .plain && match s.region (pa + j) with | .remote _ | .slow => false | _ => true

theorem lands_of {s : State} {pa n : Nat} (h : landsOk s pa n = true) : s.lands pa n := by
  have h' : ∀ j, j < n → (((s.canon (pa + j) = pa + j ∧ s.hwOnly (pa + j) = false) ∧ s.isOvf (pa + j) = false) ∧
      s.tether (pa + j) = .plain) ∧ (match s.region (pa + j) with | .remote _ | .slow => false | _ => true) = true := fun j hj => by
    simpa [landsOk, Bool.and_eq_true, beq_iff_eq] using all_below h j hj
  refine ⟨fun j hj => ⟨(h' j hj).1.1.1.1, (h' j hj).1.1.1.2, (h' j hj).1.1.2⟩, fun j hj => ⟨(h' j hj).1.2, fun hm => ?_⟩, fun j m hj hm => ?_⟩ <;>
  · have h2 := (h' j hj).2
    rw [hm] at h2
    cases h2

theorem plain_of {s : State} {pa n : Nat} (h : ((List.range n).all fun j =>
    s.canon (pa + j) == pa + j && !s.hwOnly (pa + j) && !s.isOvf (pa + j)) = true) : s.plainBytes pa n := fun j hj => by
  have := all_below h j hj
  simpa [Bool.and_eq_true, beq_iff_eq, and_assoc] using this

/-- The record of a launch log of n slots at 0x203000, its slots from 0x204000 on; the header stands at 0x205000. -/
def logged (n : Nat) : State :=
  withX (paged.putBytes 0x4000203000 (leBytes 8 0x204000 ++ List.replicate 32 0 ++ leBytes 4 n)) [(5, 0x203000), (6, 0x205000)]

theorem wit_LaunchResult_full : (logged 0).issues [1, 5, 6] ∧ (logged 0).me.queue = [] ∧
    ∃ v r, ((logged 0).finishStrand (logged 0).me).payDebts.blockRead 8 0x203000 = .ok (v, r) ∧ leNat (r.drop 40) % 2 ^ 32 = 0 := by
  refine ⟨by unfold State.issues; decide +kernel, by decide +kernel, ?_⟩
  obtain ⟨⟨v, r⟩, h, hr⟩ := ok_with (x := ((logged 0).finishStrand (logged 0).me).payDebts.blockRead 8 0x203000)
    (P := fun vr => leNat (vr.2.drop 40) % 2 ^ 32 == 0) (by decide +kernel)
  exact ⟨v, r, h, by simpa using hr⟩

/-- Where the words of LAUNCH end, once the record and the header have been read. -/
def launchEnds (v : State) : Bool :=
  okAnd (v.blockDest (0x203000 + 8)) (· == ⟨0x4000203008, []⟩) && okAnd (v.blockDest 0x204000) (· == ⟨0x4000204000, []⟩) &&
  okAnd (v.blockDest (0x204000 + 128)) (· == ⟨0x4000204080, []⟩) && decide (Still v) && landsOk v 0x4000204000 128 &&
  landsOk v 0x4000204080 128 && landsOk v 0x4000203008 8

theorem wit_LaunchResult : (logged 4).issues [1, 5, 6] ∧ (logged 4).me.queue = [] ∧ ((logged 4).xget 5).toNat % 64 = 0 ∧
    ((logged 4).xget 6).toNat % 256 = 0 ∧
    (let u := ((logged 4).finishStrand (logged 4).me).payDebts
     (∀ k ∈ u.me.debts, k.all = false ∧ k.next = none) ∧ u.unfinished (logged 4).me = false ∧
     (∀ tail v, (logged 4).me.parked ≠ .launch tail v)) ∧ (logged 4).strands = [] ∧
    (0x4000204000 % 128 = 0 ∧ 0x4000204080 % 128 = 0 ∧ 0x4000203008 % 8 = 0 ∧ lineOf 0x4000203008 ≠ 0x4000204000 ∧
      lineOf 0x4000203008 ≠ 0x4000204080) ∧
    ∃ v r v' h, ((logged 4).finishStrand (logged 4).me).payDebts.blockRead 8 0x203000 = .ok (v, r) ∧
      leNat r % 2 ^ 64 = 0x204000 ∧ leNat r / 2 ^ 64 % 2 ^ 128 = 0 ∧ leNat (r.drop 40) % 2 ^ 32 = 4 ∧
      v.blockRead 32 0x205000 = .ok (v', h) ∧ v'.blockDest (0x203000 + 8) = .ok ⟨0x4000203008, []⟩ ∧
      v'.blockDest 0x204000 = .ok ⟨0x4000204000, []⟩ ∧ v'.blockDest (0x204000 + 128) = .ok ⟨0x4000204080, []⟩ ∧ Still v' ∧
      v'.lands 0x4000204000 128 ∧ v'.lands 0x4000204080 128 ∧ v'.lands 0x4000203008 8 := by
  refine ⟨by unfold State.issues; decide +kernel, by decide +kernel, by decide +kernel, by decide +kernel,
    ⟨by decide +kernel, by decide +kernel, fun tail v h => (nomatch (h : Parked.no = .launch tail v))⟩, by decide +kernel, by decide, ?_⟩
  obtain ⟨⟨v, r⟩, h, hr⟩ := ok_with (x := ((logged 4).finishStrand (logged 4).me).payDebts.blockRead 8 0x203000)
    (P := fun vr => leNat vr.2 % 2 ^ 64 == 0x204000 && leNat vr.2 / 2 ^ 64 % 2 ^ 128 == 0 && leNat (vr.2.drop 40) % 2 ^ 32 == 4 &&
      okAnd (vr.1.blockRead 32 0x205000) fun vh => launchEnds vh.1) (by decide +kernel)
  simp only [Bool.and_eq_true, beq_iff_eq] at hr
  obtain ⟨⟨v', hd⟩, h2, hr2⟩ := ok_with hr.2
  simp only [launchEnds, Bool.and_eq_true] at hr2
  obtain ⟨⟨⟨⟨⟨⟨e1, e2⟩, e3⟩, e4⟩, e5⟩, e6⟩, e7⟩ := hr2
  exact ⟨v, r, v', hd, h, hr.1.1.1, hr.1.1.2, hr.1.2, h2, ok_at e1, ok_at e2, ok_at e3, of_decide_eq_true e4, lands_of e5, lands_of e6,
    lands_of e7⟩

/-- A LAUNCH whose copy has been performed, its TAIL word at 0x4000203008. -/
theorem wit_LaunchResult_parked : let s := withMe (logged 4) fun t => { t with parked := .launch 0x4000203008 1 }
    let u := (s.finishStrand s.me).payDebts
    s.me.parked = .launch 0x4000203008 1 ∧ u.unfinished s.me = false ∧ Still u ∧ landsOk u 0x4000203008 8 = true := by decide +kernel

/-- The trace ring of the core, of 4 records, with WR as given. -/
def ringed (wr : Nat) : State :=
  { bare with rings := [{ id := .core 0, addr := hbmBase + 0x500000, base := hbmBase + 0x500080, lgn := 2, wr := wr }] }

/-- The hardware's own accesses reach these bytes, as a test. -/
def directOk (s : State) (pa n : Nat) : Bool :=
  (List.range n).all fun j => s.canon (pa + j) == pa + j && s.tether (pa + j) == .plain && !s.badLine (pa + j) &&
    (s.hwOwn (pa + j)).isNone && match s.region (pa + j) with | .remote _ | .slow => false | _ => true

theorem direct_of {s : State} {pa n : Nat} (h : directOk s pa n = true) : Direct s pa n := by
  intro j hj
  have h' := all_below h j hj
  simp only [Bool.and_eq_true, beq_iff_eq, Bool.not_eq_true', Option.isNone_iff_eq_none] at h'
  obtain ⟨⟨⟨⟨h1, h2⟩, h3⟩, h4⟩, h5⟩ := h'
  refine ⟨h1, h2, fun hm => ?_, h3, h4, fun m hm => ?_⟩ <;>
  · rw [hm] at h5
    cases h5

theorem wit_TraceAndIndexClearResults : bare.issues [1, 2] ∧ bare.me.queue = [] ∧
    (∀ e ∈ ((holding bare).core 0).units, e.1 = 20 → e.2 = bare.me.slot) ∧
    (let s := bare.setCore 0 { bare.core 0 with units := [(20, 1)] }
     (∃ e ∈ (s.core 0).units, e.1 = 20) ∧ ∀ e ∈ (s.core 0).units, e.1 = 20 → e.2 ≠ s.me.slot) ∧
    bare.rings.find? (fun r => r.id = .core bare.me.logical && r.base ≠ 0) = none ∧
    (∀ wr, wr = 1 ∨ wr = 4 → ∃ g, (ringed wr).rings.find? (fun r => r.id = .core (ringed wr).me.logical && r.base ≠ 0) = some g ∧
      Still (ringed wr) ∧ Direct (ringed wr) g.base (32 * 2 ^ g.lgn) ∧ Direct (ringed wr) g.addr 32 ∧ g.addr + 32 ≤ g.base ∧
      2 ≤ 2 ^ g.lgn ∧
      (g.wr + 2 ^ 64 - (ringed wr).natAt (g.addr + 16) 8) % 2 ^ 64 = wr) := by
  refine ⟨by unfold State.issues; decide, by decide, by decide, by decide, by decide, ?_⟩
  rintro wr (rfl | rfl) <;> exact ⟨_, rfl, by decide, direct_of (by decide +kernel), direct_of (by decide +kernel), by decide, by decide,
    by decide⟩

/-! ### Copy engine, stack engines and collectives -/

/-- XUNFOLD of a 1 by 1 image of one byte: IN at byte 56, OUT at byte 48, the other counts 1. -/
def unfoldRecord : List Byte :=
  leBytes 64 (0x201000 * 2 ^ 448 + 0x202000 * 2 ^ 384 + 1 * 2 ^ 352 + 1 * 2 ^ 320 + 1 * 2 ^ 288 + 2 ^ 272 + 2 ^ 256 + 2 ^ 240 + 2 ^ 224 + 2 ^ 208)

/-- XTRANS of one dimension of one byte. -/
def transRecord : List Byte := leBytes 64 (0x201000 * 2 ^ 448 + 0x202000 * 2 ^ 384 + 2 ^ 272 + 1 * 2 ^ 248)

def copying (bs : List Byte) : State := withX (paged.putBytes 0x4000203000 bs) [(5, 0x203000), (6, 0x203001)]

/-- The queue of the cluster's copy engine holds n commands. -/
def copyQueue (n : Nat) (c : Command) (s : State) : State := { s with copyq := [(0, List.replicate n c)] }

def unfoldCmd : Command where
  owner := ⟨0, 0, 0⟩
  kind := .xunfold
  recd := unfoldRecord
  pages := [(0x200000, 0x4000200000)]
  colour := 0

/-- A record at x5 that is read, breaks no rule and whose pages are there. -/
def copyOk (s : State) (kind : CmdKind) (bad : List Byte → Bool) : Bool :=
  okAnd (s.settleFirst.blockRead 8 0x203000) fun vr =>
    let c : Command := { owner := ⟨0, 0, 0⟩, kind := kind, recd := vr.2, pages := [], colour := 0 }
    !bad vr.2 && !overlaps (copyUnit c) (copyElements c) && okAnd (vr.1.spansPages (copySpans c)) fun _ => true

theorem wit_CopyCommandResults_words : (copying unfoldRecord).issues [5] ∧
    ScalarGoes (copying unfoldRecord).settleFirst ∧ (∀ k ∈ (copying unfoldRecord).settleFirst.me.debts, k.next ≠ some 2) ∧
    16 ≤ (assocGet [] (copyQueue 16 unfoldCmd bare).copyq 0).length ∧ (assocGet [] bare.copyq 0).length < 16 ∧
    ((copying unfoldRecord).xget 5).toNat % 64 = 0 ∧ ((copying unfoldRecord).xget 6).toNat % 64 ≠ 0 ∧
    copyOk (copying unfoldRecord) .xunfold unfoldBad = true ∧ copyOk (copying transRecord) .xtrans transBad = true ∧
    unfoldBad (leBytes 64 0) = true ∧ transBad (leBytes 64 0) = true :=
  ⟨by unfold State.issues; decide +kernel, by decide +kernel, by decide +kernel, by decide, by decide, by decide +kernel,
    by decide +kernel, by decide +kernel, by decide +kernel, by decide +kernel, by decide +kernel⟩
/-- The checks of an engine's reads and of where its write ends, as tests. -/
def getsOk (s : State) (pa : Nat) (b : Byte) : Bool :=
  okAnd (s.resolve pa) fun r => (s.farTether r).isNone && (s.refusing r .read .read).isNone && !s.badLine r.pa && !s.silent r.pa &&
    s.byte r.pa == b

theorem engine_gets {s : State} {pa : Nat} {b : Byte} (h : getsOk s pa b = true) : EngineGets s pa b := by
  obtain ⟨r, hr, h2⟩ := ok_with h
  simp only [Bool.and_eq_true, Bool.not_eq_true', beq_iff_eq, Option.isNone_iff_eq_none] at h2
  exact ⟨r, hr, h2.1.1.1.1, h2.1.1.1.2, h2.1.1.2, h2.1.2, h2.2⟩

def engineOk (s : State) (c : Command) (va : Word) (bs : List Byte) : Bool :=
  (List.range bs.length).all fun j => getsOk s (c.pa (va + BitVec.ofNat 64 j)) (bs.getD j 0)

theorem engine_reads {s : State} {c : Command} {va : Word} {bs : List Byte} (h : engineOk s c va bs = true) : EngineReads s c va bs := by
  intro j b hb
  obtain ⟨hj, rfl⟩ := List.getElem?_eq_some_iff.mp hb
  have h2 := engine_gets (all_below h j hj)
  rwa [List.getD_eq_getElem _ _ hj] at h2

def endsOk (s : State) (hop : Acc) (pa at_ : Nat) : Bool :=
  okAnd (s.resolve pa) fun r => (s.farTether r).isNone && (s.refusing r hop .write).isNone && r.pa == at_

theorem engine_ends {s : State} {hop : Acc} {pa at_ : Nat} (h : endsOk s hop pa at_ = true) : EngineEnds s hop pa at_ := by
  obtain ⟨r, hr, h2⟩ := ok_with h
  simp only [Bool.and_eq_true, beq_iff_eq, Option.isNone_iff_eq_none] at h2
  exact ⟨r, hr, h2.1.1, h2.1.2, h2.2⟩

/-- Writes land, and none lies over another, as a test. -/
theorem writes_land {s : State} {ws : List (Nat × List Byte)} (hm : Still s) (hl : ∀ w ∈ ws, w.2 ≠ [] ∧ landsOk s w.1 w.2.length = true)
    (hp : ws.Pairwise fun v w => v.1 + v.2.length ≤ w.1 ∨ w.1 + w.2.length ≤ v.1) : WritesLand s ws :=
  ⟨hm, fun w hw => ⟨(hl w hw).1, lands_of (hl w hw).2⟩, hp⟩

/-- One byte of the page at 0x200000. -/
def pageOf : List (Nat × Nat) := [(0x20, 0x4000200000)]

def copyRun (kind : CmdKind) (recd : List Byte) : Command :=
  { owner := ⟨0, 0, 0⟩, kind := kind, recd := recd, pages := pageOf, colour := 0 }

theorem wit_CopyCommandResults_run : ∀ c, c = copyRun .xunfold unfoldRecord ∨ c = copyRun .xtrans transRecord →
    let s := copyQueue 1 c bare
    ∃ ws, assocGet [] s.copyq 0 = c :: [] ∧ s.copyDelayed c = false ∧ ws = [(0x4000202000, [(0 : Byte)])] ∧ (copyElements c).length = 1 ∧ WritesLand s ws ∧
      ∃ e va, (copyElements c)[0]? = some e ∧ e.src = some va ∧ EngineEnds s .write (c.pa e.dst) 0x4000202000 ∧ copyUnit c = 1 ∧
        EngineReads s c va [0] := by
  rintro c (rfl | rfl)
  · exact ⟨_, rfl, by decide +kernel, rfl, by decide +kernel, writes_land ⟨rfl, rfl⟩ (by decide +kernel) (by decide +kernel), ⟨0, 0x202000, some 0x201000⟩, 0x201000,
      by decide +kernel, rfl, engine_ends (by decide +kernel), by decide +kernel, engine_reads (by decide +kernel)⟩
  · exact ⟨_, rfl, by decide +kernel, rfl, by decide +kernel, writes_land ⟨rfl, rfl⟩ (by decide +kernel) (by decide +kernel), ⟨0, 0x202000, some 0x201000⟩, 0x201000,
      by decide +kernel, rfl, engine_ends (by decide +kernel), by decide +kernel, engine_reads (by decide +kernel)⟩

/-- XTRANS of extents 2, 1 and 3 with a permutation that exchanges the first and the last dimension. -/
def permuted : List Byte :=
  leBytes 64 (0x201000 * 2 ^ 448 + 0x202000 * 2 ^ 384 + (2 + 1 * 2 ^ 16 + 3 * 2 ^ 32) * 2 ^ 272 + (2 + 1 * 8 + 0 * 64) * 2 ^ 251 + 3 * 2 ^ 248)

theorem wit_CopyElementsOfRecords : (copyRun .xunfold unfoldRecord).kind = .xunfold ∧ (copyRun .xtrans permuted).kind = .xtrans ∧
    transNdim permuted = 3 ∧ (∀ j, j < 3 → transPerm permuted j < 3) ∧
    (∀ j, j < 3 → ∀ k, k < 3 → j < k → transPerm permuted j ≠ transPerm permuted k) ∧
    (∀ j, j < 3 → transDim permuted j = [2, 1, 3].getD j 0) := by decide +kernel

/-- SEMV of two rows of one bundle each. -/
def semvRecord (start : Nat) : List Byte :=
  leBytes 8 0x201000 ++ leBytes 8 0x202000 ++ leBytes 8 0x203000 ++ leBytes 8 0x204000 ++ leBytes 4 1 ++ leBytes 4 2 ++ leBytes 24 (4 * start)

def semvWord : VWord := { blank with va := 10 }
def semvState (r : List Byte) : State := vec0.putBytes 0x4000203000 r

/-- The record is read, its pages are found, and its weights lie in one stack. -/
def semvOk (s : State) : Bool :=
  okAnd (s.vread s.vctx [{ elem := 2 ^ 64 - 1, va := vbase s.vctx semvWord, n := 64, path := 4 }]) fun vb =>
    let r := vb.2.flatten
    r == semvRecord 0 && okAnd (vb.1.spansPages (semvSpans r)) (fun _ => true) &&
      okAnd (vb.1.spanPages ⟨0x201000, 2 * 1 * (20 + 18), .read⟩) fun weights =>
        weights ≠ [] && weights.all fun p => vb.1.region p.2 == .hbm 0

theorem wit_StackEngineResults_semv : (∀ r, r = semvRecord 0 ∨ r = leBytes 64 0 → (semvState r).heads (.semv semvWord) (semvState r).vctx ∧
      (semvState r).vctx.ctl.vl ≠ 0 ∧ MatCalm (semvState r)) ∧ semvOk (semvState (semvRecord 0)) = true ∧
    (semvRecord 0).length = 64 ∧
    okAnd ((semvState (leBytes 64 0)).vread (semvState (leBytes 64 0)).vctx
      [{ elem := 2 ^ 64 - 1, va := vbase vec0.vctx semvWord, n := 64, path := 4 }]) (fun vb => leNat vb.2.flatten == 0) = true := by
  refine ⟨?_, by decide +kernel, by decide +kernel, by decide +kernel⟩
  rintro r (rfl | rfl) <;>
    exact ⟨heads_of (by decide +kernel) (by decide +kernel), by decide +kernel, by unfold MatCalm; decide +kernel⟩

/-- A record whose OUT, or whose ASC alone, is misaligned (R181). -/
theorem wit_StackEngineResults_misaligned :
    let out := leBytes 64 (leNat (semvRecord 0) + 2 ^ 192)
    let asc := leBytes 64 (leNat (semvRecord 0) + 2 ^ 128)
    (∀ r, r = out ∨ r = asc → leNat r / 2 ^ 323 % 2 ^ 189 = 0 ∧ leNat r / 2 ^ 288 % 2 ^ 32 = 2 ∧ leNat r / 2 ^ 320 % 2 ^ 2 = 0 ∧
      leNat r / 2 ^ 256 % 2 ^ 32 = 1) ∧
    leNat out / 2 ^ 192 % 2 ^ 64 % 4 ≠ 0 ∧ leNat asc / 2 ^ 192 % 2 ^ 64 % 4 = 0 ∧ leNat asc / 2 ^ 128 % 2 ^ 64 % 4 ≠ 0 := by
  refine ⟨?_, by decide +kernel, by decide +kernel, by decide +kernel⟩
  rintro r (rfl | rfl) <;> decide +kernel

/-- A gather of one element of 4 bytes. -/
def gathering : State := { bare with stackq := [{ copyRun (.gather 4 [(0, 0x4000201000, 0x4000202000)]) [] with pages := [] }] }

theorem wit_StackEngineResults_gather : ∃ c, gathering.stackq[0]? = some c ∧ c.kind = .gather 4 [(0, 0x4000201000, 0x4000202000)] ∧
    WritesLand gathering [(0x4000202000, [0, 0, 0, 0])] ∧ EngineEnds gathering .read 0x4000202000 0x4000202000 ∧
    (∀ j, j < 4 → EngineGets gathering (0x4000201000 + j) 0) ∧ Turns gathering c 0 :=
  ⟨_, rfl, rfl, writes_land ⟨rfl, rfl⟩ (by decide) (by decide), engine_ends (by decide),
    fun j hj => by interval_cases j <;> exact engine_gets (by decide), ⟨fun j d hj => absurd hj (by omega), by decide⟩⟩

/-- A second gather of the same strand that writes what the first writes: it waits. -/
theorem wit_StackEngineResults_waits : ∃ c, ({ gathering with stackq := gathering.stackq ++ gathering.stackq } : State).stackq[1]? = some c ∧
    ¬ Turns { gathering with stackq := gathering.stackq ++ gathering.stackq } c 1 :=
  ⟨_, rfl, fun h => absurd (h.1 0 _ (by decide) rfl rfl 0x4000202000 (by decide)) (by decide)⟩

/-- A product of two rows, its result added to what stands there when `start` is 1. -/
def multiplying (start : Nat) : State :=
  { bare with stackq := [copyRun .semv (semvRecord start)] }

theorem wit_StackEngineResults_run : ∀ start, start = 0 ∨ start = 1 → ∃ c, (multiplying start).stackq[0]? = some c ∧ Turns (multiplying start) c 0 ∧ c.kind = .semv ∧
    leNat c.recd / 2 ^ 288 % 2 ^ 32 = 2 ∧ leNat c.recd / 2 ^ 256 % 2 ^ 32 = 1 ∧
    (∀ row, row < 2 → EngineReads (multiplying start) c (0x201000 + BitVec.ofNat 64 (row * 38)) (List.replicate 20 0) ∧
      EngineReads (multiplying start) c (0x201000 + BitVec.ofNat 64 (row * 38 + 20)) (List.replicate 18 0) ∧
      EngineReads (multiplying start) c 0x202000 (List.replicate 32 0) ∧ EngineReads (multiplying start) c 0x203000 [0, 0, 0, 0] ∧
      EngineEnds (multiplying start) .read (c.pa (0x204000 + BitVec.ofNat 64 (4 * row))) (0x4000204000 + 4 * row) ∧
      EngineReads (multiplying start) c (0x204000 + BitVec.ofNat 64 (4 * row)) [0, 0, 0, 0]) ∧
    WritesLand (multiplying start) [(0x4000204000, leBytes 4 0), (0x4000204004, leBytes 4 0)] := by
  rintro start (rfl | rfl) <;>
    · refine ⟨_, rfl, ⟨fun j d hj => absurd hj (by omega), by decide +kernel⟩, rfl, by decide +kernel, by decide +kernel, ?_, writes_land ⟨rfl, rfl⟩ (by decide +kernel) (by decide +kernel)⟩
      intro row hrow
      interval_cases row <;>
        exact ⟨engine_reads (by decide +kernel), engine_reads (by decide +kernel), engine_reads (by decide +kernel),
          engine_reads (by decide +kernel), engine_ends (by decide +kernel), engine_reads (by decide +kernel)⟩

/-- A collective record: all-reduce of two I32 elements, this die of rank k, its table of two at 0x203040. -/
def colRecord (k : Nat) : List Byte :=
  leBytes 32 (2 ^ 253 * 4) ++ [BitVec.ofNat 8 (0)] ++ [BitVec.ofNat 8 k] ++ [0, 0] ++ leBytes 4 2 ++ leBytes 8 0x203040 ++
    leBytes 8 (0x204000 + 0x100 * k) ++ leBytes 8 (0x205000 + 0x100 * k)

/-- Rank 0 starts it: the record at 0x203000 and its table. -/
def starting : State :=
  withX (paged.putBytes 0x4000203000 (colRecord 0 ++ leBytes 8 2 ++ leBytes 8 0 ++ leBytes 8 1)) [(5, 0x203000)]

/-- A collective with this ticket. -/
def started (k : Nat) (op : Nat) (status : Option Nat) : Collective where
  ticket := k
  owner := ⟨64 * k, 0, 7⟩
  die := k
  recd := (colRecord k).set 32 (BitVec.ofNat 8 (16 * op))
  table := [0, 1]
  pages := pageOf
  colour := 0
  req := 0
  status := status

theorem wit_CollectiveTickets : starting.issues [1, 5] ∧ ScalarGoes starting.settleFirst ∧
    (∀ k ∈ starting.settleFirst.me.debts, k.next ≠ some 4) ∧
    starting.collectives.length < 32 ∧ okAnd (starting.settleFirst.readCollective (starting.xget 5)) (fun _ => true) = true ∧
    32 ≤ ({ bare with collectives := (List.range 32).map fun k => started k 0 none }).collectives.length ∧
    (starting.xget 5).toNat ∉ starting.me.tickets := by
  refine ⟨by unfold State.issues; decide +kernel, by decide +kernel, by decide +kernel, by decide +kernel, by decide +kernel, by decide,
    by decide +kernel⟩

theorem wit_CollectiveTickets_wait : ∀ st : Option Nat,
    let w := Config.ticketOf 3
    let c := { started 3 0 st with owner := ⟨0, 0, 0⟩ }
    let s := { withX bare [(5, w)] with me := { (withX bare [(5, w)]).me with tickets := [w.toNat] }, collectives := [c] }
    s.issues [1, 5] ∧ (s.xget 5).toNat ∈ s.me.tickets ∧
      s.collectives.find? (fun c => Config.ticketOf c.ticket = s.xget 5 && c.owner = ⟨s.me.core, s.me.slot, s.me.serial⟩) = some c := by
  intro st
  have h : (withX bare [(5, Config.ticketOf 3)]).xget 5 = Config.ticketOf 3 := rfl
  exact ⟨rfl, List.mem_singleton.mpr (congrArg BitVec.toNat h), List.find?_cons_of_pos (by
    simp only [Bool.and_eq_true, decide_eq_true_eq]; exact ⟨h.symm, rfl⟩)⟩

/-- Both ranks have started; their records name `op`. -/
def gathered (op0 op1 : Nat) : State :=
  { bare with collectives := [started 0 op0 none, started 1 op1 none] }

theorem wit_CollectiveResult_alike : ∀ op, op ≤ 4 →
    let s := gathered op op
    let f := fun (c : Collective) lo k => leNat c.recd / 2 ^ lo % 2 ^ k
    [0, 1].Nodup ∧ (∀ e ∈ (started 0 op none).table, ∃ k, k < 2 ∧ whoOf (started k op none) = e) ∧
    (∀ k, k < 2 → Starts s (started k op none)) ∧ (∀ k, k < 2 → s.collectives.find? (fun c => c.ticket = [0, 1].getD k 0 && c.status = none) = some (started k op none)) ∧
    s.collectives.Pairwise (fun x y => x.ticket ≠ y.ticket) ∧
    (∀ k, k < 2 → let c := started k op none
      c.owner.serial ≠ 0 ∧ f c 264 8 = k ∧ c.table.length = 2 ∧ c.ticket = [0, 1].getD k 0 ∧ f c 252 1 = 0 ∧ f c 260 4 = op ∧
      f c 258 2 = 0 ∧ f c 253 5 = 4 ∧ f c 288 32 = 2 ∧ f c 272 16 = 0) ∧
    (∀ k, k < 2 → ∀ i, i < 4 → EngineReads s (started k op none).cmd (BitVec.ofNat 64 (f (started k op none) 448 64) + BitVec.ofNat 64 (4 * i)) [0, 0, 0, 0] ∧
      EngineEnds s .write ((started k op none).cmd.pa (BitVec.ofNat 64 (f (started k op none) 384 64) + BitVec.ofNat 64 (4 * i)))
        (0x4000204000 + 0x100 * k + 4 * i)) ∧
    WritesLand s ((List.range 2).flatMap fun k => (List.range 4).map fun j => (0x4000204000 + 0x100 * k + 4 * j, [0, 0, 0, 0])) := by
  intro op hop
  interval_cases op <;>
    · refine ⟨by decide, by decide +kernel, ?_, by decide, by decide, by decide +kernel, ?_, writes_land ⟨rfl, rfl⟩ (by decide +kernel) (by decide +kernel)⟩
      · intro k hk
        refine ⟨fun d hd ho hs ht => ?_, by interval_cases k <;> decide +kernel⟩
        interval_cases k <;> (simp only [gathered, List.mem_cons, List.not_mem_nil, or_false] at hd; rcases hd with rfl | rfl) <;>
          first | exact absurd ht (by decide) | exact absurd ho (by decide)
      intro k hk i hi
      interval_cases k <;> interval_cases i <;> exact ⟨engine_reads (by decide +kernel), engine_ends (by decide +kernel)⟩

theorem wit_CollectiveResult_differ : (leNat (started 0 0 none).recd / 2 ^ 260 % 2 ^ 4 = 0) ∧ leNat (started 1 3 none).recd / 2 ^ 260 % 2 ^ 4 = 3 ∧
    (gathered 0 3).collectives.find? (fun c => c.ticket = 1 && c.status = none) = some (started 1 3 none) ∧
    ∀ e ∈ (started 0 0 none).table, ∃ k, k < 2 ∧ whoOf (started k (3 * k) none) = e := by decide +kernel
/-! ### One page of 2 MB, for ranges too long to try address by address -/

/-- A walk reads an address only through its indexes and its page. -/
theorem walkFrom_same {s : State} {va va' : Nat} (hi : ∀ l, l < 4 → vaIndex va l = vaIndex va' l)
    (hp : ∀ l, 2 ≤ l → l < 4 → va / pageSize l = va' / pageSize l) :
    ∀ n level table, n + level ≤ 4 → s.walkFrom va n level table = s.walkFrom va' n level table := by
  intro n
  induction n with
  | zero => intros; rfl
  | succ n ih =>
    intro level table h
    have hl : level < 4 := by omega
    simp only [State.walkFrom, hi level hl, ih (level + 1) _ (by omega)]
    by_cases h2 : level < 2
    · simp [h2]
    · rw [hp level (by omega) hl]

/-- More levels than a walk needs change nothing. -/
theorem walkFrom_more {s : State} {va : Nat} {leaf : Leaf} : ∀ n level table,
    s.walkFrom va n level table = .ok leaf → s.walkFrom va (n + 1) level table = .ok leaf := by
  intro n
  induction n with
  | zero => intro level table h; cases h
  | succ n ih =>
    intro level table h
    rw [State.walkFrom] at h ⊢
    dsimp only at h ⊢
    split at h
    · cases h
    rename_i h1
    rw [if_neg h1]
    cases hr : s.resolve (table + 8 * vaIndex va level) with
    | error f => simp only [hr] at h; cases h
    | ok r =>
      simp only [hr] at h ⊢
      cases ht : s.farTether r with
      | some f => simp only [ht] at h; cases h
      | none =>
      cases hq : s.refusing r .read .read with
      | some l => simp only [ht, hq] at h; cases h
      | none =>
      cases hf : s.farWait r.pa with
      | some f => simp only [ht, hq, hf] at h; cases h
      | none =>
      simp only [ht, hq, hf] at h ⊢
      split at h
      · cases h
      rename_i h2
      rw [if_neg h2]
      split at h
      · cases h
      rename_i h3
      rw [if_neg h3]
      split at h
      · cases h
      rename_i h4
      rw [if_neg h4]
      split at h
      · rename_i h5
        rw [if_pos h5]; exact h
      · rename_i h5
        rw [if_neg h5]
        split at h
        · cases h
        rename_i h6
        rw [if_neg h6]
        exact ih _ _ h

/-- The page of `readyTables`. -/
def leafOfPage : Leaf := ⟨0x200000, 2 ^ 21, BitVec.ofNat 64 (readyPage + 3 + 2 ^ 55 + 2 ^ 56 + 2 ^ 57), readyPage⟩

/-- Every address of 0x200000 to 0x3FFFFF lies in that page, nothing has moved, and a TLB holds at most it. -/
structure OnePage (s : State) : Prop where
  lines : s.lines = []
  number : s.moduleNo = 0
  held : s.portHeld = []
  walk : ∀ va : Word, va.toNat / 2 ^ 21 = 1 → s.walk s.me.ptroot va = .ok leafOfPage
  tlb : ∀ e ∈ s.tlb, (⟨e.page, e.size, e.pte, e.base⟩ : Leaf) = leafOfPage

theorem onePage_of {s : State} (hl : s.lines = []) (hn : s.moduleNo = 0) (hp : s.portHeld = []) (ht : s.tlb = [])
    (hw : s.walkFrom 0x200000 4 0 (rootOf s.me.ptroot) = .ok leafOfPage) : OnePage s := by
  refine ⟨hl, hn, hp, fun va hva => ?_, by simp [ht]⟩
  have hlt : va.toNat < 2 ^ 22 := by omega
  have h0 : va.toNat / 2 ^ 56 % 2 ^ 8 = 0 := by omega
  have hc : canonical va = true := by unfold canonical bits; rw [h0]; rfl
  have hm : va.toNat % 2 ^ 57 = va.toNat := Nat.mod_eq_of_lt (by omega)
  rw [State.walk, if_pos hc, hm]
  apply walkFrom_more
  rw [walkFrom_same (va' := 0x200000) _ _ 4 0 _ (by omega)]
  · exact hw
  · intro l hl4
    interval_cases l <;> simp only [vaIndex, bits] <;> omega
  · intro l h2 hl4
    interval_cases l <;> simp only [pageSize] <;> omega

theorem page_eq : readyPage = 0x4000200000 := rfl
theorem base_eq : hbmBase = 0x4000000000 := rfl
theorem span_eq : hbmSpan = 0x1800000000 := rfl
theorem window_eq : windowBase = 0x1000000000000 := rfl

namespace OnePage

theorem leafOf {s : State} (h : OnePage s) {va : Word} (hva : va.toNat / 2 ^ 21 = 1) : s.leafOf s.me.ptroot va = .ok leafOfPage := by
  unfold State.leafOf
  simp only [h.walk va hva]
  have : (s.tlbHits s.me.ptroot va).filter (fun l => decide (leafOfPage ≠ l)) = [] := by
    rw [List.filter_eq_nil_iff]
    intro l hl
    obtain ⟨e, he, rfl⟩ := List.mem_map.mp hl
    simp [h.tlb e (List.mem_filter.mp he).1]
  rw [this]
  simp

theorem canon {s : State} (h : OnePage s) {pa : Nat} (hp : pa < windowBase) : s.canon pa = pa := by
  simp [State.canon, canonAt, h.number]; omega

theorem regionAt_local {pa : Nat} (h : ¬ windowBase ≤ pa) : regionAt pa = localRegion pa := by
  unfold regionAt
  rw [if_neg (by simp [h])]

theorem localRegion_hbm {pa : Nat} (h1 : hbmBase ≤ pa) (h2 : pa < hbmBase + 8 * hbmSpan) :
    localRegion pa = .hbm ((pa - hbmBase) / hbmSpan) := by
  unfold localRegion
  rw [if_pos (by simp [h1, h2])]

theorem regionAt_first {pa : Nat} (h1 : hbmBase ≤ pa) (h2 : pa < hbmBase + hbmSpan) (h3 : ¬ windowBase ≤ pa) : regionAt pa = .hbm 0 := by
  have e : (pa - hbmBase) / hbmSpan = 0 := Nat.div_eq_of_lt (Nat.sub_lt_left_of_lt_add h1 h2)
  have h4 : pa < hbmBase + 8 * hbmSpan := lt_of_lt_of_le h2 (Nat.add_le_add_left (Nat.le_mul_of_pos_left _ (by decide)) _)
  rw [regionAt_local h3, localRegion_hbm h1 h4, e]

theorem region {s : State} (h : OnePage s) {o : Nat} (ho : o < 2 ^ 21) : s.region (readyPage + o) = .hbm 0 := by
  have hw : readyPage + o < windowBase := by
    rw [window_eq, page_eq]; omega
  unfold State.region
  rw [h.canon hw]
  exact regionAt_first (by rw [base_eq, page_eq]; omega) (by rw [base_eq, span_eq, page_eq]; omega) (by omega)

theorem tether {s : State} (h : OnePage s) (pa : Nat) : s.tether pa = .plain := by
  simp [State.tether, State.meta_, h.lines, assocGet]

/-- Nothing of another module or of the slow tier stands in the way of an access to the page. -/
theorem near {s : State} (h : OnePage s) {o : Nat} (ho : o < 2 ^ 21) : s.farWait (readyPage + o) = none ∧ s.badLine (readyPage + o) = false ∧
    s.farTether ⟨readyPage + o, []⟩ = none ∧ s.slowPending (readyPage + o) = false := by
  have hf : s.farFault (readyPage + o) = 0 := by simp [State.farFault, h.region ho]
  exact ⟨by simp [State.farWait, h.region ho], by simp [State.badLine, hf, unpoisoned h.lines], by simp [State.farTether, hf],
    by simp [State.slowPending, h.held]⟩

theorem resolve {s : State} (h : OnePage s) {o : Nat} (ho : o < 2 ^ 21) : s.resolve (readyPage + o) = .ok ⟨readyPage + o, []⟩ := by
  have hw : readyPage + o < windowBase := by
    rw [window_eq, page_eq]; omega
  rw [State.resolve, State.resolveFrom, h.tether]
  simp [h.canon hw]

theorem probe {s : State} (h : OnePage s) {va : Word} {o : Nat} (hva : va.toNat = 0x200000 + o) (ho : o < 2 ^ 21) (a : Acc) (dev : Bool) :
    s.probe s.me.ptroot va a dev = .ok ⟨readyPage + o, [], false, false, false, readyPage + o⟩ := by
  have hw : readyPage + o < windowBase := by
    rw [window_eq, page_eq]; omega
  have hd : (0x200000 + o) / 2 ^ 21 = 1 := by omega
  have hm : (0x200000 + o) % 2 ^ 57 - 0x200000 = o := by omega
  have hx : s.xlate s.me.ptroot va a = .ok ⟨readyPage + o, readyPage, false, false, false⟩ := by
    unfold State.xlate
    rw [h.leafOf (by rw [hva]; exact hd)]
    have hp : permitted leafOfPage.pte.toNat a = none := by cases a <;> decide
    have e : s.canon (leafOfPage.base + (va.toNat % 2 ^ 57 - leafOfPage.page)) = readyPage + o := by
      rw [hva]
      show s.canon (readyPage + ((0x200000 + o) % 2 ^ 57 - 0x200000)) = _
      rw [hm, h.canon hw]
    have hoc : s.onChip (readyPage + o) = false := by simp [State.onChip, h.region ho]
    have hmt : pteMt leafOfPage.pte.toNat = 0 := by decide
    have hpin : ptePin leafOfPage.pte.toNat = false := by decide
    have hsink : pteSink leafOfPage.pte.toNat = false := by decide
    simp only [e, hp, h.region ho, hoc, hmt, hpin, hsink]
    rfl
  unfold State.probe
  have hr : s.refusing ⟨readyPage + o, []⟩ a a = none := by simp [State.refusing, State.admitted, h.region ho]
  simp [hx, h.resolve ho, (h.near ho).2.2.1, hr]

theorem probeRead {s : State} (h : OnePage s) {va : Word} {o : Nat} (hva : va.toNat = 0x200000 + o) (ho : o < 2 ^ 21) (dev : Bool) :
    s.probeRead s.me.ptroot va dev = .ok ⟨readyPage + o, [], false, false, false, readyPage + o⟩ := by
  simp [State.probeRead, h.probe hva ho, State.slotMismatch, State.slotTag, h.region ho]

theorem walkFrom_tlb (s : State) (x : List TlbEntry) (va : Nat) : ∀ n level table,
    ({ s with tlb := x } : State).walkFrom va n level table = s.walkFrom va n level table := by
  intro n
  induction n with
  | zero => intros; rfl
  | succ n ih =>
    intro level table
    have h1 : ({ s with tlb := x } : State).mapped = s.mapped := rfl
    have h2 : ({ s with tlb := x } : State).resolve = s.resolve := by
      funext pa
      have : ∀ n via pa, ({ s with tlb := x } : State).resolveFrom n via pa = s.resolveFrom n via pa := by
        intro n
        induction n with
        | zero => intro via pa; rw [State.resolveFrom, State.resolveFrom]; rfl
        | succ n ih => intro via pa; rw [State.resolveFrom, State.resolveFrom]; simp only [ih]; rfl
      exact this 3 [] pa
    have h3 : ({ s with tlb := x } : State).badLine = s.badLine := rfl
    have h7 : ({ s with tlb := x } : State).farWait = s.farWait := rfl
    have h8 : ({ s with tlb := x } : State).farTether = s.farTether := rfl
    have h9 : ({ s with tlb := x } : State).refusing = s.refusing := rfl
    have h4 : ({ s with tlb := x } : State).natAt = s.natAt := rfl
    have h5 : ({ s with tlb := x } : State).onChipSizeOk = s.onChipSizeOk := rfl
    have h6 : ({ s with tlb := x } : State).pageMapped = s.pageMapped := rfl
    simp only [State.walkFrom, ih, h1, h2, h3, h4, h5, h6, h7, h8, h9]

theorem noteXlate {s : State} (h : OnePage s) (r : Word) {va : Word} (hva : va.toNat / 2 ^ 21 = 1) (hr : r = s.me.ptroot) :
    OnePage (s.noteXlate r va) := by
  subst hr
  unfold State.noteXlate
  rw [h.leafOf hva]
  dsimp only
  split
  · exact h
  · refine ⟨h.lines, h.number, h.held, fun va hva => ?_, fun e he => ?_⟩
    · rw [← h.walk va hva]; unfold State.walk; rw [walkFrom_tlb]
    rcases List.mem_cons.mp he with rfl | he
    · rfl
    · exact h.tlb e (List.mem_of_mem_take he)

end OnePage

namespace OnePage

theorem blockWords {s : State} (h : OnePage s) : ∀ (k : Nat) {va : Word} {o : Nat}, va.toNat = 0x200000 + o → o + 8 * k ≤ 2 ^ 21 →
    ∃ ws, s.blockWords k va = .ok ws ∧ ∀ w ∈ ws, ∃ o', o' < 2 ^ 21 ∧ w.1 = readyPage + o' := by
  intro k
  induction k with
  | zero => intro va o _ _; exact ⟨[], rfl, by simp⟩
  | succ k ih =>
    intro va o hva ho
    obtain ⟨ws, hw, hall⟩ := ih (va := va + 8) (o := o + 8)
      (by rw [BitVec.toNat_add, hva, Nat.mod_eq_of_lt (by simp; omega)]; simp; omega) (by omega)
    have ho' : o < 2 ^ 21 := by omega
    refine ⟨(readyPage + o, s.bytesOver s.ownSbuf (readyPage + o) 8) :: ws, ?_, ?_⟩
    · have hw' : s.blockWords k (va + 8#64) = .ok ws := hw
      simp [State.blockWords, h.probeRead hva ho', State.tagOk, h.region ho', State.poisonCheck, State.reachCheck,
        (h.near ho').1, (h.near ho').2.1, (h.near ho').2.2.2, hw']
    · intro w hm
      rcases List.mem_cons.mp hm with rfl | hm
      · exact ⟨o, ho', rfl⟩
      · exact hall w hm

theorem disarm {s : State} (h : OnePage s) {o : Nat} (ho : o < 2 ^ 21) : s.disarm (readyPage + o) = s := by
  simp [State.disarm, State.slotTag, h.region ho]

/-- `t` differs from `s` in its TLB alone. -/
theorem noteXlate_tlb (s : State) (r va : Word) : s.noteXlate r va = { s with tlb := (s.noteXlate r va).tlb } := by
  unfold State.noteXlate
  split
  · rfl
  · dsimp only; split <;> rfl

theorem blockRead {s : State} (h : OnePage s) (k : Nat) {va : Word} {o : Nat} (hva : va.toNat = 0x200000 + o) (ho : o + 8 * k ≤ 2 ^ 21) :
    ∃ t bs, s.blockRead k va = .ok (t, bs) ∧ OnePage t ∧ t = { s with tlb := t.tlb } := by
  obtain ⟨ws, hw, hall⟩ := h.blockWords k hva ho
  have hd : ∀ ws : List (Nat × List Byte), (∀ w ∈ ws, ∃ o', o' < 2 ^ 21 ∧ w.1 = readyPage + o') →
      ws.foldl (fun t w => t.disarm w.1) s = s := by
    intro ws
    induction ws with
    | nil => intro _; rfl
    | cons w ws ih =>
      intro hall
      obtain ⟨o', ho', e⟩ := hall w (by simp)
      rw [List.foldl_cons, e, h.disarm ho']
      exact ih fun w hw => hall w (by simp [hw])
  have hn : ∀ js : List Nat, (∀ j ∈ js, j < k) → ∀ u, OnePage u → u = { s with tlb := u.tlb } →
      OnePage (js.foldl (fun t j => t.noteXlate t.me.ptroot (va + BitVec.ofNat 64 (8 * j))) u) ∧
      js.foldl (fun t j => t.noteXlate t.me.ptroot (va + BitVec.ofNat 64 (8 * j))) u =
        { s with tlb := (js.foldl (fun t j => t.noteXlate t.me.ptroot (va + BitVec.ofNat 64 (8 * j))) u).tlb } := by
    intro js
    induction js with
    | nil => intro _ u hu hs; exact ⟨hu, hs⟩
    | cons j js ih =>
      intro hjs u hu hs
      have hj : j < k := hjs j (by simp)
      refine ih (fun j hj => hjs j (by simp [hj])) _ (hu.noteXlate _ ?_ rfl) ?_
      · rw [BitVec.toNat_add, hva, BitVec.toNat_ofNat, Nat.mod_eq_of_lt (by omega), Nat.mod_eq_of_lt (by omega)]; omega
      · dsimp only; rw [noteXlate_tlb, hs]
  have := hn (List.range k) (fun j hj => List.mem_range.mp hj) s h rfl
  refine ⟨_, ws.flatMap (·.2), ?_, this.1, this.2⟩
  simp only [State.blockRead, hw, hd ws hall]

theorem readSections {s : State} {base : Word} {o : Nat} (hb : base.toNat = 0x200000 + o) : ∀ (l : List (Nat × Nat)) (t : State) (m : Image),
    OnePage t → t = { s with tlb := t.tlb } → (∀ e ∈ l, o + e.1 + 8 * ((e.2 + 7) / 8) ≤ 2 ^ 21) →
    ∃ u m', t.readSections base m l = .ok (u, m') ∧ OnePage u ∧ u = { s with tlb := u.tlb } := by
  intro l
  induction l with
  | nil => intro t m ht hs _; exact ⟨t, m, rfl, ht, hs⟩
  | cons e l ih =>
    intro t m ht hs hl
    have he := hl e (by simp)
    obtain ⟨u, bs, hr, hu, hus⟩ := ht.blockRead ((e.2 + 7) / 8) (va := base + BitVec.ofNat 64 e.1) (o := o + e.1)
      (by rw [BitVec.toNat_add, hb, BitVec.toNat_ofNat, Nat.mod_eq_of_lt (by omega), Nat.mod_eq_of_lt (by omega)]; omega) he
    obtain ⟨w, m', h2, hw, hws⟩ := ih u (imgPut m e.1 (bs.take e.2)) hu (by rw [hus, hs]) fun e he => hl e (by simp [he])
    exact ⟨w, m', by rw [State.readSections, hr]; exact h2, hw, hws⟩

theorem lands {s : State} (h : OnePage s) (hlog : s.logs = []) (hring : s.rings = []) (hq : s.trapqs = []) {o n : Nat} (ho : o + n ≤ 2 ^ 21) :
    s.lands (readyPage + o) n := by
  have hr : ∀ j, j < n → readyPage + o + j < windowBase := fun j hj => by
    rw [window_eq, page_eq]; omega
  refine ⟨fun j hj => ⟨h.canon (hr j hj), by simp [State.hwOnly, hlog, hring, hq], by simp [State.isOvf, hq]⟩, fun j hj => ⟨h.tether _, fun hm => ?_⟩, fun j m hj hm => ?_⟩ <;>
  · rw [Nat.add_assoc, h.region (by omega)] at hm
    cases hm

theorem ends {s : State} (h : OnePage s) {o : Nat} (ho : o < 2 ^ 21) : EngineEnds s .write (readyPage + o) (readyPage + o) :=
  ⟨_, h.resolve ho, (h.near ho).2.2.1, by simp [State.refusing, State.admitted, h.region ho], rfl⟩

theorem blockDest {s : State} (h : OnePage s) {va : Word} {o : Nat} (hva : va.toNat = 0x200000 + o) (ho : o < 2 ^ 21) :
    s.blockDest va = .ok ⟨readyPage + o, []⟩ := by
  simp [State.blockDest, h.probe hva ho, State.tagOk, h.region ho]

end OnePage
/-! ### Contexts, translations and tethers -/

/-- A privileged strand that holds slice 0, and another in slot 1 which is to be saved; x1 names the page's byte 0x80000. -/
def marked (f : Bool) : Strand := { readyStrand with slot := 1, cur := 2, recd := 2, mark := true, pend := f }

def saving (f : Bool) : State :=
  { withX (boss (withMe paged fun t => { t with cur := 1, recd := 1 })) [(1, 0x280000), (2, 1)] with
    strands := [marked f], saveAreas := [(0, readyPage)] }

theorem saving_page (f : Bool) : OnePage (saving f) := by
  cases f <;> exact onePage_of rfl rfl rfl rfl (ok_eq (by decide +kernel))

theorem fits_marked (f : Bool) : Fits (marked f) := by
  cases f <;> exact ⟨by decide, by decide, by decide, by decide, by decide⟩

theorem quiet_marked (f : Bool) : Quiet (saving f) (marked f) :=
  ⟨rfl, (by intro e he; cases he), (by intro e he; cases he), (by intro e he; cases he), ⟨rfl, rfl⟩, (by intro e he; cases he), rfl⟩

theorem wit_SaveResults : ∃ t, Fits t ∧ (1 : Nat) < 4 ∧ (saving false).issues [3, 1, 2] ∧ ScalarGoes (saving false).settleFirst ∧
    (saving false).me.priv = true ∧ (saving false).me.placed = true ∧ ((saving false).xget 2).toNat = 1 ∧ (saving false).settleFirst = saving false ∧
    ServedBy (saving false) 1 t ∧ Quiet (saving false) t ∧ ((saving false).xget 1).toNat % 4096 = 0 ∧ (readyPage + 0x80000) % 4096 = 0 ∧
    (saving false).lands (readyPage + 0x80000) 0x9D000 ∧
    (∀ size, (saving false).me.parked ≠ .ctxsave size) ∧ (saving false).unfinished (saving false).me = false ∧
    ∀ o, o < 0x9D000 → (saving false).blockDest ((saving false).xget 1 + BitVec.ofNat 64 o) = .ok ⟨readyPage + 0x80000 + o, []⟩ := by
  refine ⟨_, fits_marked false, by decide, rfl, by decide, by decide, by decide, by decide, rfl, ⟨by decide, rfl, by decide⟩, quiet_marked false,
    by decide, by decide, (saving_page false).lands rfl rfl rfl (by omega), fun size h => (nomatch (h : Parked.no = .ctxsave size)), by decide,
    fun o ho => ?_⟩
  have hx : (saving false).xget 1 = 0x280000 := rfl
  have hv : ((saving false).xget 1 + BitVec.ofNat 64 o).toNat = 0x200000 + (0x80000 + o) := by
    rw [hx, BitVec.toNat_add, BitVec.toNat_ofNat, Nat.mod_eq_of_lt (a := o) (by omega)]
    show (0x280000 + o) % 2 ^ 64 = _
    omega
  rw [(saving_page false).blockDest hv (by omega), Nat.add_assoc]

theorem wit_SaveResults_forced : ∀ f, let s := saving f
    ∃ t, Fits t ∧ s.me.placed = true ∧ s.me.slot ≠ 1 ∧ s.strandAt 0 1 = some t ∧ Quiet s t ∧ t.pend = f ∧ t.left = 0 ∧ s.halted 0 = false ∧
      s.saveAreas.find? (fun e => e.1 = t.logical) = some (t.logical, readyPage) ∧ (readyPage + 0x9D000 * 1) % 4096 = 0 ∧
      s.lands (readyPage + 0x9D000 * 1) 0x9D000 ∧
      (∀ o, o < 0x9D000 → EngineEnds s .write (readyPage + 0x9D000 * 1 + o) (readyPage + 0x9D000 * 1 + o)) ∧ s.trapqs = [] := by
  intro f
  exact ⟨_, fits_marked f, rfl, by show (0 : Nat) ≠ 1; decide, rfl, quiet_marked f, rfl, rfl, rfl, rfl, by decide,
    (saving_page _).lands rfl rfl rfl (by omega),
    fun o ho => Nat.add_assoc readyPage _ o ▸ (saving_page _).ends (by omega), rfl⟩

/-- The executing strand itself runs out of time. -/
def selfSaving : State := { bare with me := { readyStrand with pend := true }, saveAreas := [(0, readyPage)] }

theorem wit_SaveResults_self : selfSaving.me.placed = true ∧ selfSaving.strandAt 0 0 = some selfSaving.me ∧
    (∀ q ∈ selfSaving.strands, ¬ (q.core = 0 ∧ q.slot = 0)) ∧ Quiet selfSaving selfSaving.me ∧ Fits selfSaving.me :=
  ⟨by decide, rfl, by decide, ⟨rfl, (by intro e he; cases he), (by intro e he; cases he), (by intro e he; cases he), ⟨rfl, rfl⟩, (by intro e he; cases he), rfl⟩,
    by decide, by decide, by decide, by decide, by decide⟩

/-- The header of an image of a strand that held one slice and no unit; `v` is its version. -/
def imageHead (v : Nat) : List Byte := leBytes 8 (v + 2 ^ 31 + 2 ^ 35)

/-- The image stands at 0x280000; the executing strand holds `lanes`. -/
def restoring (v : Nat) (lanes : BitVec 4) : State :=
  withX (boss (withMe (paged.putBytes 0x4000280000 (imageHead v)) fun t => { t with cur := lanes, recd := lanes })) [(1, 0x280000), (2, 1), (3, 4)]

theorem restoring_page {lanes : BitVec 4} (hl : lanes = 1 ∨ lanes = 15) : ∀ v, v = 0 ∨ v = 1 → OnePage (restoring v lanes) := by
  rintro v (rfl | rfl) <;> rcases hl with rfl | rfl <;> exact onePage_of rfl rfl rfl rfl (ok_eq (by decide +kernel))

theorem grantable_tlb (s : State) (x : List TlbEntry) (c : Nat) : ({ s with tlb := x } : State).grantable c = s.grantable c := rfl

theorem header_read {s : State} {base : Word} {o : Nat} (hb : base.toNat = 0x200000 + o) (h : OnePage s) (ho : o + 64 ≤ 2 ^ 21) :
    ∃ u m, s.readSections base [] [(0, 64)] = .ok (u, m) ∧ OnePage u ∧ u = { s with tlb := u.tlb } :=
  OnePage.readSections hb [(0, 64)] s [] h rfl (by intro e he; obtain rfl := List.mem_singleton.mp he; simpa using ho)

theorem wit_RestoreResults : ∀ lanes v, (lanes = 1 ∨ lanes = 15) → (v = 0 ∨ v = 1) → let s := restoring v lanes
    s.issues [1, 2] ∧ ScalarGoes s ∧ s.me.priv = true ∧ s.me.placed = true ∧ s.settleFirst = s ∧
      ((s.xget 2).toNat = 1 ∧ (s.xget 3).toNat = 4) ∧ s.strandAt 0 1 = none ∧ (s.xget 1).toNat % 4096 = 0 ∧
      ∃ v' m0 w m, s.readSections (s.xget 1) [] [(0, 64)] = .ok (v', m0) ∧ imgNat m0 0 8 = v + 2 ^ 31 + 2 ^ 35 ∧
        v'.readSections (s.xget 1) m0 (sectionsOf (imgNat m0 0 8)) = .ok (w, m) ∧ (w.core 0).islandCmds = [] ∧
        ((w.grantable 0).length < 1 ↔ lanes = 15) ∧ (w.core 0).units = [] := by
  intro lanes v hlanes hv
  have hp := restoring_page hlanes v hv
  have hx : ((restoring v lanes).xget 1).toNat = 0x200000 + 0x80000 := by
    rcases hv with rfl | rfl <;> rfl
  have hh : okAnd ((restoring v lanes).readSections ((restoring v lanes).xget 1) [] [(0, 64)])
      (fun vm => imgNat vm.2 0 8 == v + 2 ^ 31 + 2 ^ 35) = true := by
    rcases hlanes with rfl | rfl <;> rcases hv with rfl | rfl <;> decide +kernel
  obtain ⟨⟨v', m0⟩, hr, hm⟩ := ok_with hh
  have hm := eq_of_beq hm
  obtain ⟨u, m1, h1, hu, hus⟩ := header_read hx hp (by norm_num)
  rw [hr] at h1
  obtain ⟨rfl, rfl⟩ : v' = u ∧ m0 = m1 := by injection h1 with h1; exact ⟨congrArg Prod.fst h1, congrArg Prod.snd h1⟩
  obtain ⟨w, m, h2, hw, hws⟩ := OnePage.readSections (s := restoring v lanes) hx (sectionsOf (imgNat m0 0 8)) v' m0 hu hus (by
    rw [hm]; rcases hv with rfl | rfl <;> decide)
  refine ⟨?_, ?_, ?_, ?_, ?_, ?_, ?_, ?_, v', m0, w, m, hr, hm, h2, ?_, ?_, ?_⟩
  rotate_left 8
  · rw [hws]; rcases hv with rfl | rfl <;> rfl
  · rw [hws, grantable_tlb]
    rcases hlanes with rfl | rfl <;> rcases hv with rfl | rfl <;> decide +kernel
  · rw [hws]; rcases hv with rfl | rfl <;> rfl
  all_goals rcases hv with rfl | rfl <;> first | rfl | omega | exact ⟨rfl, rfl⟩ | exact ⟨(by intro k hk; cases hk), (by intro m hm; cases hm)⟩

theorem wit_TlbInvalidationResults : (boss bare).issues [1, 2] ∧ ScalarGoes (boss bare).settleFirst ∧ (boss bare).me.priv = true ∧
    (((boss bare).settleFirst.drainSbuf 0 fun e => e.slot = 0).settleHeld 0 0).stillHeld 0 0 (fun o => o.path = 5) = false ∧
    ((holdsWrite.settleFirst.drainSbuf 0 fun e => e.slot = 0).settleHeld 0 0).stillHeld 0 0 (fun o => o.path = 5) = true ∧ (boss bare).xget 2 ≠ allOnes ∧ (withX (boss bare) [(2, allOnes)]).xget 2 = allOnes := by
  unfold State.issues; decide

/-- x5 and x6 name two lines of the page; a line has the sideband given. -/
def moving (x : Tether) : State :=
  { withX paged [(5, 0x201000), (6, 0x202000), (7, 0x202001)] with
    lines := if x = .plain then [] else [(0x4000201000, { tether := x })] }

/-- Where the two words of a move end. -/
def moveOk (s : State) : Bool :=
  okAnd (s.probe s.me.ptroot 0x201000 .write false) (fun p => !p.sink && !p.pin && s.hasTether p.pa && !s.onChip p.pa &&
    s.canon (lineOf (s.settle p.pa).2) == lineOf (s.settle p.pa).2 &&
    okAnd (s.xlate s.me.ptroot 0x202000 .write) fun x => !x.device && s.admitted x.pa .write && !x.sink && !x.pin && !s.onChip x.pa &&
      s.tether x.pa == .plain && (s.farTether ⟨x.pa, []⟩).isNone && (s.settle p.pa).1.tether (s.settle p.pa).2 != .inTransit &&
      (s.settle p.pa).1.hasTether (s.settle p.pa).2 && lineOf x.pa != lineOf p.pa && s.moves == [])

theorem wit_MoveResults : (moving .plain).issues [5, 6] ∧ ScalarGoes (moving .plain).beforeMove ∧
    ((moving .plain).xget 5).toNat % 128 = 0 ∧ ((moving .plain).xget 6).toNat % 128 = 0 ∧ ((moving .plain).xget 7).toNat % 128 ≠ 0 ∧
    (moving .plain).beforeMove.stillHeld 0 0 (fun o => o.path = 5) = false ∧ moveOk (moving .plain).beforeMove = true := by
  unfold State.issues; decide +kernel

/-- A move under way between the two lines. -/
def underWay : State :=
  { moving .inTransit with moves := [{ line := 0x4000201000, dest := 0x4000202000, colour := 0, owner := ⟨0, 0, 0⟩, via := [] }] }

theorem wit_MoveResults_commit : ∃ m, underWay.moves.find? (fun n => n.line = m.line) = some m ∧ m.line % 128 = 0 ∧ m.dest % 128 = 0 ∧
    m.line ≠ m.dest ∧ (∀ j, j < 128 → underWay.canon (m.line + j) = m.line + j) ∧ underWay.plainBytes m.dest 128 ∧
    underWay.hasTether m.line = true ∧ underWay.tether m.dest = .plain ∧ underWay.destReady m.dest = true :=
  ⟨{ line := 0x4000201000, dest := 0x4000202000, colour := 0, owner := ⟨0, 0, 0⟩ }, by decide, by decide, by decide, by decide, by decide +kernel,
    (lands_of (s := underWay) (n := 128) (by decide +kernel)).1, by decide, by decide, by decide⟩

/-- The destination lies in a module whose port is down. -/
theorem wit_MoveResults_unreachable : bare.destReady (windowBase + windowSpan * 3 + hbmBase) = false := by decide

/-- A store of another core on its way through the line. -/
def passing (s : State) : State :=
  s.setCore 9 { s.core 9 with sbuf :=
    [{ slot := 0, path := 0, pa := 0x4000202000, bytes := [(1, 0xFF)], colour := 0, via := [0x4000201000], word := 0, heal := false }] }

theorem wit_ReleaseResults : (moving .tethered).issues [5] ∧
    (∀ s ∈ [moving .plain, moving .tethered, passing (moving .tethered), moving .released], ScalarGoes s.beforeRelease) ∧
    ((moving .tethered).xget 7).toNat % 128 ≠ 0 ∧
    (∀ s ∈ [moving .plain, moving .tethered, passing (moving .tethered), moving .released],
      okAnd (s.beforeRelease.xlate s.me.ptroot (s.xget 5) .write) (fun x => !x.device && s.beforeRelease.admitted x.pa .write &&
        lineOf x.pa == 0x4000201000) = true) ∧
    (moving .plain).beforeRelease.tether 0x4000201000 = .plain ∧ (moving .tethered).beforeRelease.tether 0x4000201000 = .tethered ∧
    (moving .tethered).beforeRelease.inFlight 0x4000201000 = false ∧
    (passing (moving .tethered)).beforeRelease.tether 0x4000201000 = .tethered ∧
    (passing (moving .tethered)).beforeRelease.inFlight 0x4000201000 = true ∧
    (moving .released).beforeRelease.tether 0x4000201000 = .released ∧
    (moving .released).beforeRelease.plainBytes 0x4000201000 128 ∧ (moving .released).beforeRelease.region 0x4000201000 = .hbm 0 := by
  unfold State.issues State.plainBytes; decide +kernel

theorem wit_ReleaseResults_done : ∀ s, s = moving .tethered ∨ s = passing (moving .tethered) →
    let t := withMe s fun t => { t with parked := .trel 0x4000201000 }
    t.canon 0x4000201000 = 0x4000201000 ∧ t.me.placed = true ∧ t.me.parked = .trel 0x4000201000 ∧ t.tether 0x4000201000 = .tethered := by
  rintro s (rfl | rfl) <;> decide +kernel
/-! ### Launches, windows and placement -/

/-- A header of one field of width 8 that selects core 0; `more` adds further fields. -/
def headerOf (more : Nat) : List Byte := leBytes 256 (2 ^ 503 + 8 * 2 ^ 483 + 2 ^ 1024 + more)

/-- Fields of a header by their places: WCNT, DONE, FIRE, PERIOD, LATE, DELAY, one dependence at 0x202000 and its value. -/
def hWithDone : Nat := 0x202010 * 2 ^ 192
def hTimed (period : Nat) : Nat := 5000 * 2 ^ 256 + period * 2 ^ 320
def hWaits (addr value : Nat) : Nat := 2 ^ 500 + addr * 2 ^ 512 + value * 2 ^ 576

def bookRecord : List Byte :=
  leBytes 8 0x204000 ++ leBytes 8 1 ++ leBytes 16 0 ++ leBytes 8 readyRoot ++ leBytes 4 4 ++ leBytes 4 1

def book : Log :=
  { die := 0, index := 0, addr := 0x4000203000, base := 0x204000, n := 4, root := BitVec.ofNat 64 readyRoot, priv := true,
    next := 0, head := 0, fails := 0 }

/-- A log whose record stands at 0x4000203000; its first slot holds h. -/
def booked (h : List Byte) : State :=
  { managed ((paged.putBytes 0x4000203000 bookRecord).putBytes 0x4000204000 h) with logs := [book] }

theorem wit_LaunchLifeResults_register : (booked []).capturing = false ∧ (booked []).replaying = false ∧ (booked []).moves = [] ∧ (booked []).firmware = true ∧ directOk (booked []) 0x4000203000 64 = true ∧
    (let f := fun lo n => (booked []).natAt 0x4000203000 64 / 2 ^ lo % 2 ^ n
     (0 : Nat) < 4 ∧ (0 : Nat) < 32 ∧ 0x4000203000 % 64 = 0 ∧ f 353 159 = 0 ∧ f 320 32 ≠ 0 ∧ f 0 64 % 256 = 0) ∧
    ¬ (4 : Nat) < 4 := by
  decide +kernel

/-- A log of one slot, which is taken. -/
def fullBook : State := { booked [] with logs := [{ book with n := 1, next := 1 }] }

theorem legal_header : HeaderLegal (headerOf 0) ∧ HeaderLegal (headerOf (hWaits 0x202000 7)) ∧ HeaderLegal (headerOf (hTimed 100)) ∧
    ¬ HeaderLegal (headerOf 1) := by
  have h1 : ∀ k, k < 6 → (k = 0 ∨ k = 1 ∨ k = 2 ∨ k = 3 ∨ k = 4 ∨ k = 5) := by omega
  have h2 : ∀ k, k < 4 → (k = 0 ∨ k = 1 ∨ k = 2 ∨ k = 3) := by omega
  have go : ∀ m, hdr (headerOf m) 1264 16 = 0 → hdr (headerOf m) 506 6 = 0 → hdr (headerOf m) 0 64 % 4 = 0 →
      hdr (headerOf m) 192 64 % 8 = 0 → hdr (headerOf m) 503 3 = 1 → hdr (headerOf m) 483 7 = 8 → hdr (headerOf m) 448 35 = 0 →
      (∀ k ∈ [0, 7, 14, 21, 28], hdr (headerOf m) (448 + k) 7 = 0) → hdr (headerOf m) 64 64 ≤ 256 → hdr (headerOf m) 500 3 ≤ 4 →
      (∀ j, j < 4 → if j < hdr (headerOf m) 500 3 then hdr (headerOf m) (512 + 128 * j) 64 % 8 = 0
        else hdr (headerOf m) (512 + 128 * j) 64 = 0 ∧ hdr (headerOf m) (576 + 128 * j) 64 = 0) →
      hdr (headerOf m) 498 2 ≠ 3 → (hdr (headerOf m) 320 64 ≠ 0 → hdr (headerOf m) 256 64 ≠ 0) → hdr (headerOf m) 1024 1 = 1 →
      HeaderLegal (headerOf m) := by
    intro m a1 a2 a3 a4 a5 a6 a7 a8 a9 a10 a11 a12 a13 a14
    refine ⟨a1, a2, a3, a4, by omega, by omega, ?_, ?_, ?_, a10, a11, a12, a13, 0, by omega, a14⟩
    · intro k hk
      rw [a5]
      rcases h1 k hk with rfl | rfl | rfl | rfl | rfl | rfl
      · rw [if_pos (by omega)]; show 1 ≤ hdr _ 483 7 ∧ hdr _ 483 7 ≤ 64; omega
      all_goals rw [if_neg (by omega)]
      · exact a8 28 (by decide)
      · exact a8 21 (by decide)
      · exact a8 14 (by decide)
      · exact a8 7 (by decide)
      · exact a8 0 (by decide)
    · rw [a5]; show (hdr (headerOf m) 483 7 + 0) ≤ 64; omega
    · rw [a5]; show _ ≤ 2 ^ (hdr (headerOf m) 483 7 + 0); rw [a6]; exact a9
  refine ⟨?_, ?_, ?_, ?_⟩
  iterate 3 (apply go <;> decide +kernel)
  rintro ⟨-, -, h, -⟩
  revert h; decide +kernel

/-- The log's first slot holds header m, and may be accepted. -/
def Acceptable (m : Nat) : Prop :=
  let s := booked (headerOf m)
  s.capturing = false ∧ s.replaying = false ∧ s.log 0 0 = some book ∧ s.firmware = true ∧ s.dieHalted 0 = false ∧ directOk s (book.addr + 8) 8 = true ∧
    book.next < s.natAt (book.addr + 8) 8 ∧ book.next - book.head < book.n ∧ s.launch ⟨0, 0, book.next⟩ = none ∧
    s.dispRead book.root 32 (book.base + BitVec.ofNat 64 (256 * (book.next % book.n))) = .ok (headerOf m)

theorem wit_LaunchLifeResults_accept : Acceptable 0 ∧ Acceptable 1 ∧ Acceptable (hWaits 0x202000 7) := by
  refine ⟨?_, ?_, ?_⟩ <;>
    exact ⟨by decide, by decide, by decide, by decide, by decide, by decide +kernel, by decide +kernel, by decide, by decide, ok_eq (by decide +kernel)⟩

theorem err_of {ε α : Type} {x : Except ε α} (h : x.isOk = false) : ∃ f, x = .error f := by
  cases x with
  | error e => exact ⟨e, rfl⟩
  | ok a => cases h

/-- An error that does not wait. -/
theorem err_with {α : Type} {x : Except FaultInfo α} (h : (match x with | .error f => !f.waits | .ok _ => false) = true) :
    ∃ f, x = .error f ∧ f.waits = false := by
  cases x with
  | error e => exact ⟨e, rfl, by simpa using h⟩
  | ok a => cases h

/-- A log whose root leads nowhere. -/
def lostBook : State := { booked [] with logs := [{ book with root := 0 }] }

theorem wit_LaunchLifeResults_refuse : fullBook.log 0 0 = some { book with n := 1, next := 1 } ∧ fullBook.firmware = true ∧
    fullBook.dieHalted 0 = false ∧ ¬ (1 < fullBook.natAt (book.addr + 8) 8 ∧ 1 - 0 < 1) ∧
    lostBook.log 0 0 = some { book with root := 0 } ∧ lostBook.launch ⟨0, 0, 0⟩ = none ∧
    (0 < lostBook.natAt (book.addr + 8) 8 ∧ 0 - 0 < 4) ∧ ∃ f, lostBook.dispRead 0 32 0x204000 = .error f ∧ f.waits = false :=
  ⟨by decide, by decide, by decide, by omega, by decide, by decide, by decide +kernel, err_with (by decide +kernel)⟩

/-- A launch of that log's first slot. -/
def flown (more : Nat) (st : LaunchState) : Launch :=
  { key := ⟨0, 0, 0⟩, header := headerOf more, hva := 0x204000, hpa := 0x4000204000, root := BitVec.ofNat 64 readyRoot, priv := true,
    state := st, deps := [], firing := 0, due := 5000, period := 100, waiting := none, places := [], ended := 0, failed := false,
    saved := [], queues := List.replicate 4 { order := 0, queuedAt := 0, aged := 0 }, lastCore := none }

def flying (l : Launch) : State := { booked l.header with launches := [l] }

theorem wit_LaunchLifeResults_wait : (∀ value ∈ [7, 0], let s := flying { flown (hWaits 0x202000 value) .depwait with deps := [false] }
      s.dieHalted 0 = false ∧ s.capturing = false ∧ s.replaying = false ∧ (0 : Nat) < hdr (headerOf (hWaits 0x202000 value)) 500 3 ∧
      ∃ bs, s.dispRead (BitVec.ofNat 64 readyRoot) 1 (BitVec.ofNat 64 (hdr (headerOf (hWaits 0x202000 value)) 512 64)) = .ok bs ∧
        (leNat bs < hdr (headerOf (hWaits 0x202000 value)) 576 64 ↔ value = 7)) ∧
    (let s := flying { flown (hWaits 0 7) .depwait with deps := [false] };
      (0 : Nat) < hdr (headerOf (hWaits 0 7)) 500 3 ∧
      ∃ f, s.dispRead (BitVec.ofNat 64 readyRoot) 1 (BitVec.ofNat 64 (hdr (headerOf (hWaits 0 7)) 512 64)) = .error f ∧ f.waits = false) ∧
    (flying { flown (hWaits 0 7) .depwait with deps := [true] }).launch ⟨0, 0, 0⟩ = some { flown (hWaits 0 7) .depwait with deps := [true] } := by
  refine ⟨?_, ⟨by decide +kernel, err_with (by decide +kernel)⟩, by decide +kernel⟩
  intro value hv
  simp only [List.mem_cons, List.not_mem_nil, or_false] at hv
  rcases hv with rfl | rfl <;>
    exact ⟨by decide, by decide, by decide, by decide +kernel, _, ok_eq (a := List.replicate 8 0) (by decide +kernel), by decide +kernel⟩

/-- A launch whose one strand has ended, or not. -/
def ended (more n : Nat) : Launch := { flown more .draining with places := [(0, 0)], ended := n }

def totalOf (h : List Byte) : Nat :=
  if hdr h 64 64 = 0 then ((List.range 240).filter fun n => hdr h (1024 + n) 1 = 1).length else hdr h 64 64

theorem wit_LaunchLifeResults_fire : (∀ m ∈ [0, hTimed 0, hTimed 100], (ended m 1).places.length = totalOf (headerOf m) ∧
      totalOf (headerOf m) = 1 ∧ (flying (ended m 1)).launch ⟨0, 0, 0⟩ = some (ended m 1)) ∧
    hdr (headerOf 0) 256 64 = 0 ∧ hdr (headerOf (hTimed 0)) 256 64 ≠ 0 ∧ hdr (headerOf (hTimed 100)) 256 64 ≠ 0 ∧
    (∀ p ∈ [0, 100], ∃ bs, (flying (ended (hTimed p) 1)).dispRead (BitVec.ofNat 64 readyRoot) 1 (0x204000 + 40) = .ok bs ∧ leNat bs = p) := by
  refine ⟨by decide +kernel, by decide +kernel, by decide +kernel, by decide +kernel, fun p hp => ?_⟩
  simp only [List.mem_cons, List.not_mem_nil, or_false] at hp
  rcases hp with rfl | rfl
  · exact ⟨leBytes 8 0, ok_eq (by decide +kernel), by decide⟩
  · exact ⟨leBytes 8 100, ok_eq (by decide +kernel), by decide⟩

theorem wit_LaunchLifeResults_retire : (∀ l ∈ [flown 0 .ending, { flown 0 .ending with failed := true }, flown hWithDone .ending,
      flown (8 * 2 ^ 192) .ending], let s := flying l
      s.log 0 0 = some book ∧ directOk s (book.addr + 16) 16 = true ∧ book.head = l.key.slot ∧
      (∀ m ∈ s.launches, m.key = ⟨0, 0, book.head + 1⟩ → m.state ≠ .retired) ∧
      s.trapqs = []) ∧
    hdr (headerOf 0) 192 64 = 0 ∧ hdr (headerOf hWithDone) 192 64 ≠ 0 ∧ hdr (headerOf (8 * 2 ^ 192)) 192 64 ≠ 0 ∧
    (∃ p, (flying (flown hWithDone .ending)).probe (BitVec.ofNat 64 readyRoot) (BitVec.ofNat 64 (hdr (headerOf hWithDone) 192 64)) .write false = .ok p ∧
      (flying (flown hWithDone .ending)).lands p.pa 8 ∧ (flying (flown hWithDone .ending)).badLine p.pa = false ∧
      (flying (flown hWithDone .ending)).slowPending p.pa = false) ∧
    ∃ f, (flying (flown (8 * 2 ^ 192) .ending)).patient.probe (BitVec.ofNat 64 readyRoot)
      (BitVec.ofNat 64 (hdr (headerOf (8 * 2 ^ 192)) 192 64)) .write false = .error f ∧ f.waits = false := by
  refine ⟨by decide +kernel, by decide +kernel, by decide +kernel, by decide +kernel, ?_, ?_⟩
  · obtain ⟨p, hp, h⟩ := ok_with (x := (flying (flown hWithDone .ending)).probe (BitVec.ofNat 64 readyRoot)
      (BitVec.ofNat 64 (hdr (headerOf hWithDone) 192 64)) .write false)
      (P := fun p => landsOk (flying (flown hWithDone .ending)) p.pa 8 && !(flying (flown hWithDone .ending)).badLine p.pa &&
        !(flying (flown hWithDone .ending)).slowPending p.pa)
      (by decide +kernel)
    simp only [Bool.and_eq_true, Bool.not_eq_true'] at h
    exact ⟨p, hp, lands_of h.1.1, h.1.2, h.2⟩
  · exact err_with (by decide +kernel)
/-! ### Windows and timed firings -/

/-- One stream, number 7: record q is due at 1000 q; four slots from 0x4000205000 on, two halves of late records from 0x4000206000. -/
def streamRecord : List Byte :=
  leBytes 256 (2 * 2 ^ 736 + 2 * 2 ^ 752 + 1000 * 2 ^ 768 + 0x4000206000 * 2 ^ 832 + 0x4000205000 * 2 ^ 896 + 0x4000204000 * 2 ^ 960 +
    1000 * 2 ^ 1600 + 7 * 2 ^ 1632)

/-- Registered, with the slots settled and the limit as given. -/
def stream (settled : List Settled) (lim count : Nat) (written : List (Nat × Nat)) : Window :=
  { index := 3, addr := 0x4000207000, recd := streamRecord, head := [0, 0, 0, 0], lim := [lim, 0, 0, 0], settled := settled, judged := [], half := 0,
    count := count, written := written, holds := 0, drop := 0, ovr := 0, nlate := 0, ngap := 0, fireno := 0, tick := 0, lh := 0 }

theorem stream_fields {settled : List Settled} {lim count : Nat} {written : List (Nat × Nat)} :
    let w := stream settled lim count written
    wfield w 734 2 = 0 ∧ wfield w 752 16 = 2 ∧ wfield w 768 64 = 1000 ∧ wfield w 960 64 = 0x4000204000 ∧ wOrg w 0 = 0 ∧ wIvl w 0 = 1000 ∧
      wfield w 736 16 = 2 ∧ wfield w 896 64 = 0x4000205000 ∧ wfield w 1632 16 = 7 ∧ wfield w 832 64 = 0x4000206000 := by
  simp only [wfield, wOrg, wIvl, stream]
  decide +kernel

theorem stream_ok {settled : List Settled} {lim count : Nat} {written : List (Nat × Nat)} :
    WindowOk (stream settled lim count written) := by
  obtain ⟨h1, h2, h3, h4, h5, h6, -⟩ := stream_fields (settled := settled) (lim := lim) (count := count) (written := written)
  refine ⟨fun j hj => ?_, by omega, rfl, rfl⟩
  obtain rfl : j = 0 := by omega
  omega

/-- The records that the tick 5000 evaluates: q = 4 alone. -/
theorem stream_covered {settled : List Settled} {lim count : Nat} {written : List (Nat × Nat)} {q : Nat} :
    Covered (stream settled lim count written) 0 5000 q ↔ q = 4 := by
  obtain ⟨h1, h2, h3, h4, h5, h6, -⟩ := stream_fields (settled := settled) (lim := lim) (count := count) (written := written)
  unfold Covered
  rw [h3, h5, h6]; omega

/-- Fields FIRE 5000, PERIOD 100, DELAY 50, and LATE. -/
def hLate (late : Nat) : Nat := hTimed 100 + 2 ^ 498 * late + 2 ^ 384 * 50

/-- A timed launch at 5000, period 100, DELAY 50; its header and the count it waits since as given. -/
def timedLaunch (h : List Byte) (since : Option Nat) : Launch := { flown 0 .timed with header := h, waiting := since }

/-- That launch with the window, at a count. -/
def timedAt (h : List Byte) (now : Nat) (settled : List Settled) (since : Option Nat) : State :=
  { booked [] with launches := [timedLaunch h since], windows := [stream settled 0 0 []], ptpNs := BitVec.ofNat 64 now }

theorem timedAt_launch (h : List Byte) (now : Nat) (settled : List Settled) (since : Option Nat) :
    (timedAt h now settled since).launch ⟨0, 0, 0⟩ = some (timedLaunch h since) := by
  simp [State.launch, timedAt, timedLaunch, flown]

theorem timed_complete (h : List Byte) (since : Option Nat) : Complete (timedAt h 5050 [⟨0, 4, false, 4000⟩] since) 0x4000204000 5000 := by
  intro w hw _ j hj q hm
  obtain rfl := List.mem_singleton.mp hw
  obtain ⟨h1, h2, h3, h4, h5, h6, -⟩ := stream_fields (settled := [⟨0, 4, false, 4000⟩]) (lim := 0) (count := 0) (written := [])
  obtain rfl : j = 0 := by omega
  obtain rfl := stream_covered.mp hm.1
  apply hm.2.2
  have hs : wSlot (stream [⟨0, 4, false, 4000⟩] 0 0 []) 0 4 = 0 := by rw [wSlot, h2]; norm_num
  rw [Counted, hs]; exact ⟨⟨0, 4, false, 4000⟩, rfl, rfl, rfl⟩

theorem timed_incomplete (h : List Byte) (now : Nat) (since : Option Nat) : ¬ Complete (timedAt h now [] since) 0x4000204000 5000 := by
  intro hc
  obtain ⟨h1, h2, h3, h4, h5, h6, -⟩ := stream_fields (settled := []) (lim := 0) (count := 0) (written := [])
  exact hc _ (List.mem_singleton.mpr rfl) h4 0 (Nat.zero_le _) 4 ⟨stream_covered.mpr rfl, Nat.zero_le _, by
    rintro ⟨e, he, -⟩; simp [stream] at he⟩

/-- The launch stands timed, with nothing halted, captured or replayed. -/
def Due (h : List Byte) (late now : Nat) (settled : List Settled) (since : Option Nat) : Prop :=
  let s := timedAt h now settled since
  ∃ l, s.launch ⟨0, 0, 0⟩ = some l ∧ Still s ∧ (s.overrun l).1.periodWaits l = false ∧ s.dieHalted 0 = false ∧ s.capturing = false ∧ s.replaying = false ∧ l.state = .timed ∧
    (∀ w ∈ s.windows, WindowOk w) ∧ (s.windows.Pairwise fun v w => v.index ≠ w.index) ∧ l.waiting = since ∧
    hdr l.header 498 2 = late ∧ l.due = 5000 ∧ l.period = 100 ∧ hdr l.header 384 64 = 50 ∧ l.hpa = 0x4000204000 ∧
    s.trapqs = []

theorem due_of {h : List Byte} {late now : Nat} {settled : List Settled} {since : Option Nat}
    (h1 : hdr h 498 2 = late) (h2 : hdr h 384 64 = 50)
    (h3 : ((timedAt h now settled since).overrun (timedLaunch h since)).1.periodWaits (timedLaunch h since) = false) :
    Due h late now settled since :=
  ⟨_, timedAt_launch _ _ _ _, ⟨rfl, rfl⟩, h3, rfl, (by decide : (0 : BitVec 2).getLsbD 0 = false), (by decide : (0 : BitVec 2).getLsbD 1 = false), rfl,
    fun w hw => by obtain rfl := List.mem_singleton.mp hw; exact stream_ok, List.pairwise_singleton _ _, rfl, h1, rfl, rfl, h2, rfl, rfl⟩

/-- The two sets of records taken that the witnesses use. -/
def takens : List (List Settled) := [[], [⟨0, 4, false, 4000⟩]]

theorem due_all {late now : Nat} {since : Option Nat} (h1 : hdr (headerOf (hLate late)) 498 2 = late)
    (h2 : hdr (headerOf (hLate late)) 384 64 = 50)
    (h3 : (takens.all fun settled => !((timedAt (headerOf (hLate late)) now settled since).overrun
      (timedLaunch (headerOf (hLate late)) since)).1.periodWaits (timedLaunch (headerOf (hLate late)) since)) = true) :
    ∀ settled ∈ takens, Due (headerOf (hLate late)) late now settled since := fun settled hs =>
  due_of h1 h2 (by simpa using List.all_eq_true.mp h3 settled hs)

theorem wit_FiringResults_due : (∀ settled ∈ takens, Due (headerOf (hLate 0)) 0 4999 settled none) ∧
    (∀ settled ∈ takens, Due (headerOf (hLate 1)) 1 5050 settled none) ∧ (∀ settled ∈ takens, Due (headerOf (hLate 2)) 2 5050 settled none) ∧
    (∀ settled ∈ takens, Due (headerOf (hLate 0)) 0 5050 settled none) ∧ (∀ settled ∈ takens, Due (headerOf (hLate 0)) 0 5049 settled none) ∧
    ¬ Complete (timedAt (headerOf (hLate 0)) 5049 [] none) 0x4000204000 5000 ∧
    Complete (timedAt (headerOf (hLate 0)) 5050 [⟨0, 4, false, 4000⟩] none) 0x4000204000 5000 ∧
    ¬ Complete (timedAt (headerOf (hLate 2)) 5050 [] none) 0x4000204000 5000 ∧ ¬ Complete (timedAt (headerOf (hLate 0)) 5050 [] none) 0x4000204000 5000 := by
  refine ⟨due_all ?_ ?_ ?_, due_all ?_ ?_ ?_, due_all ?_ ?_ ?_, due_all ?_ ?_ ?_, due_all ?_ ?_ ?_, timed_incomplete _ _ _, timed_complete _ _,
    timed_incomplete _ _ _, timed_incomplete _ _ _⟩ <;> decide +kernel

/-- The deadline of the firing is 5050, its DELAY past its tick. -/
theorem wit_FiringResults_wait : (∀ settled ∈ takens, Due (headerOf (hLate 0)) 0 5049 settled (some 5001)) ∧
    (∀ settled ∈ takens, Due (headerOf (hLate 0)) 0 5050 settled (some 5001)) ∧
    ¬ Complete (timedAt (headerOf (hLate 0)) 5049 [] (some 5001)) 0x4000204000 5000 ∧ (5049 : Nat) < min (5000 + 50) (5000 + 100) ∧
    min (5000 + 50) (5000 + 100) ≤ 5050 := by
  refine ⟨due_all ?_ ?_ ?_, due_all ?_ ?_ ?_, timed_incomplete _ _ _, ?_, ?_⟩ <;> decide +kernel

/-- A window's record stands at 0x4000207000. -/
def registering : State := managed (paged.putBytes 0x4000207000 streamRecord)

theorem wit_WindowResults_register : registering.firmware = true ∧
    (let f := fun lo n => leNat (registering.bytesAt 0x4000207000 256) / 2 ^ lo % 2 ^ n
     (3 : Nat) < 64 ∧ 0x4000207000 % 256 = 0 ∧ f 0 733 = 0 ∧ f 768 64 ≠ 0 ∧ 1 ≤ f 752 16 ∧ f 752 16 ≤ 16 ∧ 1 ≤ f 736 16 ∧
      f 736 16 ≤ 1024 ∧ f 896 64 % 64 = 0 ∧ f 832 64 % 64 = 0 ∧ (∀ j, j ≤ f 734 2 → f (1600 + 128 * j) 32 ≠ 0) ∧
      ((registering.windows.filter fun v => v.index ≠ 3).filter fun v => wfield v 960 64 = f 960 64).length < 4) ∧
    directOk registering 0x4000207000 256 = true ∧ Still registering ∧ ¬ (64 : Nat) < 64 := by
  refine ⟨by decide, ?_, by decide +kernel, by decide, by decide⟩
  intro f
  have hb : registering.bytesAt 0x4000207000 256 = streamRecord := by decide +kernel
  have hf : ∀ lo n, f lo n = wfield (stream [] 0 0 []) lo n := fun lo n => by
    show leNat _ / _ % _ = _
    rw [hb]; rfl
  obtain ⟨h1, h2, h3, h4, h5, h6, h7, h8, h9, h10⟩ := stream_fields (settled := []) (lim := 0) (count := 0) (written := [])
  simp only [hf, h1, h2, h3, h7, h8, h10]
  refine ⟨by decide, by decide, by decide +kernel, by decide, by decide, by decide, by decide, by decide, by decide, by decide, fun j hj => ?_,
    by decide⟩
  obtain rfl : j = 0 := by omega
  show wIvl _ 0 ≠ 0
  omega

/-- A record of stream sid, number q, stands whole in slot k of the window. -/
def arriving (k sid q : Nat) (w : List (Nat × Nat) → Window) : State :=
  { paged.putBytes (0x4000205000 + 64 * k) (leBytes 64 (sid * 2 ^ 144 + q * 2 ^ 160)) with
    windows := [w [(0x4000205000 + 64 * k, 2 ^ 64 - 1)]] }

/-- What TOKEN_RECORD_TAKE reads there. -/
def ArrivesAs (s : State) (w : Window) (addr sid q : Nat) : Prop :=
  s.windows.find? (fun v => v.index = w.index) = some w ∧ s.hubHalted = false ∧ s.replaying = false ∧
    leNat (s.bytesAt addr 64) / 2 ^ 144 % 2 ^ 16 = sid ∧ leNat (s.bytesAt addr 64) / 2 ^ 160 % 2 ^ 32 = q ∧
    assocGet 0 w.written addr = 2 ^ 64 - 1 ∧ Direct s w.addr 256 ∧ addr + 64 ≤ w.addr ∧ Direct s addr 64 ∧
    Still s

theorem wit_WindowResults_take :
    ArrivesAs (arriving 0 9 4 (stream [] 0 0)) (stream [] 0 0 [(0x4000205000, 2 ^ 64 - 1)]) 0x4000205000 9 4 ∧
    ArrivesAs (arriving 1 7 4 (stream [] 0 0)) (stream [] 0 0 [(0x4000205040, 2 ^ 64 - 1)]) 0x4000205040 7 4 ∧
    ArrivesAs (arriving 0 7 4 (stream [⟨0, 4, false, 4000⟩] 5 0)) (stream [⟨0, 4, false, 4000⟩] 5 0 [(0x4000205000, 2 ^ 64 - 1)]) 0x4000205000 7 4 ∧
    ArrivesAs (arriving 0 7 4 (stream [] 0 0)) (stream [] 0 0 [(0x4000205000, 2 ^ 64 - 1)]) 0x4000205000 7 4 ∧
    ArrivesAs (arriving 0 7 4 (stream [] 5 0)) (stream [] 5 0 [(0x4000205000, 2 ^ 64 - 1)]) 0x4000205000 7 4 ∧
    ArrivesAs (arriving 0 7 4 (stream [] 5 2)) (stream [] 5 2 [(0x4000205000, 2 ^ 64 - 1)]) 0x4000205000 7 4 ∧
    ArrivesAs (arriving 3 7 3 (stream [] 0 0)) (stream [] 0 0 [(0x40002050C0, 2 ^ 64 - 1)]) 0x40002050C0 7 3 := by
  refine ⟨?_, ?_, ?_, ?_, ?_, ?_, ?_⟩ <;>
    exact ⟨rfl, rfl, rfl, by decide +kernel, by decide +kernel, by decide, direct_of (by decide +kernel), by decide, direct_of (by decide +kernel), ⟨rfl, rfl⟩⟩

/-- Stream 7 is the window's; slot 0 is where its record 4 belongs, and slot 1 is not; record 4 lies under a limit of 5 and at the head's bound,
record 3 below it. -/
theorem wit_WindowResults_cases : ∀ settled lim count written, let w := stream settled lim count written
    (∀ j, ¬ (j ≤ wfield w 734 2 ∧ wfield w (1632 + 128 * j) 16 = 9 ∧ ∀ i, i < j → wfield w (1632 + 128 * i) 16 ≠ 9)) ∧
    (0 ≤ wfield w 734 2 ∧ wfield w 1632 16 = 7) ∧ wfield w 896 64 + 64 * wSlot w 0 4 = 0x4000205000 ∧
    wfield w 896 64 + 64 * wSlot w 0 3 = 0x40002050C0 ∧
    w.head.getD 0 0 + 2 ^ wfield w 752 16 ≤ 4 ∧ 3 < w.head.getD 0 0 + 2 ^ wfield w 752 16 ∧ (0 < wfield w 736 16 ∧ wfield w 736 16 ≤ 2) ∧
    (settled = [⟨0, 4, false, 4000⟩] → (w.settled.find? fun e => e.slot = wSlot w 0 4) = some ⟨0, 4, false, 4000⟩) ∧
    (settled = [] → (w.settled.find? fun e => e.slot = wSlot w 0 4) = none) := by
  intro settled lim count written
  obtain ⟨h1, h2, h3, h4, h5, h6, h7, h8, h9, h10⟩ :=
    stream_fields (settled := settled) (lim := lim) (count := count) (written := written)
  dsimp only
  have hs : wSlot (stream settled lim count written) 0 4 = 0 := by rw [wSlot, h2]; norm_num
  refine ⟨fun j hj => ?_, ⟨Nat.zero_le _, h9⟩, ?_, ?_, ?_, ?_, ?_, ?_, ?_⟩
  · obtain rfl : j = 0 := by omega
    rw [h9] at hj; omega
  · rw [h8, hs]
  · rw [h8, wSlot, h2]; norm_num
  · rw [h2]; exact (by decide : 0 + 2 ^ 2 ≤ 4)
  · rw [h2]; exact (by decide : 3 < 0 + 2 ^ 2)
  · rw [h7]; decide
  · rintro rfl; rw [hs]; rfl
  · rintro rfl; simp [stream]
/-! ### Placement, upkeep and rebinding -/

/-- Queued launches and nothing else; a strand may stand on core 0. -/
def placingOf (ls : List Launch) : State := { State.reset with launches := ls }

/-- Where a launch of a priority stands at each die, under the MAP of reset. -/
def places (prio : Nat) : List DieQueue := List.replicate 4 { base := prio, order := 0, queuedAt := 0, aged := 0 }

/-- A second launch, of another priority, whose WIDs are given out: the header's WCNT is 2. -/
def wide (prio : Nat) : Launch := { flown (2 ^ 65 + 2 ^ 492 * prio) .queued with key := ⟨0, 0, 1⟩, queues := places prio }

def only : Launch := flown 0 .queued

theorem wit_PlacementResults_none : State.reset.dieHalted 0 = false ∧ (∀ c, ((placingOf []).core c).islandCmds = []) ∧
    (aged (placingOf [])).launches = [] :=
  ⟨rfl, fun _ => rfl, rfl⟩

theorem wit_PlacementResults_one : (placingOf [only]).dieHalted 0 = false ∧ (∀ c, ((placingOf [only]).core c).islandCmds = []) ∧
    (aged (placingOf [only])).launches = [only] ∧ only.placing = true ∧ (aged (placingOf [only])).nextPlace only 0 = some (0, 0) ∧
    dieOf ((aged (placingOf [only])).physOf 0) = 0 ∧ (aged (placingOf [only])).launch only.key = some only ∧ hdr only.header 64 64 = 0 :=
  ⟨rfl, fun _ => rfl, by decide +kernel, by decide +kernel, by decide +kernel, by decide +kernel, by decide +kernel, by decide +kernel⟩

theorem wit_PlacementResults_two : (aged (placingOf [only, wide 5])).launches = [only, wide 5] ∧ (wide 5).placing = true ∧
    (aged (placingOf [only, wide 5])).nextPlace (wide 5) 0 = some (0, 0) ∧ dieOf ((aged (placingOf [only, wide 5])).physOf 0) = 0 ∧
    (aged (placingOf [only, wide 5])).launch (wide 5).key = some (wide 5) ∧ hdr (wide 5).header 64 64 = 2 ∧
    queueOf (aged (placingOf [only, wide 5])) 0 only < queueOf (aged (placingOf [only, wide 5])) 0 (wide 5) := by
  refine ⟨?_, ?_, ?_, ?_, ?_, ?_, ?_⟩ <;> decide +kernel

theorem wit_PlacementResults_aging : (let s := { placingOf [only] with scc := 1048576 };
      s.launch only.key = some only ∧ only.places.length < only.total ∧
        (only.queues.getD 0 {}).aged < (s.scc.toNat - (only.queues.getD 0 {}).queuedAt) / (s.disp 0).age) ∧
    (placingOf [only]).launch only.key = some only ∧
    ¬ (only.queues.getD 0 {}).aged < ((placingOf [only]).scc.toNat - (only.queues.getD 0 {}).queuedAt) / ((placingOf [only]).disp 0).age ∧
    (managed State.reset).firmware = true ∧ (managed State.reset).dispatchers.length = 4 ∧
    ([7, 6, 5, 4, 3, 2, 1, 0].length = 8 ∧ ∀ q ∈ [7, 6, 5, 4, 3, 2, 1, 0], q ≤ 7) ∧ ¬ (8 : Nat) ≤ 7 := by
  refine ⟨⟨?_, ?_, ?_⟩, ?_, ?_, ?_, ?_, ?_, ?_⟩ <;> decide +kernel

/-- A launch of priority 3, while a strand of priority 0 stands on the core it selects, with slices as given; the other slices do not run. -/
def above : Launch := { flown (2 ^ 492 * 3) .queued with key := ⟨0, 0, 1⟩, queues := places 3 }

def claimed (held : BitVec 4) (prio : Nat) : State :=
  { placingOf [{ flown (2 ^ 492 * prio) .draining with key := ⟨0, 0, 0⟩, queues := places prio }, above] with
    me := { readyStrand with launch := some ⟨0, 0, 0⟩, cur := held, recd := held },
    cores := if held = 15 then [] else [(0, { State.reset.core 0 with levels := [0, 2, 2, 2] })] }

theorem above_selects : ∀ c, Selected above.header c → c = 0 := by
  have h : ∀ c, c < 240 → hdr above.header (1024 + c) 1 = 1 → c = 0 := by decide +kernel
  exact fun c hc => h c hc.1 hc.2

theorem claimed_unable {held : BitVec 4} {prio : Nat} (h : held = 15 ∨ held = 1) (hp : prio = 0 ∨ prio = 3) :
    ∀ c, Selected above.header c → ¬ Able (aged (claimed held prio)) c := by
  rintro c hc ⟨-, -, -, hl⟩
  obtain rfl := above_selects c hc
  apply hl
  rcases h with rfl | rfl <;> rcases hp with rfl | rfl <;> decide +kernel

/-- R296 applies: the launch stands queued and no core can take it; the strand, the only one, is no victim of another. -/
def Reclaimable (held : BitVec 4) (prio : Nat) : Prop :=
  let u := aged (claimed held prio)
  u.launch ⟨0, 0, 1⟩ = some above ∧ above.state = .queued ∧ (∀ c, Selected above.header c → ¬ Able u c) ∧
    u.trapqs = [] ∧ u.all = [u.me] ∧ u.me.pend = false ∧ u.me.mark = false ∧
    Selected above.header 0 ∧ u.physOf 0 = u.me.core ∧ (claimed held prio).dieHalted 0 = false ∧
    ((u.me.launch.bind fun k' => u.launch k').map fun m => (m.queues.getD (dieOf u.me.core) {}).base) = some prio ∧
    slicesOf u.me.recd = slicesOf held ∧ u.strandAt 0 1 = none ∧ queueOf u 0 above = 3

theorem wit_ReclaimResults : Reclaimable 15 0 ∧ Reclaimable 1 0 ∧ Reclaimable 15 3 ∧ 2 ≤ slicesOf 15 ∧ slicesOf 1 < 2 := by
  refine ⟨⟨?_, ?_, claimed_unable (.inl rfl) (.inl rfl), ?_, ?_, ?_, ?_, ⟨?_, ?_⟩, ?_, ?_, ?_, ?_, ?_, ?_⟩,
    ⟨?_, ?_, claimed_unable (.inr rfl) (.inl rfl), ?_, ?_, ?_, ?_, ⟨?_, ?_⟩, ?_, ?_, ?_, ?_, ?_, ?_⟩,
    ⟨?_, ?_, claimed_unable (.inl rfl) (.inr rfl), ?_, ?_, ?_, ?_, ⟨?_, ?_⟩, ?_, ?_, ?_, ?_, ?_, ?_⟩, ?_, ?_⟩ <;> decide +kernel

/-- No such launch, or one that a core can take. -/
theorem wit_ReclaimResults_idle : (aged (placingOf [])).launch ⟨0, 0, 1⟩ = none ∧
    (let u := aged (placingOf [above]); u.launch ⟨0, 0, 1⟩ = some above ∧ Selected above.header 0 ∧ Able u 0) := by
  refine ⟨rfl, by decide +kernel, ⟨by decide, by decide +kernel⟩, by decide +kernel, by decide +kernel, ⟨0, by decide, by decide +kernel⟩, by decide +kernel⟩

/-- A stack with a row to swap in bank 5, a swap under way in bank 6, a refresh there, and a repair in bank 7. -/
def stack0 : Stack :=
  { acts := [(5, 7, 2048)], swaps := [(6, 1, 2)], refresh := [(6, 90)], remap := some (7, 3) }

def worn (u : Stack) : State := managed { State.reset with hbmStacks := [u] }

theorem wit_UpkeepResults_swap : (worn stack0).hbmStacks[0]? = some stack0 ∧
    ((5 : Nat) < 1024 ∧ (7 : Nat) < 98304 ∧ stack0.swapth ≤ stack0.actsOf 5 7 ∧
      ¬ ((∃ e ∈ stack0.swaps, e.1 = 5) ∨ ∃ r, stack0.remap = some (5, r))) ∧ ¬ stack0.swapth ≤ stack0.actsOf 5 8 ∧
    stack0.swaps.find? (fun e => e.1 = 6) = some (6, 1, 2) ∧ (1 : Nat) ≠ 2 ∧
    (∀ p ∈ [stack0.phys 6 1, stack0.phys 6 2],
      ¬ (p < 98304 ∧ ∃ r ∈ stack0.refresh, r.1 = 6 ∧ p / 1024 ≤ r.2 + 1 ∧ r.2 ≤ p / 1024 + 1)) ∧
    (let v := { stack0 with refresh := [(6, 1)] }; v.phys 6 1 < 98304 ∧
      ∃ r ∈ v.refresh, r.1 = 6 ∧ v.phys 6 1 / 1024 ≤ r.2 + 1 ∧ r.2 ≤ v.phys 6 1 / 1024 + 1) ∧
    (6, 91) ∉ stack0.refresh := by
  refine ⟨rfl, ⟨by decide, by decide, by decide, ?_⟩, by decide, by decide, by decide, by decide, by decide, by decide⟩
  rintro (h | ⟨r, h⟩)
  · revert h; decide
  · cases h

theorem wit_UpkeepResults_lines : localRegion 0x4000201000 = .hbm 0 ∧ (0 : Nat) < 8 ∧
    localRegion galleryBase = .gallery 0 ∧ localRegion chamberBase = .chamber 0 ∧ localRegion tagBase = .tagWindow 0 ∧
    localRegion nicheBase = .niche 0 := by
  decide +kernel

/-- Words of UPKCTL and REMAP: within their fields, and with bits that are reserved; spares left, and none. -/
theorem wit_UpkeepResults_firmware : (worn {}).firmware = true ∧
    (let f := fun (v : Word) lo n => v.toNat / 2 ^ lo % 2 ^ n
     f 0x180800 34 30 = 0 ∧ f 0x180800 32 1 = 0 ∧ f 0x100000000 32 1 ≠ 0 ∧
     f 0x20003 27 37 = 0 ∧ f 0x20003 0 17 < 98304 ∧ f 0x8000000 27 37 ≠ 0 ∧ 98304 ≤ f 0x1FFFF 0 17) ∧
    (32 - assocGet 0 ({} : Stack).spares 1 ≠ 0) ∧ 32 - assocGet 0 [(1, 32)] 1 = 0 ∧ ({} : Stack).remap = none ∧
    stack0.remap = some (7, 3) ∧ (∀ e ∈ stack0.swaps, e.1 ≠ 7) := by
  decide +kernel

theorem wit_RebindResults : (managed bare).firmware = true ∧
    ((1 : Nat) < 240 ∧ (15 : Nat) < 256 ∧ 15 / 16 = (managed bare).physOf 1 / 16 ∧ (∀ t ∈ (managed bare).all, t.logical ≠ 1) ∧
      ((managed bare).core ((managed bare).physOf 1)).units = [] ∧ ((managed bare).core 15).disabled = false ∧
      ∀ l, l < 240 → (managed bare).physOf l ≠ 15) ∧
    ¬ (31 / 16 = (managed bare).physOf 1 / 16) ∧ (∃ l, l < 240 ∧ (managed bare).physOf l = 0) := by
  refine ⟨by decide, ⟨by decide, by decide, by decide +kernel, by decide, by decide, by decide, by decide +kernel⟩, by decide +kernel,
    0, by decide, by decide +kernel⟩
/-! ### The host and other modules -/

/-- The line of 0x4000201000 has the sideband x. -/
def lineIs (x : LineMeta) (s : State) : State := { s with lines := [(0x4000201000, x)] }

theorem host_line : HostAccess 0x4000201000 8 ∧ HostAccess 0x4000201000 128 ∧ ¬ HostAccess 0x4000201000 0 :=
  ⟨⟨by decide, by decide, 0, by decide⟩, ⟨by decide, by decide, 0, by decide⟩, fun h => absurd h.1 (by decide)⟩

theorem wit_HostAccessResults : (∀ s ∈ [paged, lineIs { poison := true } paged], s.resolve 0x4000201000 = .ok ⟨0x4000201000, []⟩ ∧
      s.admitted 0x4000201000 .read = true ∧ s.admitted 0x4000201000 .write = true ∧ s.region 0x4000201000 = .hbm 0) ∧
    paged.poisoned 0x4000201000 = false ∧ (lineIs { poison := true } paged).poisoned 0x4000201000 = true ∧
    paged.lands 0x4000201000 8 ∧ (lineIs { poison := true } paged).lands 0x4000201000 8 ∧
    (∃ f, (lineIs { tether := .released } paged).resolve 0x4000201000 = .error f) := by
  refine ⟨?_, by decide +kernel, by decide +kernel, lands_of (by decide +kernel), lands_of (by decide +kernel), err_of (by decide +kernel)⟩
  intro s hs
  simp only [List.mem_cons, List.not_mem_nil, or_false] at hs
  rcases hs with rfl | rfl <;>
    exact ⟨ok_eq (by decide +kernel), by decide +kernel, by decide +kernel, by decide +kernel⟩

/-- A store of core 0 waits for the host's copy of its line. -/
def snooped : State :=
  { paged with snoopFilter := [0x4000201000],
               cores := [(0, { ({} : Core) with sbuf :=
                 [{ slot := 0, path := 0, pa := 0x4000201000, bytes := List.replicate 8 (1, 0xFF), colour := 0, via := [], word := 0, heal := false }] })] }

theorem wit_HostAccessResults_snoop : 0x4000201000 ∉ paged.snoopFilter ∧ 0x4000201000 ∈ ({ paged with snoopFilter := [0x4000201000] }).snoopFilter ∧
    (∀ e ∈ paged.cores, e.2.sbuf = [] ∧ e.2.squeue = []) ∧
    ∃ e, lineOf 0x4000201000 ∈ snooped.snoopFilter ∧ snooped.cores = [(0, snooped.core 0)] ∧ (snooped.core 0).sbuf = e :: [] ∧
      lineOf e.pa = lineOf 0x4000201000 ∧ e.pa % 8 = 0 ∧ e.bytes.length = 8 ∧ snooped.lands e.pa 8 ∧ snooped.heldWrites = [] :=
  ⟨by decide, by decide, by decide, _, by decide, rfl, rfl, by decide, by decide, by decide, lands_of (by decide +kernel), by decide⟩

/-- The export table at 0x4000300000: module 3 may read the second 2 MB of the HBM, module 4 may write there. -/
def exporting (base : Nat) (s : State) : State :=
  { s.putBytes 0x4000300010 (leBytes 8 (2 ^ 3) ++ leBytes 8 (2 ^ 4)) with exportBase := base }

theorem wit_RemoteAccessResults : ∀ s ∈ [exporting 0x4000300000 paged, lineIs { poison := true } (exporting 0x4000300000 paged)],
    ((3 : Nat) < 64 ∧ 3 ≠ s.moduleNo) ∧ s.resolve 0x4000201000 = .ok ⟨0x4000201000, []⟩ ∧ s.exportBase ≠ 0 ∧
    (s.exportBase + 16 * ((0x4000201000 - hbmBase) / 2097152) = 0x4000300010) ∧
    s.resolve 0x4000300010 = .ok ⟨0x4000300010, []⟩ ∧ s.poisoned 0x4000300010 = false ∧
    (s.natAt 0x4000300010 8).testBit 3 = true ∧ (s.natAt 0x4000300018 8).testBit 3 = false ∧ (s.natAt 0x4000300018 8).testBit 4 = true ∧
    s.admitted 0x4000201000 .read = true ∧ s.admitted 0x4000201000 .write = true ∧ s.lands 0x4000201000 8 ∧
    s.tether 0x4000201000 = .plain := by
  intro s hs
  simp only [List.mem_cons, List.not_mem_nil, or_false] at hs
  rcases hs with rfl | rfl <;>
    exact ⟨by decide, ok_eq (by decide +kernel), by decide +kernel, by decide +kernel, ok_eq (by decide +kernel), by decide +kernel,
      by decide +kernel, by decide +kernel, by decide +kernel, by decide +kernel, by decide +kernel, lands_of (by decide +kernel), by decide +kernel⟩

theorem wit_RemoteAccessResults_refused : (exporting 0 paged).exportBase = 0 ∧
    (∃ f, (lineIs { tether := .released } (exporting 0x4000300000 paged)).resolve 0x4000201000 = .error f) ∧
    (exporting 0x4000300000 paged).poisoned 0x4000201000 = false ∧
    (lineIs { poison := true } (exporting 0x4000300000 paged)).poisoned 0x4000201000 = true ∧
    (managed paged).firmware = true ∧ (hbmBase ≤ 0x4000300000 ∧ 0x4000300000 + 393216 * 16 ≤ hbmBase + 8 * hbmSpan) ∧
    ¬ hbmBase ≤ 0 :=
  ⟨by decide, err_of (by decide +kernel), by decide +kernel, by decide +kernel, by decide, by decide, by decide⟩

/-- An address of module 3's HBM, which no link reaches. -/
def farAway : Nat := windowBase + windowSpan * 3 + hbmBase

/-- The line of 0x4000201000 has moved there. -/
def afar : State := (lineIs { tether := .tethered } (exporting 0x4000300000 paged)).putBytes 0x4000201000 (leBytes 8 (farAway / 128 * 2 ^ 22))

/-- Whether module 3 admits an access, and what its own tethers and poison give, are its own affair (log 18, 76). -/
def FarGrants : Prop := (∀ free w, Config.remoteAdmits free farAway w = true) ∧ ∀ free, Config.farFault free (lineOf farAway) = 0

theorem far_passes {s : State} (hg : FarGrants) (hr : s.region farAway = .remote 3) (hc : s.canon farAway = farAway) :
    s.admitted farAway .read = true ∧ s.admitted farAway .write = true ∧ (∀ via, s.farTether ⟨farAway, via⟩ = none) ∧
    s.farFault farAway = 0 := by
  have hf : s.farFault farAway = 0 := by unfold State.farFault; rw [hr]; simp only [hc, hg.2]
  refine ⟨?_, ?_, ?_, hf⟩
  · unfold State.admitted; rw [hr]; simp [hc, hg.1]
  · unfold State.admitted; rw [hr]; simp [hc, hg.1]
  · intro via; unfold State.farTether; simp only [hf]

/-- A write that is held at a port, of the host and of module 4; a read whose module gives no answer. -/
theorem wit_OutsideAccess_held (hg : FarGrants) : ∃ r, afar.resolve 0x4000201000 = .ok r ∧ r.pa = farAway ∧ Still afar ∧
    afar.farTether r = none ∧ afar.refusing r .read .read = none ∧ afar.refusing r .write .write = none ∧
    afar.slowPending r.pa = false ∧ HeldFor afar r.pa 3 ∧ afar.silent r.pa = true ∧
    (afar.natAt 0x4000300018 8).testBit 4 = true ∧ afar.resolve 0x4000300010 = .ok ⟨0x4000300010, []⟩ ∧
    afar.farTether ⟨0x4000300010, []⟩ = none ∧ afar.badLine 0x4000300010 = false ∧ afar.silent 0x4000300010 = false := by
  obtain ⟨h1, h2, h3, h4⟩ := far_passes (s := afar) hg (by decide +kernel) (by decide +kernel)
  refine ⟨⟨farAway, [0x4000201000]⟩, ok_eq (by decide +kernel), rfl, by decide +kernel, h3 _, ?_, ?_, by decide +kernel,
    ⟨by decide +kernel, by decide +kernel, by decide +kernel, by decide +kernel, by decide +kernel⟩, by decide +kernel, by decide +kernel,
    ok_eq (by decide +kernel), by decide +kernel, by decide +kernel, by decide +kernel⟩
  · have ha : afar.admitted 0x4000201000 .read = true := by decide +kernel
    simp [State.refusing, h1, ha]
  · have ha : afar.admitted 0x4000201000 .write = true := by decide +kernel
    simp [State.refusing, h2, ha]

/-- A write to the slow tier has been sent and waits for its global observation. -/
def observing : State :=
  { paged with portHeld := [{ module_ := 64, addr := slowBase, bytes := List.replicate 8 (5, 0xFF), heal := false }] }

theorem wit_HostAccessResults_slow : (List.replicate 64 (1 : Byte)).length = 64 ∧ (paged.portHeld.find? fun w => w.module_ = 64) = none ∧
    Still observing ∧ observing.slowPending slowBase = true ∧
    ∃ w, (observing.portHeld.find? fun w => w.module_ = 64) = some w ∧ observing.region w.addr = .slow ∧
      observing.plainBytes w.addr w.bytes.length ∧ w.addr % 128 + w.bytes.length ≤ 128 ∧ 0 < w.bytes.length ∧
      (w.origin.path = 8 → ∀ e ∈ w.bytes, e.2 = 0xFF) :=
  ⟨rfl, rfl, by decide, by decide +kernel, _, rfl, by decide +kernel, plain_of (by decide +kernel), by decide +kernel, by decide,
    fun h => absurd h (by decide)⟩

/-- Lines that a move of another module is refused for: its line of the slow tier; its destination outside the map, on the chip, not plain, its
own line. -/
theorem wit_RemoteAccessResults_move : let s := exporting 0x4000300000 paged
    s.tether 0x4000201000 = .plain ∧ s.canon 0x4000201000 = 0x4000201000 ∧ s.hasTether 0x4000201000 = true ∧ s.hasTether slowBase = false ∧
    s.mapped 0 = false ∧ (s.mapped nicheBase = true ∧ s.onChip nicheBase = true) ∧
    (s.mapped 0x4000202000 = true ∧ s.onChip 0x4000202000 = false ∧ s.admitted 0x4000202000 .write = true ∧
      s.tether 0x4000202000 = .plain ∧ s.farTether ⟨0x4000202000, []⟩ = none ∧ 0x4000202000 ≠ lineOf 0x4000201000) ∧
    (s.region 0x4000202000 = .hbm 0 ∧ (s.exportBase + 16 * ((0x4000202000 - hbmBase) / 2097152) = 0x4000300010) ∧
      okAnd (s.resolve 0x4000300010) (· == ⟨0x4000300010, []⟩) = true ∧ (s.natAt 0x4000300018 8).testBit 4 = true ∧
      (s.natAt 0x4000300018 8).testBit 5 = false) ∧ Still s ∧
    (lineIs { tether := .released } s).tether 0x4000201000 = .released := by decide +kernel

/-! ### Hawser ports -/

/-- A flit of a sequence number, sound or not. -/
def flitOf (seq : Nat) (sound : Bool) : List Byte :=
  let body := leBytes 248 seq
  body ++ leBytes 8 ((Config.crc64 body).toNat + if sound then 0 else 1)

theorem flit_sound (seq : Nat) (h : seq < 4096) (sound : Bool) : (flitOf seq sound).length = 256 ∧
    (leNat ((flitOf seq sound).drop 248) = (Config.crc64 ((flitOf seq sound).take 248)).toNat ↔ sound = true) ∧
    leNat ((flitOf seq sound).take 2) % 4096 = seq := by
  have hl := leBytes_length 248 seq
  have h1 : (flitOf seq sound).drop 248 = leBytes 8 ((Config.crc64 (leBytes 248 seq)).toNat + if sound then 0 else 1) :=
    List.drop_left' hl
  have h2 : (flitOf seq sound).take 248 = leBytes 248 seq := List.take_left' hl
  refine ⟨?_, ?_, ?_⟩
  · show (leBytes 248 seq ++ leBytes 8 _).length = 256
    rw [List.length_append, hl, leBytes_length]
  · rw [h1, h2, leNat_leBytes]
    have := (Config.crc64 (leBytes 248 seq)).isLt
    cases sound <;> simp <;> omega
  · have : (flitOf seq sound).take 2 = leBytes 2 seq := rfl
    rw [this, leNat_leBytes]; omega

/-- Port 0 of the module, up. -/
def portUp : Port := { up := true, rxSeq := 7, unacked := [leBytes 256 20, leBytes 256 21] }
def linked (p : Port) : State := managed { bare with ports := p :: List.replicate 7 {} }

theorem wit_HawserPortResults : (linked portUp).ports[0]? = some portUp ∧ (linked portUp).portHeld = [] ∧ portUp.up = true ∧ portUp.rpr = false ∧
    ({ portUp with rpr := true } : Port).resend = none ∧ portUp.spare ≠ 0 ∧ ({ portUp with spare := 0 } : Port).spare = 0 ∧
    (portUp.unacked = [leBytes 256 20] ++ leBytes 256 21 :: [] ∧ leNat ((leBytes 256 21).take 2) % 4096 = 21 ∧
      ∀ g ∈ [leBytes 256 20], leNat (g.take 2) % 4096 ≠ 21) ∧
    (∀ f ∈ portUp.unacked, leNat (f.take 2) % 4096 ≠ leNat (((flitOf 7 true).drop 2).take 2) % 4096) ∧
    leNat ((flitOf 7 true).take 2) % 4096 = portUp.rxSeq ∧ leNat ((flitOf 8 true).take 2) % 4096 ≠ portUp.rxSeq ∧
    (linked portUp).firmware = true ∧ 16 ≤ assocGet 0 [(3, 16)] 3 ∧ (LinkConfig.mk 63 [(2, 1)] [0] []).number < 64 := by
  refine ⟨rfl, rfl, rfl, rfl, rfl, by decide, rfl, ⟨rfl, by decide, by decide⟩, ?_, (flit_sound 7 (by decide) true).2.2, ?_, rfl, by decide,
    by decide⟩
  · have : leNat (((flitOf 7 true).drop 2).take 2) % 4096 = 0 := rfl
    rw [this]; decide
  · rw [(flit_sound 8 (by decide) true).2.2]; decide

/-- A write held for module 3. -/
def heldWrite : PortWrite := { module_ := 3, addr := farAway, bytes := List.replicate 8 (5, 0xFF), heal := false }

/-- A lane with 16 errors within 1 ms, and one whose errors are older; a swap that runs, with a request to send again and without. -/
theorem wit_HawserPortResults_repair : let recent := fun (now : Nat) (e : Nat × Nat) => decide (now < e.2 + 1050000)
    16 ≤ ((List.replicate 16 (5, 100)).filter fun e => e.1 = 5 && recent 1050099 e).length ∧
    ¬ 16 ≤ ((List.replicate 16 (5, 100)).filter fun e => e.1 = 5 && recent 1050100 e).length ∧
    (let p := { portUp with rpr := true }; p.rpr = true ∧ p.repair = none ∧ p.resend = none) ∧
    (let p := { portUp with rpr := true, resend := some 21 }
     p.rpr = true ∧ p.repair = none ∧ p.resend = some 21 ∧ p.unacked = [leBytes 256 20] ++ [leBytes 256 21] ∧
      (∀ g ∈ [leBytes 256 20], leNat (g.take 2) % 4096 ≠ 21) ∧ ∀ f ∈ [leBytes 256 21].head?, leNat (f.take 2) % 4096 = 21) ∧
    (let p := { portUp with rpr := true, repair := some 3 }; p.rpr = true ∧ p.repair ≠ none) ∧
    -- a flit sent again that fails while the port quiesces, and the swap that then begins; a repair that waits for the end of a replay
    (let p := { portUp with rpr := true, repair := some 3, again := [21] }
     p.rpr = true ∧ (21 : Nat) % 4096 ∈ p.again ∧ SwapBegun { p with resend := some 21 }
       { p with resend := some 21, repair := none, spare := p.spare - 1, bad := 3 }) ∧
    (let p := { portUp with repair := some 3, nak := true }; Quiesced p p) ∧
    (let p := { portUp with repair := some 3, unacked := [] }
     Quiesced p { p with rpr := true, repair := none, spare := p.spare - 1, bad := 3 }) := by
  refine ⟨by decide, by decide, by decide +kernel, by decide +kernel, by decide, ⟨rfl, by decide, ?_⟩, ?_, ?_⟩ <;> rfl

def parted : State := { linked portUp with portHeld := [heldWrite], routes := [(3, 0)] }

theorem wit_UnreachableModuleResults : parted.firmware = true ∧ (3 : Nat) < 64 ∧ 3 ≠ parted.moduleNo ∧ parted.portHeld = [heldWrite] ∧
    parted.ports[0]? = some portUp ∧ parted.lost.contains heldWrite.module_ = false ∧
    parted.routes.find? (fun r => r.1 = heldWrite.module_) = some (heldWrite.module_, 0) ∧ parted.region heldWrite.addr = .remote heldWrite.module_ ∧
    heldWrite.module_ ≠ 64 ∧ portUp.tsrc = false ∧ portUp.rpr = false ∧ portUp.unacked.length < 512 ∧ parted.plainBytes heldWrite.addr heldWrite.bytes.length ∧
    parted.tether heldWrite.addr = .plain ∧ heldWrite.origin.path ≠ 8 :=
  ⟨rfl, by decide, by decide, rfl, rfl, rfl, rfl, by decide +kernel, by decide, rfl, rfl, by decide, plain_of (by decide +kernel),
    by decide +kernel, by decide⟩

/-- The page at 0x400000 leads to module 3, and the word at the program counter reads there: LD.I64 x9, 0(x5). -/
def reading (out : Bool) : State :=
  withX (withMe ((paged.putBytes (readyRoot + 0x3010) (leafEntry farAway)).layBytes 0x200000
    (leBytes 4 (encI 0x10 9 5 0).toNat)) fun t => { t with timedOut := out }) [(5, 0x400000)]

/-- The read's translation, where its chain ends, and what the fetch gives. -/
def readingOk (s : State) : Bool :=
  okAnd (s.xlate s.me.ptroot (s.ea 5 0) .read) (fun x => x.pa == farAway && !x.device) && okAnd (s.resolve farAway) (fun r => r.pa == farAway && r.via == []) &&
  okAnd (s.fetch s.me.core s.me.ptroot s.me.pc 4) (fun n => n == (encI 0x10 9 5 0).toNat)

/-- Where module 3 admits the read, it waits, as no link leads there. -/
theorem wit_UnreachableModuleResults_read : ∀ out, FarGrants → let s := reading out
    s.me.placed = true ∧ s.me.held = .no ∧ s.me.queue = [] ∧ s.me.timedOut = out ∧ s.issues [9, 5] ∧ ScalarGoes s ∧ Still s ∧
      s.settleFirst = s ∧ (s.ea 5 0).toNat % 8 = 0 ∧ s.badLine farAway = false ∧ s.slowPending farAway = false ∧ s.reachable 3 = false ∧
      (∃ n, s.fetch s.me.core s.me.ptroot s.me.pc 4 = .ok n ∧ decodeScalar (BitVec.ofNat 32 n) = .ok (.ldI64 9 5 0)) ∧
      ∃ p, s.probe s.me.ptroot (s.ea 5 0) .read true = .ok p ∧ p.pa = farAway ∧ s.region p.pa = .remote 3 ∧ s.portOpen 3 = false := by
  intro out hg
  have hok : readingOk (reading out) = true := by cases out <;> decide +kernel
  simp only [readingOk, Bool.and_eq_true] at hok
  obtain ⟨x, hx, hx2⟩ := ok_with hok.1.1
  obtain ⟨r, hr, hr2⟩ := ok_with hok.1.2
  obtain ⟨n, hn, hn2⟩ := ok_with hok.2
  simp only [Bool.and_eq_true, beq_iff_eq, Bool.not_eq_true'] at hx2 hr2 hn2
  have hreg : (reading out).region farAway = .remote 3 := by cases out <;> decide +kernel
  have hcan : (reading out).canon farAway = farAway := by cases out <;> decide +kernel
  obtain ⟨ha, -, ht, hf⟩ := far_passes hg hreg hcan
  have hb : (reading out).badLine farAway = false := by
    unfold State.badLine; rw [hf]; cases out <;> decide +kernel
  refine ⟨?_, ?_, ?_, ?_, ?_, ?_, ?_, ?_, ?_, hb, ?_, ?_, ⟨n, hn, by rw [hn2]; decide⟩, ⟨r.pa, r.via, x.device, x.pin, x.sink, x.pa⟩, ?_,
    hr2.1, ?_, ?_⟩
  rotate_left 11
  · have hv : r.via = [] := hr2.2
    have hr1 : (reading out).refusing r .read .read = none := by simp [State.refusing, hv, hr2.1, ha]
    unfold State.probe
    rw [hx]
    have htr : (reading out).farTether r = none := by rw [← ht r.via, ← hr2.1]
    simp only [hx2.1, hx2.2, hr, hr2.1, htr, hr1, Bool.false_and]
    simp
  · rw [hr2.1]; exact hreg
  · cases out <;> decide +kernel
  all_goals cases out <;> first | decide +kernel | rfl
/-! ### Firmware -/

/-- The head of an image: MAGIC, version 1, a body of one byte, SVN. -/
def imageStart (svn : Nat) : Image := imgPut [] 0 (leBytes 20 (0x4D525253 + 2 ^ 32 + 2 ^ 64 + svn * 2 ^ 128))

/-- A controller that stages that image and checks it, or runs one. -/
def controlled (checking : Option Nat) (image : Option (List Byte × Nat)) (attests : List (List Byte)) : State :=
  { State.reset with rollback := 3, controller :=
    { staging := imageStart 4, checking := checking, image := image, attests := attests } }

/-- An image whose length is wrong fails its check; one of 16673 bytes passes it where both signatures hold (log 14). -/
theorem wit_FirmwareImageResults_check : checkOf (controlled (some 16672) none []) 16672 ≠ 0 ∧
    (Config.rsaValid (imgBytes (imageStart 4) 0 65) (imgBytes (imageStart 4) 65 384) = true →
      Config.slhValid (imgBytes (imageStart 4) 0 65) (imgBytes (imageStart 4) 449 16224) = true →
      checkOf (controlled (some 16673) none []) 16673 = 0) := by
  have h : ∀ s : State, s.controller.staging = imageStart 4 → s.rollback = 3 →
      ((imgNat s.controller.staging 0 4 = 0x4D525253 ∧ imgNat s.controller.staging 4 4 = 1 ∧ 0 < imgNat s.controller.staging 8 8 ∧
        imgNat s.controller.staging 8 8 ≤ 16777216 ∧ imgNat s.controller.staging 20 44 = 0) ∧ imgNat s.controller.staging 8 8 = 1 ∧
        s.rollback ≤ imgNat s.controller.staging 16 4) := by
    intro s h1 h2; rw [h1, h2]; decide +kernel
  constructor
  · obtain ⟨_, h8, _⟩ := h (controlled (some 16672) none []) rfl rfl
    unfold checkOf
    simp only [h8]
    norm_num
  · intro hr hs
    obtain ⟨⟨a1, a2, a3, a4, a5⟩, h8, h16⟩ := h (controlled (some 16673) none []) rfl rfl
    have e1 : (16673 - 16608 : Nat) = 65 := rfl
    have e2 : (16673 - 16224 : Nat) = 449 := rfl
    have e3 : (controlled (some 16673) none []).controller.staging = imageStart 4 := rfl
    rw [e3] at a1 a2 a3 a4 a5 h8 h16
    unfold checkOf
    simp only [e1, e2, e3, hr, hs, a1, a2, a5, h8, h16, if_true]
    norm_num

theorem wit_FirmwareImageResults : (controlled (some 5) none []).controller.checking = some 5 ∧ (controlled (some 5) none []).controller.attests = [] ∧
    (controlled none none []).controller.checking = none ∧ (controlled none none []).firmware = false ∧
    (controlled none (some ([1, 2], 7)) []).firmware = true ∧ (controlled none (some ([1, 2], 7)) []).controller.checking = none ∧
    (List.replicate 32 (9 : Byte)).length = 32 ∧ (List.replicate 5 (9 : Byte)).length ≤ 1048576 ∧
    ((controlled none none []).rollback ≤ 7 ∧ 7 ≤ 7 ∧ 7 < 256) ∧ ¬ (controlled none none []).rollback ≤ 2 := by
  decide

/-- Records of a ring of 16, and of a trap queue of 8, at 0x4000203000 and 0x4000203040. -/
def recorded : State :=
  managed ((paged.putBytes 0x4000203000 (leBytes 64 (0x4000204000 + 4 * 2 ^ 192))).putBytes 0x4000203040 (leBytes 64 (0x4000205000 + 3 * 2 ^ 192)))

theorem wit_FirmwareWriteResults : recorded.firmware = true ∧
    (let f := fun lo n => recorded.natAt 0x4000203000 64 / 2 ^ lo % 2 ^ n
     0x4000203000 % 64 = 0 ∧ f 198 314 = 0 ∧ (f 0 64 = 0 ∨ (4 ≤ f 192 6 ∧ f 192 6 ≤ 24 ∧ f 0 64 % 32 = 0))) ∧
    (let f := fun lo n => recorded.natAt 0x4000203040 64 / 2 ^ lo % 2 ^ n
     0x4000203040 % 64 = 0 ∧ f 232 280 = 0 ∧ f 196 3 = 0 ∧ (f 0 64 = 0 ∨ (3 ≤ f 192 4 ∧ f 192 4 ≤ 12 ∧ f 0 64 % 64 = 0))) ∧
    (∃ t ∈ recorded.all, t.core = 0 ∧ t.cur.getLsbD 3 = true) ∧ ¬ (∃ t ∈ recorded.all, t.core = 1 ∧ t.cur.getLsbD 3 = true) ∧
    ({ recorded with captureNext := some 2 }).captureNext = some 2 ∧ recorded.captureNext = none ∧
    directOk recorded 0x4000203000 64 = true ∧ directOk recorded 0x4000203040 64 = true := by
  refine ⟨by decide, by decide +kernel, by decide +kernel, by decide, by decide, by decide, by decide, by decide +kernel, by decide +kernel⟩

/-! ### Epochs -/

/-- BRTOPADD.BF16 t3, [x8], v6, END 1, with FIN or without. -/
def epochWord (fin : Bool) : VWord := { braidWord with last := true, fn := if fin then 0x80 else 0 }

/-- The leader's block stands at 0x200100. -/
def epochs (fin isOpen : Bool) : State :=
  withMe { paged.layBytes 0x200100 (leBytes 8 (wordOf (.brtopadd (epochWord fin)))) with braids := [twoMembers true isOpen] } fun t =>
    { t with queue := [{ blockAt 0x200100 with ctl := { t.ctl with vl := 8, vtype := 0x1C00A }, caps := [(8, 0)] }] }

theorem wit_EpochResults : (∀ b ∈ bare.braids, b.cluster = 0 → b.formed = false) ∧
    ∀ fin isOpen, let s := epochs fin isOpen
      s.me.placed = true ∧ s.me.held = .no ∧ s.me.queue ≠ [] ∧ clusterOf s.me.core = 0 ∧ s.runs = true ∧ s.me.issued = none ∧
      s.braids.filter (fun c => c.cluster = 0 && c.formed) = [twoMembers true isOpen] ∧ Leads s (twoMembers true isOpen) (epochWord fin) ∧
      (∃ m, (twoMembers true isOpen).members.find? (fun m => ((twoMembers true isOpen).cores.idxOf? m.index).getD 0 = 0) = some m ∧
        m.index = s.me.core % 4 ∧ m.slot = s.me.slot) ∧
      (∃ g, s.headConvoy = .ok (g, [.brtopadd (epochWord fin)])) ∧ s.heads (.brtopadd (epochWord fin)) s.vctx ∧ s.vctx.ctl.vl ≠ 0 ∧
      s.vctx.ctl.vtype.toNat / 2 ^ 8 % 4 ≠ 3 ∧ ((epochWord fin).fn.getLsbD 7 = true ↔ fin = true) ∧
      (twoMembers true isOpen).open_ = isOpen ∧ ShareFits (epochWord fin) (s.vctx.x (epochWord fin).va).toNat ∧ (epochWord fin).f = 9 := by
  refine ⟨by decide, fun fin isOpen => ?_⟩
  have hc : ∃ g, (epochs fin isOpen).headConvoy = .ok (g, [.brtopadd (epochWord fin)]) := by
    have h : okAnd (epochs fin isOpen).headConvoy (fun gw => gw.2 == [.brtopadd (epochWord fin)]) = true := by
      cases fin <;> cases isOpen <;> decide +kernel
    obtain ⟨⟨g, ws⟩, h1, h2⟩ := ok_with h
    have h3 : ws = [Instr.brtopadd (epochWord fin)] := eq_of_beq h2
    exact ⟨g, by rw [h1, h3]⟩
  have hl : (epochs fin isOpen).lines = [] := by cases fin <;> cases isOpen <;> rfl
  cases fin <;> cases isOpen <;>
    exact ⟨rfl, rfl, by decide, rfl, by decide +kernel, rfl, rfl, ⟨rfl, by decide, by decide, by decide, by decide, by decide,
      fun m _ k _ => unpoisoned hl _, by decide, by decide⟩, ⟨_, rfl, by decide, by decide⟩, hc, heads_of (by decide +kernel) (by decide +kernel),
      by decide, by decide, by decide, by decide, by unfold ShareFits; decide, by decide⟩

/-- A leader due for its forced save does not run. -/
theorem wit_EpochResults_stopped : (withMe (epochs true true) fun t => { t with pend := true, left := 0 }).runs = false := by decide +kernel

/-! ### Faults of accesses, translation, chains -/

/-- The stage and the kind of an access's fault. -/
def faultAt (s : State) (acc : Acc) (dev reads : Bool) (va : Word) (n : Nat) : Option (Nat × FaultKind) :=
  (accessFault s acc dev reads va n).map fun x => (x.1, x.2.kind)

theorem fault_of {s : State} {acc : Acc} {dev reads : Bool} {va : Word} {n k : Nat} {kind : FaultKind}
    (h : faultAt s acc dev reads va n = some (k, kind)) : ∃ f, accessFault s acc dev reads va n = some (k, f) ∧ f.kind = kind := by
  obtain ⟨⟨k', f⟩, h1, h2⟩ := Option.map_eq_some_iff.mp h
  obtain ⟨rfl, rfl⟩ : k' = k ∧ f.kind = kind := by simpa using h2
  exact ⟨f, h1, rfl⟩

/-- Pages of 64 KB from 0x400000 on: a tag window, its chamber, device memory. The first slot is armed for tag 1, and holds none. A copy
command that writes the slot has faulted; the line of 0x201000 has the sideband x. -/
def strange (x : LineMeta) : State :=
  let table := readyRoot + 0x4000
  let rw := 3 + 2 ^ 55 + 2 ^ 56
  let s := (paged.putBytes (readyRoot + 0x3010) (leBytes 8 (table + 1))).putBytes table
    (leBytes 8 (tagBase + rw) ++ leBytes 8 (chamberBase + rw) ++ leBytes 8 (hbmBase + 0x10000 + rw + 2 ^ 60))
  lineIs x (withMe (withX (s.putBytes (tagBase + 12) [1, 0, 1])
      [(1, 0x201000), (2, 0x400000), (3, 0x410000), (4, 0x420000), (5, 0x201002), (6, 0x900000), (7, 5), (8, 0x400008), (9, 65536)])
    fun t => { t with postedCpy := [{ cause := 0x10, index := 0, slots := [tagBase] }] })

/-- Each stage of a scalar access's fault, and none. -/
theorem wit_ScalarAccessFaults : let s := strange {}
    (s.issues [10, 1, 7] ∧ s.issues [10, 2, 7] ∧ s.issues [10, 3, 7] ∧ s.issues [10, 5, 7] ∧ s.issues [10, 6, 7]) ∧
    ScalarGoes s.settleFirst ∧ ScalarGoes (s.beforeStore (s.ea 6 0) 8) ∧
    (ScalarGoes s.beforeMove ∧ s.beforeMove.stillHeld 0 0 (fun o => o.path = 5) = false) ∧
    faultAt s.settleFirst .read true true (s.ea 5 0) 4 = some (0, .misaligned) ∧
    faultAt s.settleFirst .read true true (s.ea 6 0) 8 = some (1, .pageAbsent) ∧
    faultAt s.settleFirst .write false true (s.xget 4) 8 = some (2, .memType) ∧
    faultAt (strange { tether := .released }).settleFirst .read true true (s.ea 1 0) 8 = some (4, .tetherDangling) ∧
    faultAt s.settleFirst .read true true (s.ea 3 0) 8 = some (6, .schedule) ∧
    faultAt (s.beforeStore (s.ea 6 0) 8) .write true false (s.ea 6 0) 8 = some (1, .pageAbsent) ∧
    faultAt s.settleFirst .write false true (s.xget 6) 16 = some (1, .pageAbsent) ∧
    faultAt s.settleFirst .read true true (s.xget 2) 1 = none := by
  unfold State.issues; decide +kernel

/-- A tag window takes an access of 8 bytes alone, and a legal value; TAGW takes a posted fault first. -/
theorem wit_ScalarAccessFaults_window : ∀ r ∈ [(2 : Reg), 8], ∀ n ∈ [4, 8], let s := strange {}
    accessFault s.settleFirst .read true true (s.ea r 0) n = none ∧
    okAnd (s.settleFirst.probe s.me.ptroot (s.ea r 0) .read true) (fun p => s.settleFirst.region p.pa == .tagWindow 0) = true ∧
    accessFault (s.beforeStore (s.ea r 0) n) .write true false (s.ea r 0) n = none ∧
    (let u := s.beforeStore (s.ea r 0) n
     okAnd (u.probe s.me.ptroot (s.ea r 0) .write true) (fun p => u.region p.pa == .tagWindow 0 && (p.pa % 16 == 0) == (r == 2) &&
       (r == 8 || (u.me.postedCpy.find? (fun q => q.slots.contains p.pa)).isSome)) = true ∧
     ScalarGoes u ∧ u.copyq = [] ∧ u.me.queue = [] ∧ u.stillHeld u.me.core u.me.slot (fun _ => true) = false) ∧
    (s.xget 7).toNat < 65536 ∧ ¬ (s.xget 9).toNat < 65536 ∧ (s.xget 7).toNat % 2 ^ 32 ≠ 0 := by
  decide +kernel

theorem wit_ScalarAccessFaults_poison : let s := strange { poison := true }
    accessFault s.settleFirst .read true true (s.ea 1 0) 8 = none ∧
    okAnd (s.settleFirst.probe s.me.ptroot (s.ea 1 0) .read true) (fun p => s.settleFirst.region p.pa == .hbm 0 && s.settleFirst.badLine p.pa) = true ∧
    (∀ n ∈ [4, 8, 16], ∀ rl, accessFault s.settleFirst .write false true (s.xget 1) n = none ∧
      okAnd (s.settleFirst.probe s.me.ptroot (s.xget 1) .write false) (fun p =>
        let pa := (s.settleFirst.settle p.pa).2
        let v := (s.settleFirst.settle p.pa).1.drainSbuf s.me.core fun e =>
          e.slot = s.me.slot && (rl || lineOf ((s.settleFirst.settle p.pa).1.follow e.pa) = lineOf pa)
        v.tether pa != .inTransit && v.badLine pa) = true) := by
  decide +kernel

/-- The line of 0x200F80 released, and four tethered lines on the way from 0x201000. -/
def longWay (s : State) : State :=
  (List.range 4).foldl (fun s j => s.putBytes (0x4000201000 + 0x1000 * j) (leBytes 8 ((0x4000202000 + 0x1000 * j) / 128 * 2 ^ 22)))
    { s with lines := (0x4000200F80, { tether := .released }) :: (List.range 4).map fun j => (0x4000201000 + 0x1000 * j, { tether := .tethered }) }

/-- A block whose words work from address a on. -/
def vecFrom (a : Word) (s : State) : State :=
  withMe (vec s) fun t => { t with queue := t.queue.map fun q => { q with caps := [(8, a), (9, 0x202000), (10, 0x203000), (11, 4)] } }

/-- Of the elements of word i from a on, each of m accesses of n bytes, e is the first that faults, at its access j at stage k. -/
def FirstFault (i : Instr) (a : Word) (acc : Acc) (reads : Bool) (m n e j k : Nat) (kind : FaultKind) : Prop :=
  let s := vecFrom a (strange {})
  let at_ := fun e j => faultAt s acc false reads (vbase s.vctx sampleLd + BitVec.ofNat 64 ((e * m + j) * n)) n
  s.heads i s.vctx ∧ e ∈ worked s s.vctx sampleLd ∧ j < m ∧ at_ e j = some (k, kind) ∧
    (∀ d ∈ worked s s.vctx sampleLd, d < e → ∀ x, x < m → at_ d x = none) ∧
    ((List.range m).all fun x => match at_ e x with | none => true | some f => k < f.1 || (k == f.1 && j ≤ x)) = true

theorem wit_VectorAccessFaults : FirstFault (.vld sampleLd) 0x201002 .read true 1 4 0 0 0 .misaligned ∧
    FirstFault (.vst sampleLd) 0x3FFFF8 .write false 1 4 2 0 2 .memType ∧
    FirstFault (.vld sampleLd) 0x410000 .read true 1 4 0 0 6 .schedule ∧
    FirstFault (.vldseg { sampleLd with vb := 2, vc := 2 }) 0x3FFFFA .read true 2 2 1 1 2 .memType ∧
    FirstFault (.vstseg { sampleLd with vb := 2, vc := 2 }) 0x3FFFFA .write false 2 2 1 1 2 .memType := by
  refine ⟨?_, ?_, ?_, ?_, ?_⟩ <;>
    exact ⟨heads_of (by decide) (by decide), by decide, by decide, by decide +kernel, by decide +kernel, by decide +kernel⟩

/-- Field 0 of an element on a released line, field 1 on a chain of four: the second is reported. -/
theorem wit_VectorAccessFaults_chains : let s := vecFrom 0x200FFE (longWay paged)
    let w : VWord := { sampleLd with vb := 2, vc := 2 }
    s.heads (.vldseg w) s.vctx ∧ 0 ∈ worked s s.vctx w ∧
    ((List.range 2).map fun j => faultAt s .read false true (vbase s.vctx w + BitVec.ofNat 64 (j * 2)) 2) =
      [some (4, .tetherDangling), some (3, .tetherLong)] :=
  ⟨heads_of (by decide) (by decide), by decide, by decide +kernel⟩

/-- An atomic reads the tag of its slot; a misaligned element comes before one that faults later. -/
theorem wit_VectorAccessFaults_atomic : let s := vecFrom 0x410000 (strange {})
    s.heads (.vamoadd sampleAmo) s.vctx ∧ 0 ∈ worked s s.vctx sampleAmo ∧
    faultAt s .write false true (s.vctx.x 8 + BitVec.ofInt 64 (voffset s s.vctx 6 0)) 4 = some (6, .schedule) :=
  ⟨heads_of (by decide) (by decide), by decide, by decide +kernel⟩

/-- Elements 0 and 1 can be read; element 2 begins the poisoned line. -/
theorem wit_VectorAccessFaults_poison : let s := vecFrom 0x200FF8 (strange { poison := true })
    let va := fun e => vbase s.vctx sampleLd + BitVec.ofNat 64 (e * 4)
    s.heads (.vld sampleLd) s.vctx ∧ Still s ∧ buffered s ((worked s s.vctx sampleLd).map fun e => (va e, 4)) = none ∧
    (∀ e ∈ worked s s.vctx sampleLd, accessFault s .read false true (va e) 4 = none) ∧
    okAnd (s.probe s.me.ptroot (va 2) .read false) (fun p => s.badLine (s.follow p.pa)) = true ∧
    ∀ d ∈ worked s s.vctx sampleLd, d < 2 → ∃ pa, ReadsAt s (va d) 4 pa := by
  refine ⟨heads_of (by decide) (by decide), by decide, by decide +kernel, by decide +kernel, by decide +kernel, fun d _ hd => ?_⟩
  interval_cases d
  · exact ⟨0x4000200FF8, reads_of (by decide +kernel)⟩
  · exact ⟨0x4000200FFC, reads_of (by decide +kernel)⟩

/-- An atomic whose element lies on the poisoned line. -/
theorem wit_VectorAccessFaults_atomic_poison : let s := vecFrom 0x201000 (strange { poison := true })
    let va := fun e => s.vctx.x 8 + BitVec.ofInt 64 (voffset s s.vctx 6 e)
    s.heads (.vamoadd sampleAmo) s.vctx ∧ Still s ∧ (∀ e ∈ (s.core s.me.core).squeue, e.slot ≠ s.me.slot) ∧
    s.stillHeld s.me.core s.me.slot (fun o => decide (o.path < 4)) = false ∧ 0 ∈ worked s s.vctx sampleAmo ∧
    (∀ e ∈ worked s s.vctx sampleAmo, accessFault s .write false true (va e) 4 = none ∧
      okAnd (s.probe s.me.ptroot (va e) .write false) (fun p => s.tether (s.follow p.pa) == .plain) = true) ∧
    okAnd (s.probe s.me.ptroot (va 0) .write false) (fun p => s.badLine (s.follow p.pa)) = true :=
  ⟨heads_of (by decide) (by decide), by decide, by decide, by decide, by decide, by decide +kernel, by decide +kernel⟩

/-- The walker reads e there. -/
def entryOk (s : State) (table va level e : Nat) : Bool :=
  s.mapped table && okAnd (s.resolve (entryPlace table va level)) fun r => (s.farTether r).isNone && (s.refusing r .read .read).isNone &&
    (s.farWait r.pa).isNone && !s.badLine r.pa && s.natAt r.pa 8 == e

theorem entry_of {s : State} {table va level e : Nat} (h : entryOk s table va level e = true) : EntryAt s table va level e := by
  simp only [entryOk, Bool.and_eq_true] at h
  obtain ⟨r, h1, h2⟩ := ok_with h.2
  simp only [Bool.and_eq_true, beq_iff_eq, Bool.not_eq_true', Option.isNone_iff_eq_none] at h2
  exact ⟨h.1, r, h1, h2.1.1.1.1, h2.1.1.1.2, h2.1.1.2, h2.1.2, h2.2⟩

/-- The table of level j on the way to an address of `paged`'s first 1 GB. -/
def tableAt (j : Nat) : Nat := readyRoot + 0x1000 * j

/-- The entries on that way. -/
theorem reaches_of {s : State} {va level : Nat} (hl : level ≤ 4) (hr : s.me.ptroot = BitVec.ofNat 64 readyRoot)
    (h : ∀ j, j < level → entryOk s (tableAt j) va j (tableAt (j + 1) + 1) = true) : Reaches s s.me.ptroot va level (tableAt level) := by
  refine ⟨tableAt, by rw [hr]; decide +kernel, rfl, fun j hj => ⟨_, entry_of (h j hj), ?_⟩⟩
  have hj4 : j < 4 := by omega
  clear hj h
  interval_cases j <;> unfold entryClean <;> decide +kernel

/-- `paged` with entry e of level k on the way to address 0. -/
def routed (k e : Nat) : State :=
  (paged.putBytes (tableAt 3) (leBytes 8 (tableAt 4 + 1))).putBytes (tableAt k) (leBytes 8 e)

/-- Address 0 reaches a table of level k, whose entry is e, and no TLB holds it. -/
def Arrived (k e : Nat) : Prop :=
  (routed k e).tlbHits (routed k e).me.ptroot 0 = [] ∧ Reaches (routed k e) (routed k e).me.ptroot 0 k (tableAt k) ∧
    EntryAt (routed k e) (tableAt k) 0 k e

theorem arrived_of {k e : Nat} (hk : k ≤ 4) (h1 : (routed k e).tlb = [])
    (h2 : ∀ j, j < k → entryOk (routed k e) (tableAt j) 0 j (tableAt (j + 1) + 1) = true) (h3 : entryOk (routed k e) (tableAt k) 0 k e = true)
    (h4 : (routed k e).me.ptroot = BitVec.ofNat 64 readyRoot) : Arrived k e :=
  ⟨by simp [State.tlbHits, h1], reaches_of hk h4 h2, entry_of h3⟩

/-- A leaf of 1 GB at the HBM's second gigabyte. -/
def bigLeaf (more : Nat) : Nat := hbmBase + 0x40000000 + 3 + more

theorem wit_TranslationResults : Arrived 0 0 ∧ Arrived 2 (1 + 2 ^ 62) ∧ Arrived 4 1 ∧ Arrived 2 (1 + 0x100) ∧ Arrived 1 3 ∧
    Arrived 2 (bigLeaf (3 * 2 ^ 60)) ∧ Arrived 2 (bigLeaf 0x100) ∧ Arrived 2 (3 + windowBase - 2 ^ 30) ∧ Arrived 2 (bigLeaf (2 ^ 55)) ∧
    Arrived 3 (hbmBase + 0x200000 + 3) ∧ Arrived 4 (hbmBase + 0x10000 + 3 + 2 ^ 61 + 2 ^ 57) := by
  refine ⟨?_, ?_, ?_, ?_, ?_, ?_, ?_, ?_, ?_, ?_, ?_⟩ <;>
    exact arrived_of (by decide) (by decide +kernel) (by decide +kernel) (by decide +kernel) (by decide +kernel)

theorem wit_TranslationResults_entries : entryClean 0 ∧ ¬ entryClean (1 + 2 ^ 62) ∧ entryClean 1 ∧ entryAddr (1 + 0x100) % 4096 ≠ 0 ∧
    (∀ e ∈ [3, bigLeaf (3 * 2 ^ 60), bigLeaf 0x100, 3 + windowBase - 2 ^ 30, bigLeaf (2 ^ 55), hbmBase + 0x200000 + 3,
      hbmBase + 0x10000 + 3 + 2 ^ 61 + 2 ^ 57], entryClean e ∧ e % 2 = 1 ∧ e / 2 % 2 = 1) ∧
    bigLeaf (3 * 2 ^ 60) / 2 ^ 60 % 4 = 3 ∧ entryAddr (bigLeaf 0x100) % 2 ^ 30 ≠ 0 ∧
    State.reset.pageMapped (entryAddr (3 + windowBase - 2 ^ 30)) (2 ^ 30) = false ∧
    (entryAddr (bigLeaf (2 ^ 55)) % 2 ^ 30 = 0 ∧ bigLeaf (2 ^ 55) / 2 ^ 60 % 4 = 0 ∧ bigLeaf (2 ^ 55) / 2 ^ 55 % 2 = 1 ∧
      bigLeaf (2 ^ 55) / 2 ^ 56 % 2 = 0 ∧ State.reset.pageMapped (entryAddr (bigLeaf (2 ^ 55))) (2 ^ 30) = true) ∧
    ((hbmBase + 0x10000 + 3 + 2 ^ 61 + 2 ^ 57) / 2 ^ 60 % 4 = 2) ∧ (0x0100000000000000 : Word).toNat / 2 ^ 56 ≠ 0 := by
  unfold entryClean; decide +kernel

/-- The table of level 2 is poisoned, or its line released; or the way leads outside the map. -/
theorem wit_TranslationResults_tables : (∀ x ∈ [({ poison := true } : LineMeta), { tether := .released }],
      let s := { routed 2 1 with lines := [(lineOf (tableAt 2), x)] }
      s.tlbHits s.me.ptroot 0 = [] ∧ (∀ j, j < 2 → entryOk s (tableAt j) 0 j (tableAt (j + 1) + 1) = true) ∧ s.mapped (tableAt 2) = true) ∧
    (okAnd (({ routed 2 1 with lines := [(lineOf (tableAt 2), { poison := true })] } : State).resolve (entryPlace (tableAt 2) 0 2))
      (fun r => ({ routed 2 1 with lines := [(lineOf (tableAt 2), { poison := true })] } : State).badLine r.pa) = true) ∧
    (∃ f, ({ routed 2 1 with lines := [(lineOf (tableAt 2), { tether := .released })] } : State).resolve (entryPlace (tableAt 2) 0 2) = .error f) ∧
    (routed 2 1).mapped 0 = false ∧ entryAddr 1 = 0 := by
  refine ⟨by decide +kernel, by decide +kernel, err_of (by decide +kernel), by decide +kernel, by decide⟩

/-- The way leads to a table in a module that no link reaches; it admits the read. -/
theorem wit_TranslationResults_far (hg : FarGrants) : let s := routed 1 (farAway + 1)
    s.mapped farAway = true ∧ s.resolve (entryPlace farAway 0 2) = .ok ⟨farAway, []⟩ ∧ s.farTether ⟨farAway, []⟩ = none ∧
      s.refusing ⟨farAway, []⟩ .read .read = none ∧ (s.farWait farAway).isSome = true := by
  intro s
  obtain ⟨ha, -, ht, -⟩ := far_passes (s := s) hg (by decide +kernel) (by decide +kernel)
  refine ⟨by decide +kernel, ok_eq (by decide +kernel), ht _, by simp [State.refusing, ha], by decide +kernel⟩

/-- A leaf of 2 MB at the map of the chip of module 3, of which only the HBM can be reached. -/
theorem wit_WindowAddresses : let w := windowBase + windowSpan * 3
    let e := w + 3 + 2 ^ 55
    (managed bare).firmware = true ∧ (bare.moduleNo = 0 ∧ (3 : Nat) ≠ bare.moduleNo) ∧
    ¬ (0x4000000000 ≤ 0 ∧ (0 : Nat) < 0x4000000000 + 8 * 0x1800000000) ∧
    Arrived 3 e ∧ entryClean e ∧ e % 2 = 1 ∧ e / 2 % 2 = 1 ∧ e / 2 ^ 60 % 2 ^ 2 ≠ 3 ∧ w % 2 ^ 21 = 0 ∧ entryAddr e = w :=
  ⟨rfl, by decide, by decide, arrived_of (by decide) (by decide +kernel) (by decide +kernel) (by decide +kernel) (by decide +kernel),
    by unfold entryClean; decide, by decide, by decide, by decide, by decide, by decide⟩

/-- Lines 0x1000 apart, the first n of them tethered to the next with the offset carried; the one after has the sideband x. -/
def chain (n : Nat) (x : Tether) : State :=
  (List.range n).foldl (fun s j => s.putBytes (0x4000201000 + 0x1000 * j) (leBytes 8 ((0x4000202000 + 0x1000 * j) / 128 * 2 ^ 22)))
    { bare with lines := (List.range n).map (fun j => (0x4000201000 + 0x1000 * j, { tether := .tethered })) ++
        if x = .plain then [] else [(0x4000201000 + 0x1000 * n, { tether := x })] }

theorem wit_ResolveResults : ∀ n, n < 5 → (∀ x ∈ [Tether.plain, .inTransit, .released],
    (∀ j, j < n → (chain n x).tether (0x4000201008 + 0x1000 * j) = .tethered ∧
      0x4000201008 + 0x1000 * (j + 1) =
        (chain n x).natAt (lineOf ((chain n x).canon (0x4000201008 + 0x1000 * j))) 8 / 2 ^ 22 % 2 ^ 42 * 128 + (0x4000201008 + 0x1000 * j) % 128) ∧
      (chain n x).tether (0x4000201008 + 0x1000 * n) = x) := by
  intro n hn
  interval_cases n <;> decide +kernel

/-! ### The whole machine -/

theorem wit_EveryWordDecodesBack : (Instr.add 1 2 3).wf = true ∧ encode (.add 1 2 3) ≠ .event ∧ Instr.wf (.brtopadd (epochWord true)) = true ∧
    encode (.brtopadd (epochWord true)) ≠ .event := by
  decide

/-- ADD x1, x2, x3 stands at the program counter. -/
def aboutToAdd : State := paged.layBytes 0x200000 (leBytes 4 (encR 0x01 1 2 3 0).toNat)

theorem wit_StepRunsDecoded_scalar : (∀ e ∈ aboutToAdd.armed, aboutToAdd.due e = false) ∧ aboutToAdd.agenda = [] ∧ aboutToAdd.runs = true ∧
    aboutToAdd.me.queue = [] ∧ ∃ n, aboutToAdd.fetch aboutToAdd.me.core aboutToAdd.me.ptroot aboutToAdd.me.pc 4 = .ok n ∧
      decodeScalar (BitVec.ofNat 32 n) = .ok (.add 1 2 3) :=
  ⟨by decide, by decide, by decide +kernel, by decide, _, ok_eq (a := (encR 0x01 1 2 3 0).toNat) (by decide +kernel), by decide⟩

theorem wit_StepRunsDecoded_vector : let s := convoy false
    (∀ e ∈ s.armed, s.due e = false) ∧ s.agenda = [] ∧ s.runs = true ∧ s.me.queue ≠ [] ∧ s.me.parked ≠ .vwait ∧ s.me.issued = none ∧
    ∃ n, s.fetch s.me.core s.me.ptroot s.vctx.addr 8 = .ok n ∧ decodeVector (BitVec.ofNat 64 n) = .ok convoyWord ∧ isLast convoyWord = true :=
  ⟨by decide, by decide, by decide +kernel, by decide, by decide, by decide, _, ok_eq (a := 0x8404083008000000) (by decide +kernel), by decide,
    by decide⟩

/-- A block whose convoy has two words, VADD and VADD with END 1; and a convoy that has issued. -/
def twoWordConvoy : State :=
  vec (paged.layBytes 0x200100 (leBytes 8 (wordOf (.vadd sampleAdd)) ++ leBytes 8 (wordOf (.vadd { sampleAdd with last := true }))))

theorem wit_StepRunsDecoded_convoy : let s := twoWordConvoy
    (∀ e ∈ s.armed, s.due e = false) ∧ s.agenda = [] ∧ s.runs = true ∧ s.me.queue ≠ [] ∧ s.me.parked ≠ .vwait ∧ s.me.issued = none ∧
    (∃ n, s.fetch s.me.core s.me.ptroot s.vctx.addr 8 = .ok n ∧ decodeVector (BitVec.ofNat 64 n) = .ok (.vadd sampleAdd) ∧
      isLast (.vadd sampleAdd) = false) ∧
    (convoy true).me.issued ≠ none ∧ (convoy true).runs = true :=
  ⟨by decide, by decide, by decide +kernel, by decide, by decide, by decide,
    ⟨_, ok_eq (a := wordOf (.vadd sampleAdd)) (by decide +kernel), by decide +kernel, by decide⟩, by decide, by decide +kernel⟩

theorem wit_StepRunsDecoded_other : (∀ e ∈ State.reset.armed, State.reset.due e = false) ∧ isEvent (.captureWrite none) = true ∧ ownEvent (.captureWrite none) = false ∧
    ({ State.reset with agenda := [.event (.captureWrite none)] }).agenda = [.event (.captureWrite none)] ∧ State.reset.agenda = [] ∧ State.reset.runs = false ∧
    State.reset.me.queue = [] := by
  decide

theorem reset_inv : State.reset.Inv := ⟨by unfold State.memOk; decide, by decide⟩

theorem wit_StepKeepsInv : State.reset.Inv ∧ ∃ t, step State.reset = .next t :=
  ⟨reset_inv, _, rfl⟩
/-! ## Small results, from the spec's examples or worked by hand from the rule named -/

/-- What a register holds after an instruction. -/
def xAfter (i : Instr) (s : State) (r : Reg) : Option Word := match exec i s with | .next t => some (t.xget r) | _ => none

/-- x5 holds −2^63, x6 −1, x7 5, x8 2^64 − 1. -/
def nums : State := withX bare [(5, 0x8000000000000000), (6, 0xFFFFFFFFFFFFFFFF), (7, 5), (8, 0xFFFFFFFFFFFFFFFF)]

/-- R92: a sum wraps; shifts use six bits; R10: x0 discards a write. -/
theorem test_alu : xAfter (.add 1 7 8) nums 1 = some 4 ∧ xAfter (.sra 1 5 6) nums 1 = some 0xFFFFFFFFFFFFFFFF ∧
    xAfter (.add 0 7 8) nums 0 = some 0 := by decide

/-- R92: the corners of DIV and REM. -/
theorem test_div : xAfter (.div 1 5 6) nums 1 = some 0x7FFFFFFFFFFFFFFF ∧ xAfter (.div 1 7 0) nums 1 = some 0x7FFFFFFFFFFFFFFF ∧
    xAfter (.rem 1 7 0) nums 1 = some 0 ∧ xAfter (.divN 1 7 0) nums 1 = some 0xFFFFFFFFFFFFFFFF := by decide

/-- R93: LUI sign-extends; ORI does not. -/
theorem test_immediates : xAfter (.lui 1 0x8000) nums 1 = some 0xFFFFFFFF80000000 ∧ xAfter (.ori 1 0 0x8000) nums 1 = some 0x8000 := by decide

/-- R94: LD.I8 extends the sign, LD.N8 does not. -/
theorem test_loads : (let s := mem0.putBytes 0x4000200010 [0xF3]; xAfter (.ldI8 1 5 0) s 1 = some 0xFFFFFFFFFFFFFFF3 ∧
    xAfter (.ldN8 1 5 0) s 1 = some 0xF3) := by decide +kernel

/-- R46: 0xF3 reads as −13 and as 243 (I8 is code 0, N8 code 1). -/
theorem test_integers : intOf 0 0xF3 = -13 ∧ intOf 1 0xF3 = 243 := by decide

/-- R47, R48: E4M3 0x7E is 448 and 0x3C is 1.5; E2M1 1001 is −1/2. Each is rounded to F32. -/
theorem test_patterns : roundVal 10 0 0 (fpDecode 12 0x7E) = 0x43E00000 ∧ roundVal 10 0 0 (fpDecode 12 0x3C) = 0x3FC00000 ∧
    roundVal 10 0 0 (fpDecode 19 0x9) = 0xBF000000 := by decide

/-- The spec's example of R53: the F32 value nearest to 1.3 rounds to 0x3A in E4M3. -/
theorem test_e4m3 : roundVal 12 0 0 (fpDecode 10 0x3FA66666) = 0x3A := by decide

/-- The four F32 elements 1.0, 1.0, 2^24 and 1.0 in v2, VL = 4. -/
def reducing : State := withMe vec0 fun t => { t with
  vregs := imgPut t.vregs (65536 * 2) (leBytes 4 0x3F800000 ++ leBytes 4 0x3F800000 ++ leBytes 4 0x4B800000 ++ leBytes 4 0x3F800000),
  queue := t.queue.map fun b => { b with ctl := { b.ctl with vl := 4 } } }

/-- The spec's example of VFREDSUM: the pairs are summed first. -/
theorem test_fredsum : xAfter (.vfredsum { blank with last := true, vd := 9, va := 2, fmt := 10 }) reducing 9 = some 0x4B800001 := by decide +kernel

/-- The spec's example of R337 and R339. -/
theorem test_window : canonAt 5 0x0001148800123400 = 0x8800123400 ∧ canonAt 0 0x0001148800123400 = 0x0001148800123400 ∧
    regionAt 0x0001148800123400 = .remote 5 ∧ localRegion 0x8800123400 = .hbm 3 ∧ (0x8800123400 - hbmBase) / 2097152 = 147456 := by decide
end Sys2Proof.Tests
end

section
/-! SUPPORT. R250: where a chain of tethered lines ends. -/
namespace Sys2Proof.Machine

/-! ## The state of one line -/

/-- A line without tether bits counts as plain. -/
theorem State.tether_of_not_hasTether {s : State} {pa : Nat} (h : s.hasTether pa = false) : s.tether pa = .plain := by
  simp [State.tether, h]

/-- Bits [48:7] of an address are those of its line. -/
@[simp] theorem lineNo_lineOf (pa : Nat) : lineNo (lineOf pa) = lineNo pa := by
  simp [lineNo, lineOf]

/-! ## One turn of the loop, by the state of the line -/

section
variable {s : State} {pa : Nat} (n : Nat) (via : List Nat)

theorem State.resolveFrom_of_plain (h : s.tether pa = .plain) : s.resolveFrom n via pa = .ok ⟨s.canon pa, via⟩ := by
  cases n <;> rw [State.resolveFrom, h]

theorem State.resolveFrom_of_inTransit (h : s.tether pa = .inTransit) : s.resolveFrom n via pa = .ok ⟨s.canon pa, via⟩ := by
  cases n <;> rw [State.resolveFrom, h]

theorem State.resolveFrom_of_released (h : s.tether pa = .released) : s.resolveFrom n via pa = .error
    { kind := .tetherDangling, detail := lineNo (s.canon pa) * 128 + 2 ^ 64 * (s.natAt (lineOf (s.canon pa)) 8 % 2 ^ 22) } := by
  cases n <;> rw [State.resolveFrom, h]

theorem State.resolveFrom_succ_of_tethered (h : s.tether pa = .tethered) :
    s.resolveFrom (n + 1) via pa = s.resolveFrom n (via ++ [lineOf (s.canon pa)]) (s.successor pa) := by
  rw [State.resolveFrom, h]

theorem State.resolveFrom_zero_of_tethered (h : s.tether pa = .tethered) : s.resolveFrom 0 via pa =
    .error { kind := .tetherLong, detail := longDetail (via ++ [lineOf (s.canon pa)]) } := by
  rw [State.resolveFrom, h]

end

/-! ## A chain of tethered lines -/

/-- The first `h` addresses of the sequence lie in tethered lines, and each leads to the next. -/
def State.Chain (s : State) (at_ : Nat → Nat) (h : Nat) : Prop :=
  ∀ j, j < h → s.tether (at_ j) = .tethered ∧ at_ (j + 1) = s.successor (at_ j)

/-- The lines that a chain passes, the first one first. -/
def State.passed (s : State) (at_ : Nat → Nat) (h : Nat) : List Nat := (List.range h).map fun j => lineOf (s.canon (at_ j))

theorem State.passed_succ (s : State) (at_ : Nat → Nat) (h : Nat) :
    s.passed at_ (h + 1) = s.passed at_ h ++ [lineOf (s.canon (at_ h))] := by
  simp [State.passed, List.range_succ]

theorem State.Chain.of_succ {s : State} {at_ : Nat → Nat} {h : Nat} (c : s.Chain at_ (h + 1)) : s.Chain at_ h :=
  fun j hj => c j (Nat.lt_succ_of_lt hj)

/-- Along a chain of `h` lines the loop makes `h` hops and records each line that it passes. -/
theorem State.Chain.resolveFrom {s : State} {at_ : Nat → Nat} {h : Nat} (c : s.Chain at_ h) (n : Nat) :
    s.resolveFrom (n + h) [] (at_ 0) = s.resolveFrom n (s.passed at_ h) (at_ h) := by
  induction h generalizing n with
  | zero => rfl
  | succ h ih =>
    obtain ⟨tethered, next⟩ := c h (Nat.lt_succ_self h)
    calc s.resolveFrom (n + (h + 1)) [] (at_ 0)
        = s.resolveFrom (n + 1 + h) [] (at_ 0) := by rw [Nat.add_right_comm, Nat.add_assoc]
      _ = s.resolveFrom (n + 1) (s.passed at_ h) (at_ h) := ih c.of_succ (n + 1)
      _ = s.resolveFrom n (s.passed at_ (h + 1)) (at_ (h + 1)) := by
        rw [resolveFrom_succ_of_tethered n _ tethered, passed_succ, next]

/-- A chain of at most three lines brings RESOLVE to the line at its end. -/
theorem State.Chain.resolve {s : State} {at_ : Nat → Nat} {h : Nat} (c : s.Chain at_ h) (hh : h ≤ 3) :
    s.resolve (at_ 0) = s.resolveFrom (3 - h) (s.passed at_ h) (at_ h) := by
  rw [← c.resolveFrom, Nat.sub_add_cancel hh, State.resolve]

/-- The fourth tethered line of a chain is one too many, and the fault names all four. -/
theorem State.Chain.resolve_four {s : State} {at_ : Nat → Nat} (c : s.Chain at_ 4) :
    s.resolve (at_ 0) = .error { kind := .tetherLong, detail := longDetail (s.passed at_ 4) } := by
  obtain ⟨fourth, -⟩ := c 3 (by decide)
  rw [c.of_succ.resolve le_rfl, resolveFrom_zero_of_tethered _ fourth, ← passed_succ]

/-! ## The detail of TETHER-LONG -/

/-- Entry `j` of the detail is the number of line `j` (R361). -/
theorem longDetail_entry (ls : List Nat) (j : Nat) (hj : j < ls.length) :
    longDetail ls / 2 ^ (42 * j) % 2 ^ 42 = lineNo ls[j] := by
  induction ls generalizing j with
  | nil => exact absurd hj (Nat.not_lt_zero j)
  | cons l ls ih =>
    have hl : lineNo l < 2 ^ 42 := Nat.mod_lt _ (by decide)
    cases j with
    | zero => simpa [longDetail] using hl
    | succ j =>
      have rest : longDetail (l :: ls) / 2 ^ 42 = longDetail ls := by
        rw [longDetail, Nat.add_mul_div_left _ _ (by decide), Nat.div_eq_of_lt hl, Nat.zero_add]
      rw [Nat.mul_succ, Nat.add_comm, pow_add, ← Nat.div_div_eq_div_mul, rest]
      exact ih j (Nat.lt_of_succ_lt_succ hj)

theorem longDetail_passed (s : State) (at_ : Nat → Nat) {h j : Nat} (hj : j < h) :
    longDetail (s.passed at_ h) / 2 ^ (42 * j) % 2 ^ 42 = lineNo (s.canon (at_ j)) := by
  rw [longDetail_entry _ j (by simpa [State.passed] using hj)]
  simp [State.passed]

/-- Settles O44: the loop follows the chain (`State.Chain.resolve`), and the state of the line at its end decides. -/
theorem resolveResults : Obligations.ResolveResults := by
  intro s at_ h word chain
  have c : s.Chain at_ h := chain
  refine ⟨fun hh ends => ?_, fun hh released => ?_, ?_⟩
  · rw [c.resolve hh]
    rcases ends with bare | plain | inTransit
    · exact State.resolveFrom_of_plain _ _ (State.tether_of_not_hasTether bare)
    · exact State.resolveFrom_of_plain _ _ plain
    · exact State.resolveFrom_of_inTransit _ _ inTransit
  · rw [c.resolve hh]
    exact State.resolveFrom_of_released _ _ released
  · rintro rfl
    exact ⟨_, c.resolve_four, fun j hj => longDetail_passed s at_ hj⟩

end Sys2Proof.Machine
end

section
/-! SUPPORT. R337: where a window address leads, the module number through link bring-up, and the walk (R311, R313) to a leaf
whose page lies outside the map. -/
namespace Sys2Proof.Machine

/-! ## Window addresses -/

/-- The window address of byte `a` of the local map of module `m` (R337). -/
def windowAddr (m a : Nat) : Nat := windowBase + m * windowSpan + a

section
variable {s : State} {m a : Nat}

/-- An address outside the own module's window names itself. -/
theorem State.canon_of_outside {pa : Nat}
    (h : pa < windowBase + windowSpan * s.moduleNo ∨ windowBase + windowSpan * (s.moduleNo + 1) ≤ pa) : s.canon pa = pa :=
  if_neg (by simp only [Bool.and_eq_true, decide_eq_true_eq]; omega)

theorem State.canon_of_local (ha : a < windowSpan) : s.canon a = a :=
  State.canon_of_outside (by unfold windowBase windowSpan at *; omega)

theorem State.canon_windowAddr_own (ha : a < windowSpan) : s.canon (windowAddr s.moduleNo a) = a := by
  have inside : windowBase + windowSpan * s.moduleNo ≤ windowAddr s.moduleNo a ∧
      windowAddr s.moduleNo a < windowBase + windowSpan * (s.moduleNo + 1) := by
    unfold windowAddr windowSpan at *
    omega
  rw [State.canon, canonAt, if_pos (by simpa using inside), windowAddr, Nat.mul_comm]
  omega

theorem State.canon_windowAddr_other (hm : m ≠ s.moduleNo) (ha : a < windowSpan) :
    s.canon (windowAddr m a) = windowAddr m a :=
  State.canon_of_outside (by unfold windowAddr windowSpan at *; omega)

/-- A local address lies in an HBM range just when it lies between the base of stack 0 and the end of stack 7. -/
theorem localRegion_eq_hbm_iff {a : Nat} :
    (∃ k, localRegion a = .hbm k) ↔ hbmBase ≤ a ∧ a < hbmBase + 8 * hbmSpan := by
  simp only [localRegion, Bool.and_eq_true, decide_eq_true_eq]
  by_cases h : hbmBase ≤ a ∧ a < hbmBase + 8 * hbmSpan
  · simp [h]
  · simp only [h, if_false, iff_false, not_exists]
    intro k
    repeat' split
    all_goals exact Region.noConfusion

theorem windowAddr_inWindow (hm : m < 64) (ha : a < windowSpan) :
    windowBase ≤ windowAddr m a ∧ windowAddr m a < windowBase + 64 * windowSpan := by
  simp only [windowAddr, windowSpan] at *
  omega

theorem windowAddr_offset (ha : a < windowSpan) : (windowAddr m a - windowBase) % windowSpan = a := by
  simp only [windowAddr, windowSpan] at *
  omega

theorem windowAddr_module (ha : a < windowSpan) : (windowAddr m a - windowBase) / windowSpan = m := by
  simp only [windowAddr, windowSpan] at *
  omega

theorem regionAt_windowAddr_of_hbm (hm : m < 64) (ha : a < windowSpan) (h : ∃ k, localRegion a = .hbm k) :
    regionAt (windowAddr m a) = .remote m := by
  obtain ⟨k, hk⟩ := h
  simp [regionAt, windowAddr_inWindow hm ha, windowAddr_offset ha, windowAddr_module ha, hk]

theorem regionAt_windowAddr_of_not_hbm (hm : m < 64) (ha : a < windowSpan) (h : ¬ ∃ k, localRegion a = .hbm k) :
    regionAt (windowAddr m a) = .unused := by
  simp only [regionAt, windowAddr_inWindow hm ha, windowAddr_offset ha, decide_true, Bool.and_self, if_true]
  split
  next k hk => exact absurd ⟨k, hk⟩ h
  next => rfl

end

/-! ## Addresses of one location -/

section
variable {s : State} {x y : Nat}

theorem State.region_congr (h : s.canon x = s.canon y) : s.region x = s.region y := by
  rw [State.region, h, State.region]

theorem State.byte_congr (h : s.canon x = s.canon y) : s.byte x = s.byte y := by
  rw [State.byte, h, State.byte]

theorem State.meta_congr (h : s.canon x = s.canon y) : s.meta_ x = s.meta_ y := by
  rw [State.meta_, h, State.meta_]

theorem State.tether_congr (h : s.canon x = s.canon y) : s.tether x = s.tether y := by
  rw [State.tether, State.hasTether, State.region_congr h, State.meta_congr h, State.tether, State.hasTether]

theorem State.poisoned_congr (h : s.canon x = s.canon y) : s.poisoned x = s.poisoned y := by
  rw [State.poisoned, State.meta_congr h, State.poisoned]

end

/-! ## The map has no such page -/

section
variable {s : State} {pa : Nat}

theorem State.mapped_of_unused (h : s.region pa = .unused) : s.mapped pa = false := by
  simp [State.mapped, h]

theorem State.pageMapped_of_unused (h : s.region pa = .unused) (size : Nat) : s.pageMapped pa size = false := by
  simp [State.pageMapped, State.onChip, h, State.mapped_of_unused h]

theorem State.onChipSizeOk_of_unused (h : s.region pa = .unused) (size : Nat) : s.onChipSizeOk pa size = true := by
  simp [State.onChipSizeOk, h]

end

/-! ## The module number of a state whose writes go on -/

section
variable (s : State) (pa : Nat) (o : Origin)

@[simp] theorem setMeta_moduleNo (x : LineMeta) : (s.setMeta pa x).moduleNo = s.moduleNo := by
  unfold State.setMeta; split <;> rfl

@[simp] theorem setPoison_moduleNo (p : Bool) : (s.setPoison pa p).moduleNo = s.moduleNo := setMeta_moduleNo s pa _

@[simp] theorem snoop_moduleNo (l : Nat) : (s.snoop l).moduleNo = s.moduleNo := by
  unfold State.snoop; simp only; split <;> rfl

@[simp] theorem dropStream_moduleNo (l : Nat) : (s.dropStream l).moduleNo = s.moduleNo := rfl

@[simp] theorem cacheWrite_moduleNo (n : Nat) : (s.cacheWrite o pa n).moduleNo = s.moduleNo := rfl

@[simp] theorem holdAt_moduleNo (c : Nat) (e : StoreEntry) : (s.holdAt pa c e).moduleNo = s.moduleNo := rfl

@[simp] theorem request_moduleNo (op : CxlOp) : (s.request op pa).moduleNo = s.moduleNo := by
  unfold State.request; split <;> rfl

@[simp] theorem answer_moduleNo : (s.answer o).moduleNo = s.moduleNo := by
  unfold State.answer; repeat' (split <;> try rfl)

@[simp] theorem performByte_moduleNo (v mask : Byte) : (s.performByte pa v mask).moduleNo = s.moduleNo := by
  unfold State.performByte; split <;> rfl

@[simp] theorem putBytes_moduleNo (bs : List Byte) : (s.putBytes pa bs).moduleNo = s.moduleNo := by
  induction bs generalizing s pa with
  | nil => rfl
  | cons b bs ih => rw [State.putBytes, ih, State.setByte_moduleNo]

section
variable (bs : List (Byte × Byte)) (heal : Bool)

@[simp] theorem performBytes_moduleNo : (s.performBytes pa bs).moduleNo = s.moduleNo := by
  induction bs generalizing s pa with
  | nil => rfl
  | cons b bs ih => rw [State.performBytes, ih, performByte_moduleNo]

@[simp] theorem holdAtPort_moduleNo (m : Nat) : (s.holdAtPort m pa bs heal o).moduleNo = s.moduleNo := rfl

@[simp] theorem landAt_moduleNo : (s.landAt pa bs heal o).moduleNo = s.moduleNo := by
  by_cases hw : o.path = hwPath <;> cases heal <;> simp [State.landAt, hw]

@[simp] theorem performAt_moduleNo : (s.performAt pa bs heal o).moduleNo = s.moduleNo := by
  unfold State.performAt
  split
  · split
    · simp
    · split <;> simp
  · simp

@[simp] theorem sendSlow_moduleNo : (s.sendSlow pa bs heal o).moduleNo = s.moduleNo := by
  unfold State.sendSlow; simp only; split <;> simp

@[simp] theorem sendStore_moduleNo : (s.sendStore pa bs heal o).moduleNo = s.moduleNo := by
  unfold State.sendStore; split <;> simp

@[simp] theorem arriveAt_moduleNo : (s.arriveAt pa bs heal o).moduleNo = s.moduleNo := by
  unfold State.arriveAt; simp only; split <;> simp

end

/-- Writes that arrive one after the other. -/
theorem foldl_arriveAt_moduleNo (ws : List PortWrite) :
    (ws.foldl (fun s w => s.arriveAt w.addr w.bytes w.heal w.origin) s).moduleNo = s.moduleNo := by
  induction ws generalizing s with
  | nil => rfl
  | cons w ws ih => rw [List.foldl_cons, ih, arriveAt_moduleNo]

@[simp] theorem flushHeld_moduleNo : s.flushHeld.moduleNo = s.moduleNo := foldl_arriveAt_moduleNo _ _

@[simp] theorem linkBack_moduleNo : s.linkBack.moduleNo = s.moduleNo := flushHeld_moduleNo s

end

/-- What the model's dispatch makes of LINK_BRING_UP. -/
theorem exec_linkBringUp (cfg : LinkConfig) (s : State) : exec (.linkBringUp cfg) s = execLinkBringUp cfg s := by rfl

/-- Link bring-up by firmware numbers the module. -/
theorem linkBringUp_numbers {s : State} {cfg : LinkConfig} (hf : s.firmware = true) (hn : cfg.number < 64) :
    ∃ t, exec (.linkBringUp cfg) s = .next t ∧ t.moduleNo = cfg.number := by
  rw [exec_linkBringUp, execLinkBringUp, firmwareStep_on hf, if_neg (Nat.not_le.mpr hn)]
  exact ⟨_, rfl, linkBack_moduleNo _⟩

/-! ## The walk -/

theorem entryPlace_eq (table va level : Nat) : table + 8 * vaIndex va level = entryPlace table va level := by
  match level with
  | 0 | 1 | 2 | 3 => rfl
  | _ + 4 => rfl

theorem pteV_eq (e : Nat) : pteV e = decide (e % 2 = 1) := by simp [pteV, bits]

theorem pteLeaf_eq (e : Nat) : pteLeaf e = decide (e / 2 % 2 = 1) := by simp [pteLeaf, bits]

theorem pteAddr_eq (e : Nat) : pteAddr e = entryAddr e := rfl

theorem pteRsv_of_entryClean {e : Nat} (h : entryClean e) : pteRsv e = true := by
  obtain ⟨high, middle, low⟩ := h
  simp only [pteRsv, bits, high, middle, low, decide_true, Bool.and_self]

section
variable {s : State} {va level table e : Nat}

/-- An entry that names a table sends the walk on to it. -/
theorem State.walkFrom_of_table_entry (h : EntryAt s table va level e) (hv : e % 2 = 1) (hc : entryClean e) (hl : e / 2 % 2 = 0)
    (h4 : level < 4) (aligned : level < 3 → entryAddr e % 4096 = 0) (n : Nat) :
    s.walkFrom va (n + 1) level table = s.walkFrom va n (level + 1) (entryAddr e) := by
  obtain ⟨mapped, r, resolved, noFault, admitted, noWait, good, rfl⟩ := h
  rw [State.walkFrom]
  simp [entryPlace_eq, mapped, resolved, noFault, admitted, noWait, good, pteV_eq, pteLeaf_eq, pteAddr_eq, hv, hl,
    pteRsv_of_entryClean hc, Nat.ne_of_lt h4]
  exact fun h3 off => absurd (aligned h3) (of_decide_eq_true off)

/-- A leaf whose page lies outside the map ends the walk (R313). -/
theorem State.walkFrom_of_unmapped_leaf (h : EntryAt s table va level e) (hv : e % 2 = 1) (hc : entryClean e) (hl : e / 2 % 2 = 1)
    (h2 : 2 ≤ level) (hmt : e / 2 ^ 60 % 2 ^ 2 ≠ 3) (aligned : entryAddr e % pageSize level = 0)
    (unused : s.region (entryAddr e) = .unused) (n : Nat) :
    s.walkFrom va (n + 1) level table = .error { kind := .physRange, detail := paDetail (entryAddr e) } := by
  obtain ⟨mapped, r, resolved, noFault, admitted, noWait, good, rfl⟩ := h
  have mt : pteMt (s.natAt r.pa 8) ≠ 3 := hmt
  rw [State.walkFrom]
  simp [entryPlace_eq, mapped, resolved, noFault, admitted, noWait, good, pteV_eq, pteLeaf_eq, pteAddr_eq, hv, hl,
    pteRsv_of_entryClean hc, Nat.not_lt.mpr h2, mt, aligned, State.onChipSizeOk_of_unused unused,
    State.pageMapped_of_unused unused]

end

/-- A walk from the root comes to the table that `Reaches` names. -/
theorem State.walkFrom_of_reaches {s : State} {ptroot : Word} {va level table : Nat} (h : Reaches s ptroot va level table)
    (hl : level ≤ 4) (n : Nat) : s.walkFrom va (n + level) 0 (rootOf ptroot) = s.walkFrom va n level table := by
  obtain ⟨at_, root, rfl, way⟩ := h
  induction level generalizing n with
  | zero => rw [root]; rfl
  | succ level ih =>
    obtain ⟨e, entry, valid, inner, clean, aligned, next⟩ := way level (Nat.lt_succ_self level)
    calc s.walkFrom va (n + (level + 1)) 0 (rootOf ptroot)
        = s.walkFrom va (n + 1 + level) 0 (rootOf ptroot) := by rw [Nat.add_right_comm, Nat.add_assoc]
      _ = s.walkFrom va (n + 1) level (at_ level) :=
        ih (Nat.le_of_succ_le hl) (n + 1) fun j hj => way j (Nat.lt_succ_of_lt hj)
      _ = s.walkFrom va n (level + 1) (at_ (level + 1)) := by
        rw [State.walkFrom_of_table_entry entry valid clean inner (Nat.lt_of_succ_le hl) aligned, next]

/-! ## Translation -/

section
variable {s : State} {ptroot va : Word}

theorem State.walk_of_low (h : va.toNat / 2 ^ 56 = 0) : s.walk ptroot va = s.walkFrom va.toNat 5 0 (rootOf ptroot) := by
  have low : va.toNat % 2 ^ 57 = va.toNat := Nat.mod_eq_of_lt (by omega)
  have canon : canonical va = true := by simp only [canonical, bits, h]; rfl
  rw [State.walk, if_pos canon, low]

theorem State.leafOf_of_tlbHits_nil (h : s.tlbHits ptroot va = []) : s.leafOf ptroot va = s.walk ptroot va := by
  simp [State.leafOf, h]

theorem State.xlate_of_leafOf_error {f : FaultInfo} (h : s.leafOf ptroot va = .error f) (acc : Acc) :
    s.xlate ptroot va acc = .error { f with addr := va } := by
  rw [State.xlate, h]

/-- A translation that names a page outside the map raises PHYS-RANGE with the page's address (R313, R361). -/
theorem State.xlate_unmapped {level table e : Nat} (acc : Acc) (hits : s.tlbHits ptroot va = []) (low : va.toNat / 2 ^ 56 = 0)
    (h2 : 2 ≤ level) (h4 : level ≤ 4) (way : Reaches s ptroot va.toNat level table) (entry : EntryAt s table va.toNat level e)
    (valid : e % 2 = 1) (leaf : e / 2 % 2 = 1) (clean : entryClean e) (mt : e / 2 ^ 60 % 2 ^ 2 ≠ 3)
    (aligned : entryAddr e % pageSize level = 0) (unused : s.region (entryAddr e) = .unused) :
    s.xlate ptroot va acc = .error { kind := .physRange, addr := va, detail := paDetail (entryAddr e) } := by
  have levels : 5 = (4 - level) + 1 + level := by omega
  have walk : s.leafOf ptroot va = .error { kind := .physRange, detail := paDetail (entryAddr e) } := by
    rw [State.leafOf_of_tlbHits_nil hits, State.walk_of_low low, levels, State.walkFrom_of_reaches way h4,
      State.walkFrom_of_unmapped_leaf entry valid clean leaf h2 mt aligned unused]
  exact State.xlate_of_leafOf_error walk acc

end

theorem paDetail_windowAddr {m a : Nat} (hm : m < 64) (ha : a < windowSpan) : paDetail (windowAddr m a) = windowAddr m a :=
  Nat.mod_eq_of_lt (by simp only [windowAddr, windowBase, windowSpan] at *; omega)

/-- Settles O45: `State.canon` takes a window address of the own module to the local one and leaves the others, of which
`regionAt` has the HBM ranges alone; a leaf that names another range ends the walk (`State.xlate_unmapped`). -/
theorem windowAddresses : Obligations.WindowAddresses := by
  intro s m a hm ha w hbm
  have hw : w = windowAddr m a := rfl
  have isHbm : (∃ k, localRegion a = .hbm k) ↔ hbm := localRegion_eq_hbm_iff
  refine ⟨?_, ?_, fun other h => ?_, fun other h => ?_⟩
  · rintro cfg hf rfl
    exact linkBringUp_numbers hf hm
  · rintro rfl
    have same : s.canon w = s.canon a := by rw [hw, State.canon_windowAddr_own ha, State.canon_of_local ha]
    exact ⟨State.region_congr same, State.byte_congr same, State.tether_congr same, State.poisoned_congr same⟩
  · rw [State.region, hw, State.canon_windowAddr_other other ha, regionAt_windowAddr_of_hbm hm ha (isHbm.mpr h)]
  · have unused : s.region w = .unused := by
      rw [State.region, hw, State.canon_windowAddr_other other ha,
        regionAt_windowAddr_of_not_hbm hm ha fun k => h (isHbm.mp k)]
    refine ⟨State.mapped_of_unused unused, ?_⟩
    intro ptroot va acc level table e hits low h2 h4 way entry valid leaf clean mt aligned names
    have detail : paDetail (entryAddr e) = w := by rw [names, hw, paDetail_windowAddr hm ha]
    rw [← detail]
    exact State.xlate_unmapped acc hits low h2 h4 way entry valid leaf clean mt (names ▸ aligned) (names ▸ unused)

end Sys2Proof.Machine
end
